-- ==== Sys2Proof/Word.lean ====
section
/-! DEFINITION. Word types and the two plain containers the state is built from: a sparse map from
numbers to values, and byte memory in canonical form. -/

namespace Sys2Proof

/-- A scalar register, a control register or an address (02 R46). -/
abbrev Word := BitVec 64

/-- A vector register (02 R46, R48). -/
abbrev Vec := BitVec 1024

/-- A mask register (02 R46, R48). -/
abbrev Mask := BitVec 128

/-- A byte. -/
abbrev Byte := BitVec 8

/-- A sparse map: pairs of key and value with strictly rising keys. -/
abbrev AMap (α : Type) := List (Nat × α)

/-- The value of the first pair whose key is `k`. -/
def AMap.get? {α : Type} : AMap α → Nat → Option α
  | [], _ => none
  | (j, v) :: r, k => if j = k then some v else AMap.get? r k

/-- The value at `k`, or `d` where the map lists none. -/
def AMap.getD {α : Type} (d : α) (m : AMap α) (k : Nat) : α := (AMap.get? m k).getD d

/-- The map without any pair whose key is `k`. -/
def AMap.erase {α : Type} : AMap α → Nat → AMap α
  | [], _ => []
  | (j, v) :: r, k => if j = k then AMap.erase r k else (j, v) :: AMap.erase r k

/-- A pair put before the first larger key. -/
def AMap.insert {α : Type} : AMap α → Nat → α → AMap α
  | [], k, x => [(k, x)]
  | (j, v) :: r, k, x => if k < j then (k, x) :: (j, v) :: r else (j, v) :: AMap.insert r k x

/-- The map with `k` mapped to `x`. -/
def AMap.set {α : Type} (m : AMap α) (k : Nat) (x : α) : AMap α := AMap.insert (AMap.erase m k) k x

/-- The keys rise strictly from `lo` on. -/
def AMap.risingFrom {α : Type} : Nat → AMap α → Bool
  | _, [] => true
  | lo, (j, _) :: r => decide (lo ≤ j) && AMap.risingFrom (j + 1) r

/-- Byte memory: address and byte, canonical when `Memory.wf`. -/
abbrev Memory := List Host.Cell

/-- What an unlisted address reads as (log 2). -/
def Memory.unlisted : Byte := 0

/-- One byte. -/
def Memory.get (m : Memory) (a : Nat) : Byte := AMap.getD Memory.unlisted m a

/-- One byte written; the value of an unlisted address is never listed. -/
def Memory.set (m : Memory) (a : Nat) (b : Byte) : Memory :=
  if b = Memory.unlisted then AMap.erase m a else AMap.set m a b

/-- No cell holds what an unlisted address reads as. -/
def Memory.noUnlisted : Memory → Bool
  | [] => true
  | (_, b) :: r => decide (b ≠ Memory.unlisted) && Memory.noUnlisted r

/-- The canonical form: addresses strictly rising, no cell equal to an unlisted one. -/
def Memory.wf (m : Memory) : Bool := AMap.risingFrom 0 m && Memory.noUnlisted m

end Sys2Proof
end

