-- ==== Sys2Proof/Syntax.lean ====
section
/-! DEFINITION. The syntax of the panel's steps: one constructor of `Instr` for every row of the opcode
table. Slot and long-form rows carry their operand fields; event rows name the agent they act on, but for events from
outside and firmware services, whose operands stand in the input register of the state. -/

namespace Sys2Proof

/-- Element type of a B.V form, fn [6:4] (02 R43). -/
inductive ElemType where
  | i8 | i16 | i32 | i64 | f16 | bf16 | f32 | f64
  deriving DecidableEq, Repr

/-- Operation of AMO and RUPD, fn [4:0] (03 R76, 09 R236). -/
inductive AmoOp where
  | add | and | or | xor | min | max | minu | maxu | swap | fadd | fmin | fmax | bfadd
  deriving DecidableEq, Repr

/-- Width of CAS, fn [1:0] (03 R76, 09 R237). -/
inductive CasWidth where
  | w | d | q
  deriving DecidableEq, Repr

/-- Kind of FENCE, fn [1:0] (03 R76, 09 R244). -/
inductive FenceKind where
  | acq | rel | acqrel | seq
  deriving DecidableEq, Repr

/-- Operation of CPYR, flags [1:0] (10 R254). -/
inductive RedOp where
  | sum | min | max
  deriving DecidableEq, Repr

/-- Wait and signal fields of an engine command (02 R45). -/
structure EngCmd where
  wsem : BitVec 8
  wthr : BitVec 8
  ssem : BitVec 8
  sinc : BitVec 4
  deriving DecidableEq, Repr

/-- Flags of a matrix form, fn [2:0] (03 R82). -/
structure MFlags where
  rz : Bool
  sat : Bool
  drain : Bool
  deriving DecidableEq, Repr

/-- Who asked for a firmware service: a supervisor thread's TRAP (14 R381) or a host mailbox (15 R416). -/
inductive Requester where
  | thread (core thr : Nat)
  | mailbox (port : Nat)
  deriving DecidableEq, Repr

/-- A die: a logical compute die or a memory die by index (01 R13, R15). -/
inductive DieRef where
  | compute (i : Nat)
  | memory (i : Nat)
  deriving DecidableEq, Repr

/-- A link that carries ordered packets (10 R276): a thread's injection point, a port of a die (0 to 3 the
die-to-die links north, east, south and west, 4 and 5 its Derene links, 7 its local agents, R279). -/
inductive Link where
  | inject (core thr : Nat)
  | port (die : DieRef) (n : Nat)
  deriving DecidableEq, Repr

/-- Where an ordered packet is applied (10 R278). -/
inductive OrdTarget where
  | home (die : Nat)
  | bank (core : Nat)
  | inbox (core : Nat)
  deriving DecidableEq, Repr

/-- The kind of an access for rights and causes (08 R185, 13 R360). -/
inductive AccKind where
  | load | store | atomic | fetch
  deriving DecidableEq, Repr

/-- One step of the panel: an instruction of slot A, slot B or the long framing, or an event. -/
inductive Instr where
  -- integer ALU group (04 R90)
  | add (d a b : BitVec 6)
  | sub (d a b : BitVec 6)
  | and (d a b : BitVec 6)
  | or (d a b : BitVec 6)
  | xor (d a b : BitVec 6)
  | andn (d a b : BitVec 6)
  | orn (d a b : BitVec 6)
  | sll (d a b : BitVec 6)
  | srl (d a b : BitVec 6)
  | sra (d a b : BitVec 6)
  | ror (d a b : BitVec 6)
  | slt (d a b : BitVec 6)
  | sltu (d a b : BitVec 6)
  | seq (d a b : BitVec 6)
  | sne (d a b : BitVec 6)
  | min (d a b : BitVec 6)
  | max (d a b : BitVec 6)
  | minu (d a b : BitVec 6)
  | maxu (d a b : BitVec 6)
  | addw (d a b : BitVec 6)
  | subw (d a b : BitVec 6)
  | sllw (d a b : BitVec 6)
  | srlw (d a b : BitVec 6)
  | sraw (d a b : BitVec 6)
  -- multiply and divide group (04 R91, R92)
  | mul (d a b : BitVec 6)
  | mulh (d a b : BitVec 6)
  | mulhu (d a b : BitVec 6)
  | mulhsu (d a b : BitVec 6)
  | mulw (d a b : BitVec 6)
  | div (d a b : BitVec 6)
  | divu (d a b : BitVec 6)
  | rem (d a b : BitVec 6)
  | remu (d a b : BitVec 6)
  | divw (d a b : BitVec 6)
  | divuw (d a b : BitVec 6)
  | remw (d a b : BitVec 6)
  | remuw (d a b : BitVec 6)
  -- bit and address group (04 R93)
  | clz (d a : BitVec 6)
  | ctz (d a : BitVec 6)
  | popc (d a : BitVec 6)
  | brev (d a : BitVec 6)
  | bswap (d a : BitVec 6)
  | sxb (d a : BitVec 6)
  | sxh (d a : BitVec 6)
  | sxw (d a : BitVec 6)
  | zxh (d a : BitVec 6)
  | zxw (d a : BitVec 6)
  | lea1 (d a b : BitVec 6)
  | lea2 (d a b : BitVec 6)
  | lea3 (d a b : BitVec 6)
  | lea4 (d a b : BitVec 6)
  -- immediates and constants (04 R94, R95)
  | addi (d a : BitVec 6) (i : BitVec 13)
  | andi (d a : BitVec 6) (i : BitVec 13)
  | ori (d a : BitVec 6) (i : BitVec 13)
  | xori (d a : BitVec 6) (i : BitVec 13)
  | slti (d a : BitVec 6) (i : BitVec 13)
  | sltiu (d a : BitVec 6) (i : BitVec 13)
  | slli (d a : BitVec 6) (n : BitVec 6)
  | srli (d a : BitVec 6) (n : BitVec 6)
  | srai (d a : BitVec 6) (n : BitVec 6)
  | addiw (d a : BitVec 6) (i : BitVec 13)
  | lui (d : BitVec 6) (i : BitVec 19)
  | addpc (d : BitVec 6) (i : BitVec 19)
  | movl (d : BitVec 6) (i : BitVec 50)
  -- branches and jumps (04 R96, R97)
  | beq (a b : BitVec 6) (o : BitVec 13)
  | bne (a b : BitVec 6) (o : BitVec 13)
  | blt (a b : BitVec 6) (o : BitVec 13)
  | bge (a b : BitVec 6) (o : BitVec 13)
  | bltu (a b : BitVec 6) (o : BitVec 13)
  | bgeu (a b : BitVec 6) (o : BitVec 13)
  | jal (d : BitVec 6) (i : BitVec 19)
  | jalr (d a : BitVec 6) (i : BitVec 13)
  | ljal (d : BitVec 6) (i : BitVec 50)
  | throw (a : BitVec 6)
  | svc (n : BitVec 13)
  -- loads and stores (09 R230, R231)
  | ldb (d b : BitVec 6) (o : BitVec 13)
  | ldbu (d b : BitVec 6) (o : BitVec 13)
  | ldh (d b : BitVec 6) (o : BitVec 13)
  | ldhu (d b : BitVec 6) (o : BitVec 13)
  | ldw (d b : BitVec 6) (o : BitVec 13)
  | ldwu (d b : BitVec 6) (o : BitVec 13)
  | ldd (d b : BitVec 6) (o : BitVec 13)
  | ldq (d b : BitVec 6) (o : BitVec 13)
  | stb (d b : BitVec 6) (o : BitVec 13)
  | sth (d b : BitVec 6) (o : BitVec 13)
  | stw (d b : BitVec 6) (o : BitVec 13)
  | std (d b : BitVec 6) (o : BitVec 13)
  | stq (d b : BitVec 6) (o : BitVec 13)
  | vld (d : BitVec 5) (b : BitVec 6) (o : BitVec 13)
  | vst (d : BitVec 5) (b : BitVec 6) (o : BitVec 13)
  | vldx (d : BitVec 5) (a b : BitVec 6) (z : BitVec 2)
  | vldxIx (d : BitVec 5) (a : BitVec 6) (b : BitVec 5) (z : BitVec 2)
  | vstx (d : BitVec 5) (a b : BitVec 6) (z : BitVec 2)
  | vstxIx (d : BitVec 5) (a : BitVec 6) (b : BitVec 5) (z : BitVec 2)
  | sto (d b : BitVec 6) (o : BitVec 13)
  | ldf (d b : BitVec 6) (o : BitVec 13)
  | ldfe (d b : BitVec 6) (o : BitVec 13)
  | stff (d b : BitVec 6) (o : BitVec 13)
  | stef (d b : BitVec 6) (o : BitVec 13)
  | feqry (d a : BitVec 6)
  | feset (a : BitVec 6)
  | feclr (a : BitVec 6)
  | amo (d a b : BitVec 6) (ord dbl : Bool) (op : AmoOp)
  | cas (d a b : BitVec 6) (ord : Bool) (w : CasWidth)
  | rupd (a b : BitVec 6) (ord dbl : Bool) (op : AmoOp)
  | msgapp (d a : BitVec 6) (ord : Bool) (n : BitVec 3)
  | msgtake (d : BitVec 6) (n : BitVec 3)
  | fence (a b : BitVec 6) (m e : Bool) (k : FenceKind)
  | rtset (a b : BitVec 6) (s : BitVec 4)
  | rtdesc (a : BitVec 6) (s : BitVec 4)
  | clean (a b : BitVec 6) (inv : Bool)
  | pref (hint : Bool) (b : BitVec 6) (o : BitVec 13)
  -- tasks (11)
  | spawn (d : BitVec 6) (i : BitVec 19)
  | spawnr (d a : BitVec 6)
  | sync (d : BitVec 6)
  | publ (a b : BitVec 6)
  | ticket (d a : BitVec 6)
  | donate (a b : BitVec 6)
  | bar (a : BitVec 6)
  | bart (d a : BitVec 6)
  | chsend (a b : BitVec 6)
  | chrecv (d a : BitVec 6)
  | waitw (d a b : BitVec 6) (eq : Bool)
  | semw (a : BitVec 6) (k : BitVec 8)
  | sems (a : BitVec 6) (k : BitVec 8)
  | drnwait (d : BitVec 6)
  | drnput (a : BitVec 6)
  -- system (02 R64, R65; 13 R366; 14)
  | getc (d : BitVec 6) (sel : BitVec 13)
  | putc (a : BitVec 6) (sel : BitVec 13)
  | trap (n : BitVec 13)
  | xinv (a b : BitVec 6) (z : BitVec 2)
  | xinvCtx (a : BitVec 6) (z : BitVec 2)
  | rlatch (a : BitVec 6)
  | gstop (a : BitVec 6)
  | gresume (a : BitVec 6)
  | dbgstep (a : BitVec 6)
  -- vector forms (06)
  | vadd (vd va vb : BitVec 5) (q : BitVec 3) (ty : ElemType) (v : BitVec 4)
  | vsub (vd va vb : BitVec 5) (q : BitVec 3) (ty : ElemType) (v : BitVec 4)
  | vmul (vd va vb : BitVec 5) (q : BitVec 3) (ty : ElemType) (v : BitVec 4)
  | vfma (vd va vb : BitVec 5) (q : BitVec 3) (ty : ElemType)
  | vmin (vd va vb : BitVec 5) (q : BitVec 3) (ty : ElemType) (v : BitVec 4)
  | vmax (vd va vb : BitVec 5) (q : BitVec 3) (ty : ElemType) (v : BitVec 4)
  | vabs (vd va : BitVec 5) (q : BitVec 3) (ty : ElemType) (v : BitVec 4)
  | vneg (vd va : BitVec 5) (q : BitVec 3) (ty : ElemType) (v : BitVec 4)
  | vand (vd va vb : BitVec 5) (q : BitVec 3) (ty : ElemType)
  | vor (vd va vb : BitVec 5) (q : BitVec 3) (ty : ElemType)
  | vxor (vd va vb : BitVec 5) (q : BitVec 3) (ty : ElemType)
  | vshl (vd va vb : BitVec 5) (q : BitVec 3) (ty : ElemType)
  | vshr (vd va vb : BitVec 5) (q : BitVec 3) (ty : ElemType) (v : BitVec 4)
  | vcmp (qd : BitVec 3) (va vb : BitVec 5) (q : BitVec 3) (ty : ElemType) (v : BitVec 4)
  | vsel (vd va vb : BitVec 5) (q : BitVec 3) (ty : ElemType)
  | vcvt (vd va : BitVec 5) (fmt : BitVec 5) (q : BitVec 3) (ty : ElemType) (v : BitVec 4)
  | vred (vd va : BitVec 5) (q : BitVec 3) (ty : ElemType) (v : BitVec 4)
  | vperm (vd va vb : BitVec 5) (q : BitVec 3) (ty : ElemType)
  | vbcs (vd sa : BitVec 5) (q : BitVec 3) (ty : ElemType)
  | vext (sd va sb : BitVec 5) (q : BitVec 3) (ty : ElemType) (v : BitVec 4)
  | viota (vd : BitVec 5) (q : BitVec 3) (ty : ElemType)
  | vscale (vd va vb : BitVec 5) (q : BitVec 3) (ty : ElemType)
  | vmov (vd va : BitVec 5) (q : BitVec 3) (ty : ElemType)
  | vdiv (vd va vb : BitVec 5) (q : BitVec 3) (ty : ElemType) (v : BitVec 4)
  | vsqrt (vd va : BitVec 5) (q : BitVec 3) (ty : ElemType)
  | sfr (vd va : BitVec 5) (q : BitVec 3) (ty : ElemType) (v : BitVec 4)
  | vpop (vd : BitVec 5) (w : BitVec 3) (q : BitVec 3) (ty : ElemType)
  | vpush (w : BitVec 3) (va : BitVec 5) (q : BitVec 3) (ty : ElemType)
  -- matrix forms (07)
  | mma (d a b : BitVec 5) (f : MFlags)
  | mmas (d a b : BitVec 5) (w : BitVec 3) (f : MFlags)
  | mmag (d a b : BitVec 5) (four : Bool) (f : MFlags)
  | mmaw (d a b : BitVec 5) (f : MFlags)
  | tzero (d : BitVec 5)
  | trowv (d va sb : BitVec 5) (q : BitVec 3)
  | tvrow (vd a sb : BitVec 5) (q : BitVec 3)
  | mmal (e : EngCmd) (d a b : BitVec 5) (f : MFlags)
  -- copy-engine commands (10)
  | cpy (e : EngCmd) (a b c : BitVec 6) (tr pad : Bool)
  | cpyr (e : EngCmd) (a b c : BitVec 6) (op : RedOp) (tsrc ord int : Bool)
  | cbatch (e : EngCmd)
  | cwait (e : EngCmd) (a : BitVec 6)
  | sbind (e : EngCmd) (a b : BitVec 6) (w : BitVec 3) (wr : Bool)
  | sunbind (e : EngCmd) (w : BitVec 3)
  | tld (e : EngCmd) (a b : BitVec 6) (t : BitVec 5) (tr pad : Bool)
  | tst (e : EngCmd) (a b : BitVec 6) (t : BitVec 5) (tr : Bool)
  | tldw (e : EngCmd) (a b c : BitVec 6) (t : BitVec 5)
  -- events of accesses and the special-function units
  | loadResultArrival (core thr seq : Nat)
  | accessCompletion (core thr seq : Nat)
  | accessHeld (core thr seq cause : Nat)
  | remoteTimeout (core thr seq : Nat)
  | atomicAnswer (core thr : Nat)
  | nearMemoryAtomic (core thr : Nat)
  | sfrRequestIntake (cluster unit : Nat)
  | sfrResultReturn (core thr : Nat)
  -- events of streams and the engines
  | streamRefill (core thr n : Nat)
  | streamRecordArrival (core thr n : Nat)
  | streamDrain (core thr n : Nat)
  | copyCommandStart (core : Nat)
  | copyCommandComplete (core id : Nat)
  | copyEngineFault (core id cause : Nat) (kval : Word)
  | copyReductionApply (core id : Nat)
  | batchComplete (core : Nat)
  | matrixOpStart (core : Nat)
  | matrixGroupComplete (core : Nat)
  | matrixOpComplete (core : Nat)
  | mmagBarrierComplete (core thr : Nat)
  | drainRowOffer (core : Nat)
  | semaphoreUpdate (core : Nat)
  -- events of synchronisation
  | feWaitTry (core word : Nat)
  | feRequestResend (core thr : Nat)
  | msgPlace (core thr : Nat)
  | msgCallback (core : Nat)
  | msgRetry (core thr : Nat)
  | barrierPhaseComplete (launch group : Nat)
  | bartTimeout (core thr : Nat)
  | watchWake (core thr : Nat)
  | waitwTimeout (core thr : Nat)
  | waitwPoll (core thr : Nat)
  | stealSearch (core thr : Nat)
  | stealSearchRetry (core thr : Nat)
  | stealResume (core thr : Nat)
  | ticketGrant (core thr : Nat)
  | donateRetry (core thr : Nat)
  -- events of queues, launches and deterministic mode
  | launchCommand (queue : Nat)
  | teardownCommand (queue : Nat)
  | barrierCommand (queue : Nat)
  | refusedCommand (queue : Nat)
  | launchSeeding (launch : Nat)
  | preemptionRestore (launch : Nat)
  | launchWorkEnd (launch : Nat)
  | launchCompletion (launch : Nat)
  | quantumEnd (ctx : Nat)
  -- events of the ordered class and of time
  | orderedInject (core thr : Nat)
  | cairn (l : Link)
  | orderedApply (t : OrdTarget)
  | watermarkStall (l : Link)
  -- events of coherence, hosts and translation
  | homeReadRequest (cluster ctx : Nat) (va : Word)
  | homeOwnershipRequest (cluster ctx : Nat) (va : Word)
  | translationWalk (ctx : Nat) (va : Word)
  -- events of traps, stops and saves
  | reportTaken (core : Nat)
  | threadStop (core thr : Nat)
  | gangStopComplete (core : Nat)
  | debugHalt (core thr : Nat)
  | contextSave (ctx : Nat)
  | contextRestore (ctx : Nat)
  | estClearCfault (core : Nat)
  | estClearMfault (core : Nat)
  | rbdRead (core thr : Nat) (d : BitVec 6)
  | rbdWrite (core thr : Nat) (value : Word)
  -- instructions without operands
  | nop
  | endThread
  | fencei
  | tret
  | yield
  | kret
  -- a bundle that encodes no instruction (03 R84): its bits are those being issued
  | reservedEncoding
  -- events without operands
  | refreshWindowOpen
  | refreshWindowClose
  | powerUp
  | powerDown
  -- queues, hosts, coherence and time, with their operands in the input register
  | kickRegisterWrite
  | l1Eviction
  | snpInv
  | snpData
  | snpCur
  | memRd
  | memWr
  | biRsp
  | timeSyncMessage
  | timeSyncLost
  | timeSyncRegained
  -- firmware services (15 R415, R416)
  | mailboxGo
  | query
  | ctxCreate
  | ctxChange
  | ctxDestroy
  | winGrant
  | winRevoke
  | wsLoad
  | queueSet
  | sectorRead
  | queueKick
  | unknownService
  -- attestation and management (13 R371, R372; 15 R428)
  | getVersion
  | getCapabilities
  | negotiateAlgorithms
  | getDigests
  | getCertificate
  | challenge
  | getMeasurements
  | unsupportedRequest
  | pldmPlatformMonitoring
  | pldmFirmwareUpdate
  -- service events (15)
  | firmwareUpdate
  | machineCheck
  | pageQuarantine
  | memoryDieOutOfService
  | dieReplacement
  | sfuOutOfService
  | sfuReturnToService
  | lpddr6Calibration
  | scrub
  | linkRetry
  | linkUp
  | thermalThrottle
  | thermalStop
  | thermalPowerOff
  | panelBringUp
  deriving DecidableEq, Repr

/-- The operands of an event from outside the panel, or of a service that firmware is serving: which agent, unit and
address it names and the data it brings. Each event says which fields it reads. -/
structure Input where
  who   : Requester
  die   : DieRef
  unit  : Nat
  port  : Nat
  code  : Nat
  addr  : BitVec 64
  word  : BitVec 64
  ok    : Bool
  bytes : List Byte
  more  : List Byte
  pairs : List (Nat × Nat)
  pairs2 : List (Nat × Nat)
  blocked : List (Nat × Nat)
  deriving DecidableEq, Repr

/-- No operand. -/
def Input.none : Input :=
  { who := .mailbox 0, die := .compute 0, unit := 0, port := 0, code := 0, addr := 0, word := 0, ok := true, bytes := [],
    more := [], pairs := [], pairs2 := [], blocked := [] }

/-- An event waiting to take place, with its operands. -/
structure Event where
  what  : Instr
  input : Input
  deriving DecidableEq, Repr

/-- A fetched bundle that encodes instructions (02 R31). -/
inductive Bundle where
  | pair (a b : Instr)
  | long (i : Instr)
  deriving DecidableEq, Repr

end Sys2Proof
end

