-- ==== Sys2Proof/WellFormed.lean ====
section
/-! DEFINITION. Which syntactic steps are well formed: the limits of 03 R76 to R83 and 02 R50 on the operand
fields, and the ranges of the agents an event names. -/

namespace Sys2Proof

/-- An integer element type (02 R43). -/
def ElemType.isInt : ElemType → Bool
  | .i8 | .i16 | .i32 | .i64 => true
  | .f16 | .bf16 | .f32 | .f64 => false

/-- The control-register selectors below 0x1000 that 02 R50 assigns. -/
def selAssigned (n : Nat) : Bool :=
  decide (n ≤ 0x012) || (decide (0x020 ≤ n) && decide (n ≤ 0x03F)) || (decide (0x100 ≤ n) && decide (n ≤ 0x104)) ||
  (decide (0x110 ≤ n) && decide (n ≤ 0x117)) || (decide (0x180 ≤ n) && decide (n ≤ 0x19F)) || decide (0x1000 ≤ n)

/-- Format codes 10 to 16 are block formats (05 R111). -/
def isBlockCode (f : Nat) : Bool := decide (10 ≤ f) && decide (f ≤ 16)

/-- Types and variants that 03 R80 permits for the arithmetic forms with saturating variants. -/
def okSat (ty : ElemType) (v : BitVec 4) : Bool := if ty.isInt then decide (v.toNat ≤ 3) else decide (v = 0)

/-- Types and variants with a signed or unsigned reading (03 R80). -/
def okSign (ty : ElemType) (v : BitVec 4) : Bool := if ty.isInt then decide (v.toNat ≤ 1) else decide (v = 0)

/-- Types and variants of VABS and VNEG (03 R80). -/
def okAbs (ty : ElemType) (v : BitVec 4) : Bool := if ty.isInt then decide (v = 0) || decide (v = 2) else decide (v = 0)

/-- Types and conditions of VCMP (03 R80). -/
def okCmp (ty : ElemType) (v : BitVec 4) : Bool :=
  decide (v.toNat ≤ 5) || (if ty.isInt then decide (10 ≤ v.toNat) && decide (v.toNat ≤ 13) else decide (v.toNat ≤ 7))

/-- Types and operations of VRED (03 R80). -/
def okRed (ty : ElemType) (v : BitVec 4) : Bool := if ty.isInt then decide (v.toNat ≤ 7) else decide (v.toNat ≤ 2)

/-- Types and functions of SFR (03 R80). -/
def okSfr (ty : ElemType) (v : BitVec 4) : Bool :=
  (match ty with | .f16 | .bf16 | .f32 => true | .i8 | .i16 | .i32 | .i64 | .f64 => false) && decide (v.toNat ≤ 10)

/-- Rounding codes of VCVT and its format code (03 R80, R81). -/
def okCvt (fmt : BitVec 5) (v : BitVec 4) : Bool := decide (v.toNat % 8 ≤ 5) && decide (fmt.toNat ≤ 23)

/-- A core of the panel and a thread context of it (01 R20, R22). -/
def okThread (core thr : Nat) : Bool := decide (core < 16384) && decide (thr < 8)

/-- A core of the panel (01 R20). -/
def okCore (core : Nat) : Bool := decide (core < 16384)

/-- A cluster of the panel: logical die index × 8 + cluster within the die (01 R19, 08 R196). -/
def okCluster (c : Nat) : Bool := decide (c < 1024)

/-- A die by index (01 R13, R15). -/
def okDie : DieRef → Bool
  | .compute i => decide (i < 128)
  | .memory i => decide (i < 136)

/-- A link of 10 R276. -/
def okLink : Link → Bool
  | .inject c t => okThread c t
  | .port d n => okDie d && (decide (n ≤ 5) || decide (n = 7))

/-- The limits on an instruction's or event's fields beyond their width. -/
def wellFormed : Instr → Bool
  | .svc n => decide (n.toNat ≤ 4095)
  | .trap n => decide (n.toNat ≤ 4095)
  | .ldq d _ _ => decide (d.toNat % 2 = 0)
  | .stq d _ _ => decide (d.toNat % 2 = 0)
  | .amo _ _ _ _ dbl op => !(dbl && decide (op = .bfadd))
  | .rupd _ _ _ dbl op => !(dbl && decide (op = .bfadd))
  | .cas d _ b _ z => if z = CasWidth.q then decide (d.toNat % 2 = 0) && decide (b.toNat % 2 = 0) else true
  | .msgapp d _ _ n => decide (d.toNat + n.toNat ≤ 63)
  | .msgtake d n => decide (d.toNat + n.toNat ≤ 63)
  | .rtset _ _ s => decide (s ≠ 0)
  | .rtdesc _ s => decide (s ≠ 0)
  | .getc _ sel => selAssigned sel.toNat
  | .putc _ sel => selAssigned sel.toNat
  | .vadd _ _ _ _ ty v => okSat ty v
  | .vsub _ _ _ _ ty v => okSat ty v
  | .vmul _ _ _ _ ty v => okSat ty v
  | .vmin _ _ _ _ ty v => okSign ty v
  | .vmax _ _ _ _ ty v => okSign ty v
  | .vdiv _ _ _ _ ty v => okSign ty v
  | .vabs _ _ _ ty v => okAbs ty v
  | .vneg _ _ _ ty v => okAbs ty v
  | .vand _ _ _ _ ty => ty.isInt
  | .vor _ _ _ _ ty => ty.isInt
  | .vxor _ _ _ _ ty => ty.isInt
  | .vshl _ _ _ _ ty => ty.isInt
  | .viota _ _ ty => ty.isInt
  | .vshr _ _ _ _ ty v => ty.isInt && decide (v.toNat ≤ 1)
  | .vcmp _ _ _ _ ty v => okCmp ty v
  | .vext _ _ _ _ _ v => decide (v.toNat ≤ 1)
  | .vscale _ _ _ _ ty => !ty.isInt
  | .vsqrt _ _ _ ty => !ty.isInt
  | .vcvt _ _ fmt _ _ v => okCvt fmt v
  | .vred _ _ _ ty v => okRed ty v
  | .sfr _ _ _ ty v => okSfr ty v
  | .add _ _ _ => true
  | .sub _ _ _ => true
  | .and _ _ _ => true
  | .or _ _ _ => true
  | .xor _ _ _ => true
  | .andn _ _ _ => true
  | .orn _ _ _ => true
  | .sll _ _ _ => true
  | .srl _ _ _ => true
  | .sra _ _ _ => true
  | .ror _ _ _ => true
  | .slt _ _ _ => true
  | .sltu _ _ _ => true
  | .seq _ _ _ => true
  | .sne _ _ _ => true
  | .min _ _ _ => true
  | .max _ _ _ => true
  | .minu _ _ _ => true
  | .maxu _ _ _ => true
  | .addw _ _ _ => true
  | .subw _ _ _ => true
  | .sllw _ _ _ => true
  | .srlw _ _ _ => true
  | .sraw _ _ _ => true
  | .mul _ _ _ => true
  | .mulh _ _ _ => true
  | .mulhu _ _ _ => true
  | .mulhsu _ _ _ => true
  | .mulw _ _ _ => true
  | .div _ _ _ => true
  | .divu _ _ _ => true
  | .rem _ _ _ => true
  | .remu _ _ _ => true
  | .divw _ _ _ => true
  | .divuw _ _ _ => true
  | .remw _ _ _ => true
  | .remuw _ _ _ => true
  | .clz _ _ => true
  | .ctz _ _ => true
  | .popc _ _ => true
  | .brev _ _ => true
  | .bswap _ _ => true
  | .sxb _ _ => true
  | .sxh _ _ => true
  | .sxw _ _ => true
  | .zxh _ _ => true
  | .zxw _ _ => true
  | .lea1 _ _ _ => true
  | .lea2 _ _ _ => true
  | .lea3 _ _ _ => true
  | .lea4 _ _ _ => true
  | .addi _ _ _ => true
  | .andi _ _ _ => true
  | .ori _ _ _ => true
  | .xori _ _ _ => true
  | .slti _ _ _ => true
  | .sltiu _ _ _ => true
  | .slli _ _ _ => true
  | .srli _ _ _ => true
  | .srai _ _ _ => true
  | .addiw _ _ _ => true
  | .lui _ _ => true
  | .addpc _ _ => true
  | .movl _ _ => true
  | .beq _ _ _ => true
  | .bne _ _ _ => true
  | .blt _ _ _ => true
  | .bge _ _ _ => true
  | .bltu _ _ _ => true
  | .bgeu _ _ _ => true
  | .jal _ _ => true
  | .jalr _ _ _ => true
  | .ljal _ _ => true
  | .throw _ => true
  | .ldb _ _ _ => true
  | .ldbu _ _ _ => true
  | .ldh _ _ _ => true
  | .ldhu _ _ _ => true
  | .ldw _ _ _ => true
  | .ldwu _ _ _ => true
  | .ldd _ _ _ => true
  | .stb _ _ _ => true
  | .sth _ _ _ => true
  | .stw _ _ _ => true
  | .std _ _ _ => true
  | .vld _ _ _ => true
  | .vst _ _ _ => true
  | .vldx _ _ _ _ => true
  | .vldxIx _ _ _ _ => true
  | .vstx _ _ _ _ => true
  | .vstxIx _ _ _ _ => true
  | .sto _ _ _ => true
  | .ldf _ _ _ => true
  | .ldfe _ _ _ => true
  | .stff _ _ _ => true
  | .stef _ _ _ => true
  | .feqry _ _ => true
  | .feset _ => true
  | .feclr _ => true
  | .fence _ _ _ _ _ => true
  | .clean _ _ _ => true
  | .pref _ _ _ => true
  | .spawn _ _ => true
  | .spawnr _ _ => true
  | .sync _ => true
  | .publ _ _ => true
  | .ticket _ _ => true
  | .donate _ _ => true
  | .bar _ => true
  | .bart _ _ => true
  | .chsend _ _ => true
  | .chrecv _ _ => true
  | .waitw _ _ _ _ => true
  | .semw _ _ => true
  | .sems _ _ => true
  | .drnwait _ => true
  | .drnput _ => true
  | .xinv _ _ _ => true
  | .xinvCtx _ _ => true
  | .rlatch _ => true
  | .gstop _ => true
  | .gresume _ => true
  | .dbgstep _ => true
  | .vfma _ _ _ _ _ => true
  | .vsel _ _ _ _ _ => true
  | .vperm _ _ _ _ _ => true
  | .vbcs _ _ _ _ => true
  | .vmov _ _ _ _ => true
  | .vpop _ _ _ _ => true
  | .vpush _ _ _ _ => true
  | .mma _ _ _ _ => true
  | .mmas _ _ _ _ _ => true
  | .mmag _ _ _ _ _ => true
  | .mmaw _ _ _ _ => true
  | .tzero _ => true
  | .trowv _ _ _ _ => true
  | .tvrow _ _ _ _ => true
  | .mmal _ _ _ _ _ => true
  | .cpy _ _ _ _ _ _ => true
  | .cpyr _ _ _ _ _ _ _ _ => true
  | .cbatch _ => true
  | .cwait _ _ => true
  | .sbind _ _ _ _ _ => true
  | .sunbind _ _ => true
  | .tld _ _ _ _ _ _ => true
  | .tst _ _ _ _ _ => true
  | .tldw _ _ _ _ _ => true
  | .loadResultArrival core thr q => okThread core thr && decide (q < 65536)
  | .accessCompletion core thr q => okThread core thr && decide (q < 65536)
  | .accessHeld core thr q cause => okThread core thr && decide (q < 65536) && decide (cause < 64)
  | .remoteTimeout core thr q => okThread core thr && decide (q < 65536)
  | .atomicAnswer core thr => okThread core thr
  | .nearMemoryAtomic core thr => okThread core thr
  | .sfrRequestIntake cluster unit => okCluster cluster && decide (unit < 2)
  | .sfrResultReturn core thr => okThread core thr
  | .streamRefill core thr n => okThread core thr && decide (n < 8)
  | .streamRecordArrival core thr n => okThread core thr && decide (n < 8)
  | .streamDrain core thr n => okThread core thr && decide (n < 8)
  | .copyCommandStart core => okCore core
  | .copyCommandComplete core _ => okCore core
  | .copyEngineFault core _ cause _ => okCore core && decide (cause < 64)
  | .copyReductionApply core _ => okCore core
  | .batchComplete core => okCore core
  | .matrixOpStart core => okCore core
  | .matrixGroupComplete core => okCore core
  | .matrixOpComplete core => okCore core
  | .mmagBarrierComplete core thr => okThread core thr
  | .drainRowOffer core => okCore core
  | .semaphoreUpdate core => okCore core
  | .feWaitTry core word => okCore core && decide (word < 32768)
  | .feRequestResend core thr => okThread core thr
  | .msgPlace core thr => okThread core thr
  | .msgCallback core => okCore core
  | .msgRetry core thr => okThread core thr
  | .barrierPhaseComplete _ group => decide (group < 256)
  | .bartTimeout core thr => okThread core thr
  | .watchWake core thr => okThread core thr
  | .waitwTimeout core thr => okThread core thr
  | .waitwPoll core thr => okThread core thr
  | .stealSearch core thr => okThread core thr
  | .stealSearchRetry core thr => okThread core thr
  | .stealResume core thr => okThread core thr
  | .ticketGrant core thr => okThread core thr
  | .donateRetry core thr => okThread core thr
  | .launchCommand queue => decide (queue < 128)
  | .teardownCommand queue => decide (queue < 128)
  | .barrierCommand queue => decide (queue < 128)
  | .refusedCommand queue => decide (queue < 128)
  | .launchSeeding _ => true
  | .preemptionRestore _ => true
  | .launchWorkEnd _ => true
  | .launchCompletion _ => true
  | .quantumEnd ctx => decide (ctx < 4096)
  | .orderedInject core thr => okThread core thr
  | .cairn l => okLink l
  | .orderedApply _ => true
  | .watermarkStall l => okLink l
  | .homeReadRequest cluster ctx _ => okCluster cluster && decide (ctx < 4096)
  | .homeOwnershipRequest cluster ctx _ => okCluster cluster && decide (ctx < 4096)
  | .translationWalk ctx _ => decide (ctx < 4096)
  | .reportTaken core => okCore core
  | .threadStop core thr => okThread core thr
  | .gangStopComplete core => okCore core
  | .debugHalt core thr => okThread core thr
  | .contextSave ctx => decide (ctx < 4096)
  | .contextRestore ctx => decide (ctx < 4096)
  | .estClearCfault core => okCore core
  | .estClearMfault core => okCore core
  | .rbdRead core thr _ => okThread core thr
  | .rbdWrite core thr _ => okThread core thr
  | .nop => true
  | .endThread => true
  | .fencei => true
  | .tret => true
  | .yield => true
  | .kret => true
  | .reservedEncoding => true
  | .refreshWindowOpen => true
  | .refreshWindowClose => true
  | .powerUp => true
  | .powerDown => true
  | .kickRegisterWrite => true
  | .l1Eviction => true
  | .snpInv => true
  | .snpData => true
  | .snpCur => true
  | .memRd => true
  | .memWr => true
  | .biRsp => true
  | .timeSyncMessage => true
  | .timeSyncLost => true
  | .timeSyncRegained => true
  | .mailboxGo => true
  | .query => true
  | .ctxCreate => true
  | .ctxChange => true
  | .ctxDestroy => true
  | .winGrant => true
  | .winRevoke => true
  | .wsLoad => true
  | .queueSet => true
  | .sectorRead => true
  | .queueKick => true
  | .unknownService => true
  | .getVersion => true
  | .getCapabilities => true
  | .negotiateAlgorithms => true
  | .getDigests => true
  | .getCertificate => true
  | .challenge => true
  | .getMeasurements => true
  | .unsupportedRequest => true
  | .pldmPlatformMonitoring => true
  | .pldmFirmwareUpdate => true
  | .firmwareUpdate => true
  | .machineCheck => true
  | .pageQuarantine => true
  | .memoryDieOutOfService => true
  | .dieReplacement => true
  | .sfuOutOfService => true
  | .sfuReturnToService => true
  | .lpddr6Calibration => true
  | .scrub => true
  | .linkRetry => true
  | .linkUp => true
  | .thermalThrottle => true
  | .thermalStop => true
  | .thermalPowerOff => true
  | .panelBringUp => true

end Sys2Proof
end

