-- ==== Sys2Proof/Decode.lean ====
section
/-! DEFINITION. The decoder (02 R30 to R45, 03 R74 to R86), total on any 64-bit word, and the encoder written
from the same tables. -/

namespace Sys2Proof

/-- Why a bundle is not an instruction (02 R35 steps 2 to 4, 03 R84), with the slot KCAUSE records. -/
inductive DecodeErr where
  | illegalBundle
  | illegalOp (slot : Nat)
  | reservedField (slot : Nat)
  deriving DecidableEq, Repr

/-- Why a slot is not an instruction: ILLEGAL_OP is found before any field is examined (03 R85). -/
inductive SlotErr where
  | op
  | field
  deriving DecidableEq, Repr

/-- The field of `len` bits at bit `lo`. -/
def fld (w lo len : Nat) : Nat := w / 2 ^ lo % 2 ^ len

/-- A bit of a word. -/
def bitAt (w n : Nat) : Bool := decide (fld w n 1 = 1)

/-- The number of a bit. -/
def bitNum (b : Bool) : Nat := if b then 1 else 0

/-- Element type of fn [6:4] (02 R43). -/
def elemOf (n : Nat) : ElemType :=
  if n = 0 then .i8 else if n = 1 then .i16 else if n = 2 then .i32 else if n = 3 then .i64 else
  if n = 4 then .f16 else if n = 5 then .bf16 else if n = 6 then .f32 else .f64

/-- Code of an element type (02 R43). -/
def elemCode : ElemType → Nat
  | .i8 => 0 | .i16 => 1 | .i32 => 2 | .i64 => 3 | .f16 => 4 | .bf16 => 5 | .f32 => 6 | .f64 => 7

/-- Operation of AMO and RUPD (03 R76). -/
def amoOf (n : Nat) : AmoOp :=
  if n = 0 then .add else if n = 1 then .and else if n = 2 then .or else if n = 3 then .xor else
  if n = 4 then .min else if n = 5 then .max else if n = 6 then .minu else if n = 7 then .maxu else
  if n = 8 then .swap else if n = 9 then .fadd else if n = 10 then .fmin else if n = 11 then .fmax else .bfadd

/-- Code of an operation of AMO and RUPD (03 R76). -/
def amoCode : AmoOp → Nat
  | .add => 0 | .and => 1 | .or => 2 | .xor => 3 | .min => 4 | .max => 5 | .minu => 6 | .maxu => 7 | .swap => 8
  | .fadd => 9 | .fmin => 10 | .fmax => 11 | .bfadd => 12

/-- Width of CAS (03 R76). -/
def casOf (n : Nat) : CasWidth := if n = 0 then .w else if n = 1 then .d else .q

/-- Code of a width of CAS (03 R76). -/
def casCode : CasWidth → Nat
  | .w => 0 | .d => 1 | .q => 2

/-- Kind of FENCE (03 R76). -/
def fenceOf (n : Nat) : FenceKind := if n = 0 then .acq else if n = 1 then .rel else if n = 2 then .acqrel else .seq

/-- Code of a kind of FENCE (03 R76). -/
def fenceCode : FenceKind → Nat
  | .acq => 0 | .rel => 1 | .acqrel => 2 | .seq => 3

/-- Operation of CPYR (10 R254). -/
def redOf (n : Nat) : RedOp := if n = 0 then .sum else if n = 1 then .min else .max

/-- Code of an operation of CPYR (10 R254). -/
def redCode : RedOp → Nat
  | .sum => 0 | .min => 1 | .max => 2

/-- Matrix flags of fn [2:0] (03 R82). -/
def mflagsOf (n : Nat) : MFlags := { rz := bitAt n 0, sat := bitAt n 1, drain := bitAt n 2 }

/-- Code of matrix flags (03 R82). -/
def mflagsCode (f : MFlags) : Nat := bitNum f.rz + bitNum f.sat * 2 + bitNum f.drain * 4

/-- An instruction whose unused fields are zero and whose fields keep their limits (03 R76 to R83). -/
def checked (zero : Bool) (i : Instr) : Except SlotErr Instr := if zero && wellFormed i then .ok i else .error .field


/-- The integer ALU group, op 0x01 (03 R75). -/
def decodeAlu (w : Nat) : Except SlotErr Instr :=
  match fld w 0 7 with
  | 0 => checked true (.add (BitVec.ofNat 6 (fld w 19 6)) (BitVec.ofNat 6 (fld w 13 6)) (BitVec.ofNat 6 (fld w 7 6)))
  | 1 => checked true (.sub (BitVec.ofNat 6 (fld w 19 6)) (BitVec.ofNat 6 (fld w 13 6)) (BitVec.ofNat 6 (fld w 7 6)))
  | 2 => checked true (.and (BitVec.ofNat 6 (fld w 19 6)) (BitVec.ofNat 6 (fld w 13 6)) (BitVec.ofNat 6 (fld w 7 6)))
  | 3 => checked true (.or (BitVec.ofNat 6 (fld w 19 6)) (BitVec.ofNat 6 (fld w 13 6)) (BitVec.ofNat 6 (fld w 7 6)))
  | 4 => checked true (.xor (BitVec.ofNat 6 (fld w 19 6)) (BitVec.ofNat 6 (fld w 13 6)) (BitVec.ofNat 6 (fld w 7 6)))
  | 5 => checked true (.andn (BitVec.ofNat 6 (fld w 19 6)) (BitVec.ofNat 6 (fld w 13 6)) (BitVec.ofNat 6 (fld w 7 6)))
  | 6 => checked true (.orn (BitVec.ofNat 6 (fld w 19 6)) (BitVec.ofNat 6 (fld w 13 6)) (BitVec.ofNat 6 (fld w 7 6)))
  | 7 => checked true (.sll (BitVec.ofNat 6 (fld w 19 6)) (BitVec.ofNat 6 (fld w 13 6)) (BitVec.ofNat 6 (fld w 7 6)))
  | 8 => checked true (.srl (BitVec.ofNat 6 (fld w 19 6)) (BitVec.ofNat 6 (fld w 13 6)) (BitVec.ofNat 6 (fld w 7 6)))
  | 9 => checked true (.sra (BitVec.ofNat 6 (fld w 19 6)) (BitVec.ofNat 6 (fld w 13 6)) (BitVec.ofNat 6 (fld w 7 6)))
  | 10 => checked true (.ror (BitVec.ofNat 6 (fld w 19 6)) (BitVec.ofNat 6 (fld w 13 6)) (BitVec.ofNat 6 (fld w 7 6)))
  | 11 => checked true (.slt (BitVec.ofNat 6 (fld w 19 6)) (BitVec.ofNat 6 (fld w 13 6)) (BitVec.ofNat 6 (fld w 7 6)))
  | 12 => checked true (.sltu (BitVec.ofNat 6 (fld w 19 6)) (BitVec.ofNat 6 (fld w 13 6)) (BitVec.ofNat 6 (fld w 7 6)))
  | 13 => checked true (.seq (BitVec.ofNat 6 (fld w 19 6)) (BitVec.ofNat 6 (fld w 13 6)) (BitVec.ofNat 6 (fld w 7 6)))
  | 14 => checked true (.sne (BitVec.ofNat 6 (fld w 19 6)) (BitVec.ofNat 6 (fld w 13 6)) (BitVec.ofNat 6 (fld w 7 6)))
  | 15 => checked true (.min (BitVec.ofNat 6 (fld w 19 6)) (BitVec.ofNat 6 (fld w 13 6)) (BitVec.ofNat 6 (fld w 7 6)))
  | 16 => checked true (.max (BitVec.ofNat 6 (fld w 19 6)) (BitVec.ofNat 6 (fld w 13 6)) (BitVec.ofNat 6 (fld w 7 6)))
  | 17 => checked true (.minu (BitVec.ofNat 6 (fld w 19 6)) (BitVec.ofNat 6 (fld w 13 6)) (BitVec.ofNat 6 (fld w 7 6)))
  | 18 => checked true (.maxu (BitVec.ofNat 6 (fld w 19 6)) (BitVec.ofNat 6 (fld w 13 6)) (BitVec.ofNat 6 (fld w 7 6)))
  | 19 => checked true (.addw (BitVec.ofNat 6 (fld w 19 6)) (BitVec.ofNat 6 (fld w 13 6)) (BitVec.ofNat 6 (fld w 7 6)))
  | 20 => checked true (.subw (BitVec.ofNat 6 (fld w 19 6)) (BitVec.ofNat 6 (fld w 13 6)) (BitVec.ofNat 6 (fld w 7 6)))
  | 21 => checked true (.sllw (BitVec.ofNat 6 (fld w 19 6)) (BitVec.ofNat 6 (fld w 13 6)) (BitVec.ofNat 6 (fld w 7 6)))
  | 22 => checked true (.srlw (BitVec.ofNat 6 (fld w 19 6)) (BitVec.ofNat 6 (fld w 13 6)) (BitVec.ofNat 6 (fld w 7 6)))
  | 23 => checked true (.sraw (BitVec.ofNat 6 (fld w 19 6)) (BitVec.ofNat 6 (fld w 13 6)) (BitVec.ofNat 6 (fld w 7 6)))
  | _ => .error .op

/-- The multiply and divide group, op 0x02 (03 R75). -/
def decodeMulDiv (w : Nat) : Except SlotErr Instr :=
  match fld w 0 7 with
  | 0 => checked true (.mul (BitVec.ofNat 6 (fld w 19 6)) (BitVec.ofNat 6 (fld w 13 6)) (BitVec.ofNat 6 (fld w 7 6)))
  | 1 => checked true (.mulh (BitVec.ofNat 6 (fld w 19 6)) (BitVec.ofNat 6 (fld w 13 6)) (BitVec.ofNat 6 (fld w 7 6)))
  | 2 => checked true (.mulhu (BitVec.ofNat 6 (fld w 19 6)) (BitVec.ofNat 6 (fld w 13 6)) (BitVec.ofNat 6 (fld w 7 6)))
  | 3 => checked true (.mulhsu (BitVec.ofNat 6 (fld w 19 6)) (BitVec.ofNat 6 (fld w 13 6)) (BitVec.ofNat 6 (fld w 7 6)))
  | 4 => checked true (.mulw (BitVec.ofNat 6 (fld w 19 6)) (BitVec.ofNat 6 (fld w 13 6)) (BitVec.ofNat 6 (fld w 7 6)))
  | 5 => checked true (.div (BitVec.ofNat 6 (fld w 19 6)) (BitVec.ofNat 6 (fld w 13 6)) (BitVec.ofNat 6 (fld w 7 6)))
  | 6 => checked true (.divu (BitVec.ofNat 6 (fld w 19 6)) (BitVec.ofNat 6 (fld w 13 6)) (BitVec.ofNat 6 (fld w 7 6)))
  | 7 => checked true (.rem (BitVec.ofNat 6 (fld w 19 6)) (BitVec.ofNat 6 (fld w 13 6)) (BitVec.ofNat 6 (fld w 7 6)))
  | 8 => checked true (.remu (BitVec.ofNat 6 (fld w 19 6)) (BitVec.ofNat 6 (fld w 13 6)) (BitVec.ofNat 6 (fld w 7 6)))
  | 9 => checked true (.divw (BitVec.ofNat 6 (fld w 19 6)) (BitVec.ofNat 6 (fld w 13 6)) (BitVec.ofNat 6 (fld w 7 6)))
  | 10 => checked true (.divuw (BitVec.ofNat 6 (fld w 19 6)) (BitVec.ofNat 6 (fld w 13 6)) (BitVec.ofNat 6 (fld w 7 6)))
  | 11 => checked true (.remw (BitVec.ofNat 6 (fld w 19 6)) (BitVec.ofNat 6 (fld w 13 6)) (BitVec.ofNat 6 (fld w 7 6)))
  | 12 => checked true (.remuw (BitVec.ofNat 6 (fld w 19 6)) (BitVec.ofNat 6 (fld w 13 6)) (BitVec.ofNat 6 (fld w 7 6)))
  | _ => .error .op

/-- The bit and address group, op 0x03 (03 R75); forms 0 to 9 read no b. -/
def decodeBits (w : Nat) : Except SlotErr Instr :=
  match fld w 0 7 with
  | 0 => checked (fld w 7 6 == 0) (.clz (BitVec.ofNat 6 (fld w 19 6)) (BitVec.ofNat 6 (fld w 13 6)))
  | 1 => checked (fld w 7 6 == 0) (.ctz (BitVec.ofNat 6 (fld w 19 6)) (BitVec.ofNat 6 (fld w 13 6)))
  | 2 => checked (fld w 7 6 == 0) (.popc (BitVec.ofNat 6 (fld w 19 6)) (BitVec.ofNat 6 (fld w 13 6)))
  | 3 => checked (fld w 7 6 == 0) (.brev (BitVec.ofNat 6 (fld w 19 6)) (BitVec.ofNat 6 (fld w 13 6)))
  | 4 => checked (fld w 7 6 == 0) (.bswap (BitVec.ofNat 6 (fld w 19 6)) (BitVec.ofNat 6 (fld w 13 6)))
  | 5 => checked (fld w 7 6 == 0) (.sxb (BitVec.ofNat 6 (fld w 19 6)) (BitVec.ofNat 6 (fld w 13 6)))
  | 6 => checked (fld w 7 6 == 0) (.sxh (BitVec.ofNat 6 (fld w 19 6)) (BitVec.ofNat 6 (fld w 13 6)))
  | 7 => checked (fld w 7 6 == 0) (.sxw (BitVec.ofNat 6 (fld w 19 6)) (BitVec.ofNat 6 (fld w 13 6)))
  | 8 => checked (fld w 7 6 == 0) (.zxh (BitVec.ofNat 6 (fld w 19 6)) (BitVec.ofNat 6 (fld w 13 6)))
  | 9 => checked (fld w 7 6 == 0) (.zxw (BitVec.ofNat 6 (fld w 19 6)) (BitVec.ofNat 6 (fld w 13 6)))
  | 10 => checked true (.lea1 (BitVec.ofNat 6 (fld w 19 6)) (BitVec.ofNat 6 (fld w 13 6)) (BitVec.ofNat 6 (fld w 7 6)))
  | 11 => checked true (.lea2 (BitVec.ofNat 6 (fld w 19 6)) (BitVec.ofNat 6 (fld w 13 6)) (BitVec.ofNat 6 (fld w 7 6)))
  | 12 => checked true (.lea3 (BitVec.ofNat 6 (fld w 19 6)) (BitVec.ofNat 6 (fld w 13 6)) (BitVec.ofNat 6 (fld w 7 6)))
  | 13 => checked true (.lea4 (BitVec.ofNat 6 (fld w 19 6)) (BitVec.ofNat 6 (fld w 13 6)) (BitVec.ofNat 6 (fld w 7 6)))
  | _ => .error .op

/-- The FE group, op 0x3E (03 R75, R77). -/
def decodeFe (w : Nat) : Except SlotErr Instr :=
  match fld w 0 7 with
  | 0 => checked (fld w 7 6 == 0) (.feqry (BitVec.ofNat 6 (fld w 19 6)) (BitVec.ofNat 6 (fld w 13 6)))
  | 1 => checked (fld w 19 6 == 0 && fld w 7 6 == 0) (.feset (BitVec.ofNat 6 (fld w 13 6)))
  | 2 => checked (fld w 19 6 == 0 && fld w 7 6 == 0) (.feclr (BitVec.ofNat 6 (fld w 13 6)))
  | _ => .error .op

/-- VLDX and VSTX (03 R76 to R78). -/
def decodeIndexed (w : Nat) (store : Bool) : Except SlotErr Instr :=
  let zero := fld w 3 4 == 0 && decide (fld w 19 6 < 32)
  if bitAt w 0 then
    checked (zero && decide (fld w 7 6 < 32))
      (if store then .vstxIx (BitVec.ofNat 5 (fld w 19 6)) (BitVec.ofNat 6 (fld w 13 6)) (BitVec.ofNat 5 (fld w 7 6)) (BitVec.ofNat 2 (fld w 1 2))
       else .vldxIx (BitVec.ofNat 5 (fld w 19 6)) (BitVec.ofNat 6 (fld w 13 6)) (BitVec.ofNat 5 (fld w 7 6)) (BitVec.ofNat 2 (fld w 1 2)))
  else
    checked zero
      (if store then .vstx (BitVec.ofNat 5 (fld w 19 6)) (BitVec.ofNat 6 (fld w 13 6)) (BitVec.ofNat 6 (fld w 7 6)) (BitVec.ofNat 2 (fld w 1 2))
       else .vldx (BitVec.ofNat 5 (fld w 19 6)) (BitVec.ofNat 6 (fld w 13 6)) (BitVec.ofNat 6 (fld w 7 6)) (BitVec.ofNat 2 (fld w 1 2)))

/-- AMO and RUPD (03 R76, R77). -/
def decodeAmo (w : Nat) (upd : Bool) : Except SlotErr Instr :=
  if 13 ≤ fld w 0 5 || (fld w 0 5 == 12 && bitAt w 5) then .error .op else
  if upd then checked (fld w 19 6 == 0) (.rupd (BitVec.ofNat 6 (fld w 13 6)) (BitVec.ofNat 6 (fld w 7 6)) (bitAt w 6) (bitAt w 5) (amoOf (fld w 0 5)))
  else checked true (.amo (BitVec.ofNat 6 (fld w 19 6)) (BitVec.ofNat 6 (fld w 13 6)) (BitVec.ofNat 6 (fld w 7 6)) (bitAt w 6) (bitAt w 5) (amoOf (fld w 0 5)))

/-- CAS (03 R76, R77). -/
def decodeCas (w : Nat) : Except SlotErr Instr :=
  if fld w 0 2 == 3 then .error .op else
  checked (fld w 2 4 == 0) (.cas (BitVec.ofNat 6 (fld w 19 6)) (BitVec.ofNat 6 (fld w 13 6)) (BitVec.ofNat 6 (fld w 7 6)) (bitAt w 6) (casOf (fld w 0 2)))

/-- XINV (03 R76, R77). -/
def decodeXinv (w : Nat) : Except SlotErr Instr :=
  let zero := fld w 19 6 == 0 && fld w 3 4 == 0
  if bitAt w 2 then checked (zero && fld w 7 6 == 0) (.xinvCtx (BitVec.ofNat 6 (fld w 13 6)) (BitVec.ofNat 2 (fld w 0 2)))
  else checked zero (.xinv (BitVec.ofNat 6 (fld w 13 6)) (BitVec.ofNat 6 (fld w 7 6)) (BitVec.ofNat 2 (fld w 0 2)))

/-- A slot A word (03 R74 to R78). -/
def decodeA (w : Nat) : Except SlotErr Instr :=
  match fld w 25 7 with
  | 0x00 => checked (fld w 0 25 == 0) .nop
  | 0x01 => decodeAlu w
  | 0x02 => decodeMulDiv w
  | 0x03 => decodeBits w
  | 0x08 => checked true (.addi (BitVec.ofNat 6 (fld w 19 6)) (BitVec.ofNat 6 (fld w 13 6)) (BitVec.ofNat 13 (fld w 0 13)))
  | 0x09 => checked true (.andi (BitVec.ofNat 6 (fld w 19 6)) (BitVec.ofNat 6 (fld w 13 6)) (BitVec.ofNat 13 (fld w 0 13)))
  | 0x0A => checked true (.ori (BitVec.ofNat 6 (fld w 19 6)) (BitVec.ofNat 6 (fld w 13 6)) (BitVec.ofNat 13 (fld w 0 13)))
  | 0x0B => checked true (.xori (BitVec.ofNat 6 (fld w 19 6)) (BitVec.ofNat 6 (fld w 13 6)) (BitVec.ofNat 13 (fld w 0 13)))
  | 0x0C => checked true (.slti (BitVec.ofNat 6 (fld w 19 6)) (BitVec.ofNat 6 (fld w 13 6)) (BitVec.ofNat 13 (fld w 0 13)))
  | 0x0D => checked true (.sltiu (BitVec.ofNat 6 (fld w 19 6)) (BitVec.ofNat 6 (fld w 13 6)) (BitVec.ofNat 13 (fld w 0 13)))
  | 0x0E => checked (fld w 6 7 == 0) (.slli (BitVec.ofNat 6 (fld w 19 6)) (BitVec.ofNat 6 (fld w 13 6)) (BitVec.ofNat 6 (fld w 0 6)))
  | 0x0F => checked (fld w 6 7 == 0) (.srli (BitVec.ofNat 6 (fld w 19 6)) (BitVec.ofNat 6 (fld w 13 6)) (BitVec.ofNat 6 (fld w 0 6)))
  | 0x10 => checked (fld w 6 7 == 0) (.srai (BitVec.ofNat 6 (fld w 19 6)) (BitVec.ofNat 6 (fld w 13 6)) (BitVec.ofNat 6 (fld w 0 6)))
  | 0x11 => checked true (.addiw (BitVec.ofNat 6 (fld w 19 6)) (BitVec.ofNat 6 (fld w 13 6)) (BitVec.ofNat 13 (fld w 0 13)))
  | 0x12 => checked true (.lui (BitVec.ofNat 6 (fld w 19 6)) (BitVec.ofNat 19 (fld w 0 19)))
  | 0x13 => checked true (.addpc (BitVec.ofNat 6 (fld w 19 6)) (BitVec.ofNat 19 (fld w 0 19)))
  | 0x18 => checked true (.beq (BitVec.ofNat 6 (fld w 19 6)) (BitVec.ofNat 6 (fld w 13 6)) (BitVec.ofNat 13 (fld w 0 13)))
  | 0x19 => checked true (.bne (BitVec.ofNat 6 (fld w 19 6)) (BitVec.ofNat 6 (fld w 13 6)) (BitVec.ofNat 13 (fld w 0 13)))
  | 0x1A => checked true (.blt (BitVec.ofNat 6 (fld w 19 6)) (BitVec.ofNat 6 (fld w 13 6)) (BitVec.ofNat 13 (fld w 0 13)))
  | 0x1B => checked true (.bge (BitVec.ofNat 6 (fld w 19 6)) (BitVec.ofNat 6 (fld w 13 6)) (BitVec.ofNat 13 (fld w 0 13)))
  | 0x1C => checked true (.bltu (BitVec.ofNat 6 (fld w 19 6)) (BitVec.ofNat 6 (fld w 13 6)) (BitVec.ofNat 13 (fld w 0 13)))
  | 0x1D => checked true (.bgeu (BitVec.ofNat 6 (fld w 19 6)) (BitVec.ofNat 6 (fld w 13 6)) (BitVec.ofNat 13 (fld w 0 13)))
  | 0x1E => checked true (.jal (BitVec.ofNat 6 (fld w 19 6)) (BitVec.ofNat 19 (fld w 0 19)))
  | 0x1F => checked true (.jalr (BitVec.ofNat 6 (fld w 19 6)) (BitVec.ofNat 6 (fld w 13 6)) (BitVec.ofNat 13 (fld w 0 13)))
  | 0x20 => checked (fld w 19 6 == 0 && fld w 7 6 == 0 && fld w 0 7 == 0) (.throw (BitVec.ofNat 6 (fld w 13 6)))
  | 0x21 => checked (fld w 19 6 == 0 && fld w 13 6 == 0 && fld w 7 6 == 0 && fld w 0 7 == 0) .endThread
  | 0x22 => checked (fld w 19 6 == 0 && fld w 13 6 == 0) (.svc (BitVec.ofNat 13 (fld w 0 13)))
  | 0x28 => checked true (.ldb (BitVec.ofNat 6 (fld w 19 6)) (BitVec.ofNat 6 (fld w 13 6)) (BitVec.ofNat 13 (fld w 0 13)))
  | 0x29 => checked true (.ldbu (BitVec.ofNat 6 (fld w 19 6)) (BitVec.ofNat 6 (fld w 13 6)) (BitVec.ofNat 13 (fld w 0 13)))
  | 0x2A => checked true (.ldh (BitVec.ofNat 6 (fld w 19 6)) (BitVec.ofNat 6 (fld w 13 6)) (BitVec.ofNat 13 (fld w 0 13)))
  | 0x2B => checked true (.ldhu (BitVec.ofNat 6 (fld w 19 6)) (BitVec.ofNat 6 (fld w 13 6)) (BitVec.ofNat 13 (fld w 0 13)))
  | 0x2C => checked true (.ldw (BitVec.ofNat 6 (fld w 19 6)) (BitVec.ofNat 6 (fld w 13 6)) (BitVec.ofNat 13 (fld w 0 13)))
  | 0x2D => checked true (.ldwu (BitVec.ofNat 6 (fld w 19 6)) (BitVec.ofNat 6 (fld w 13 6)) (BitVec.ofNat 13 (fld w 0 13)))
  | 0x2E => checked true (.ldd (BitVec.ofNat 6 (fld w 19 6)) (BitVec.ofNat 6 (fld w 13 6)) (BitVec.ofNat 13 (fld w 0 13)))
  | 0x2F => checked true (.ldq (BitVec.ofNat 6 (fld w 19 6)) (BitVec.ofNat 6 (fld w 13 6)) (BitVec.ofNat 13 (fld w 0 13)))
  | 0x30 => checked true (.stb (BitVec.ofNat 6 (fld w 19 6)) (BitVec.ofNat 6 (fld w 13 6)) (BitVec.ofNat 13 (fld w 0 13)))
  | 0x31 => checked true (.sth (BitVec.ofNat 6 (fld w 19 6)) (BitVec.ofNat 6 (fld w 13 6)) (BitVec.ofNat 13 (fld w 0 13)))
  | 0x32 => checked true (.stw (BitVec.ofNat 6 (fld w 19 6)) (BitVec.ofNat 6 (fld w 13 6)) (BitVec.ofNat 13 (fld w 0 13)))
  | 0x33 => checked true (.std (BitVec.ofNat 6 (fld w 19 6)) (BitVec.ofNat 6 (fld w 13 6)) (BitVec.ofNat 13 (fld w 0 13)))
  | 0x34 => checked true (.stq (BitVec.ofNat 6 (fld w 19 6)) (BitVec.ofNat 6 (fld w 13 6)) (BitVec.ofNat 13 (fld w 0 13)))
  | 0x35 => checked (decide (fld w 19 6 < 32)) (.vld (BitVec.ofNat 5 (fld w 19 6)) (BitVec.ofNat 6 (fld w 13 6)) (BitVec.ofNat 13 (fld w 0 13)))
  | 0x36 => checked (decide (fld w 19 6 < 32)) (.vst (BitVec.ofNat 5 (fld w 19 6)) (BitVec.ofNat 6 (fld w 13 6)) (BitVec.ofNat 13 (fld w 0 13)))
  | 0x37 => decodeIndexed w false
  | 0x38 => decodeIndexed w true
  | 0x39 => checked true (.sto (BitVec.ofNat 6 (fld w 19 6)) (BitVec.ofNat 6 (fld w 13 6)) (BitVec.ofNat 13 (fld w 0 13)))
  | 0x3A => checked true (.ldf (BitVec.ofNat 6 (fld w 19 6)) (BitVec.ofNat 6 (fld w 13 6)) (BitVec.ofNat 13 (fld w 0 13)))
  | 0x3B => checked true (.ldfe (BitVec.ofNat 6 (fld w 19 6)) (BitVec.ofNat 6 (fld w 13 6)) (BitVec.ofNat 13 (fld w 0 13)))
  | 0x3C => checked true (.stff (BitVec.ofNat 6 (fld w 19 6)) (BitVec.ofNat 6 (fld w 13 6)) (BitVec.ofNat 13 (fld w 0 13)))
  | 0x3D => checked true (.stef (BitVec.ofNat 6 (fld w 19 6)) (BitVec.ofNat 6 (fld w 13 6)) (BitVec.ofNat 13 (fld w 0 13)))
  | 0x3E => decodeFe w
  | 0x40 => decodeAmo w false
  | 0x41 => decodeCas w
  | 0x42 => decodeAmo w true
  | 0x43 => checked (fld w 7 6 == 0 && fld w 3 3 == 0) (.msgapp (BitVec.ofNat 6 (fld w 19 6)) (BitVec.ofNat 6 (fld w 13 6)) (bitAt w 6) (BitVec.ofNat 3 (fld w 0 3)))
  | 0x44 => checked (fld w 13 6 == 0 && fld w 7 6 == 0 && fld w 3 4 == 0) (.msgtake (BitVec.ofNat 6 (fld w 19 6)) (BitVec.ofNat 3 (fld w 0 3)))
  | 0x48 => checked (fld w 19 6 == 0 && fld w 4 3 == 0) (.fence (BitVec.ofNat 6 (fld w 13 6)) (BitVec.ofNat 6 (fld w 7 6)) (bitAt w 3) (bitAt w 2) (fenceOf (fld w 0 2)))
  | 0x49 => checked (fld w 19 6 == 0 && fld w 4 3 == 0) (.rtset (BitVec.ofNat 6 (fld w 13 6)) (BitVec.ofNat 6 (fld w 7 6)) (BitVec.ofNat 4 (fld w 0 4)))
  | 0x4A => checked (fld w 19 6 == 0 && fld w 7 6 == 0 && fld w 4 3 == 0) (.rtdesc (BitVec.ofNat 6 (fld w 13 6)) (BitVec.ofNat 4 (fld w 0 4)))
  | 0x4B => checked (fld w 19 6 == 0 && fld w 13 6 == 0 && fld w 7 6 == 0 && fld w 0 7 == 0) .fencei
  | 0x4C => checked (fld w 19 6 == 0 && fld w 1 6 == 0) (.clean (BitVec.ofNat 6 (fld w 13 6)) (BitVec.ofNat 6 (fld w 7 6)) (bitAt w 0))
  | 0x4D => checked (decide (fld w 19 6 < 2)) (.pref (bitAt w 19) (BitVec.ofNat 6 (fld w 13 6)) (BitVec.ofNat 13 (fld w 0 13)))
  | 0x50 => checked true (.spawn (BitVec.ofNat 6 (fld w 19 6)) (BitVec.ofNat 19 (fld w 0 19)))
  | 0x51 => checked (fld w 7 6 == 0 && fld w 0 7 == 0) (.spawnr (BitVec.ofNat 6 (fld w 19 6)) (BitVec.ofNat 6 (fld w 13 6)))
  | 0x52 => checked (fld w 13 6 == 0 && fld w 7 6 == 0 && fld w 0 7 == 0) (.sync (BitVec.ofNat 6 (fld w 19 6)))
  | 0x53 => checked (fld w 19 6 == 0 && fld w 0 7 == 0) (.publ (BitVec.ofNat 6 (fld w 13 6)) (BitVec.ofNat 6 (fld w 7 6)))
  | 0x54 => checked (fld w 19 6 == 0 && fld w 13 6 == 0 && fld w 7 6 == 0 && fld w 0 7 == 0) .tret
  | 0x55 => checked (fld w 7 6 == 0 && fld w 0 7 == 0) (.ticket (BitVec.ofNat 6 (fld w 19 6)) (BitVec.ofNat 6 (fld w 13 6)))
  | 0x56 => checked (fld w 19 6 == 0 && fld w 0 7 == 0) (.donate (BitVec.ofNat 6 (fld w 13 6)) (BitVec.ofNat 6 (fld w 7 6)))
  | 0x57 => checked (fld w 19 6 == 0 && fld w 7 6 == 0 && fld w 0 7 == 0) (.bar (BitVec.ofNat 6 (fld w 13 6)))
  | 0x58 => checked (fld w 7 6 == 0 && fld w 0 7 == 0) (.bart (BitVec.ofNat 6 (fld w 19 6)) (BitVec.ofNat 6 (fld w 13 6)))
  | 0x59 => checked (fld w 19 6 == 0 && fld w 0 7 == 0) (.chsend (BitVec.ofNat 6 (fld w 13 6)) (BitVec.ofNat 6 (fld w 7 6)))
  | 0x5A => checked (fld w 7 6 == 0 && fld w 0 7 == 0) (.chrecv (BitVec.ofNat 6 (fld w 19 6)) (BitVec.ofNat 6 (fld w 13 6)))
  | 0x5B => checked (fld w 1 6 == 0) (.waitw (BitVec.ofNat 6 (fld w 19 6)) (BitVec.ofNat 6 (fld w 13 6)) (BitVec.ofNat 6 (fld w 7 6)) (bitAt w 0))
  | 0x5C => checked (fld w 19 6 == 0 && fld w 13 6 == 0 && fld w 7 6 == 0 && fld w 0 7 == 0) .yield
  | 0x5D => checked (fld w 19 6 == 0 && fld w 8 5 == 0) (.semw (BitVec.ofNat 6 (fld w 13 6)) (BitVec.ofNat 8 (fld w 0 8)))
  | 0x5E => checked (fld w 19 6 == 0 && fld w 8 5 == 0) (.sems (BitVec.ofNat 6 (fld w 13 6)) (BitVec.ofNat 8 (fld w 0 8)))
  | 0x5F => checked (fld w 13 6 == 0 && fld w 7 6 == 0 && fld w 0 7 == 0) (.drnwait (BitVec.ofNat 6 (fld w 19 6)))
  | 0x60 => checked (fld w 19 6 == 0 && fld w 7 6 == 0 && fld w 0 7 == 0) (.drnput (BitVec.ofNat 6 (fld w 13 6)))
  | 0x68 => checked (fld w 13 6 == 0) (.getc (BitVec.ofNat 6 (fld w 19 6)) (BitVec.ofNat 13 (fld w 0 13)))
  | 0x69 => checked (fld w 19 6 == 0) (.putc (BitVec.ofNat 6 (fld w 13 6)) (BitVec.ofNat 13 (fld w 0 13)))
  | 0x6A => checked (fld w 19 6 == 0 && fld w 13 6 == 0) (.trap (BitVec.ofNat 13 (fld w 0 13)))
  | 0x6B => checked (fld w 19 6 == 0 && fld w 13 6 == 0 && fld w 7 6 == 0 && fld w 0 7 == 0) .kret
  | 0x6C => decodeXinv w
  | 0x6D => checked (fld w 19 6 == 0 && fld w 7 6 == 0 && fld w 0 7 == 0) (.rlatch (BitVec.ofNat 6 (fld w 13 6)))
  | 0x6E => checked (fld w 19 6 == 0 && fld w 7 6 == 0 && fld w 0 7 == 0) (.gstop (BitVec.ofNat 6 (fld w 13 6)))
  | 0x6F => checked (fld w 19 6 == 0 && fld w 7 6 == 0 && fld w 0 7 == 0) (.gresume (BitVec.ofNat 6 (fld w 13 6)))
  | 0x70 => checked (fld w 19 6 == 0 && fld w 7 6 == 0 && fld w 0 7 == 0) (.dbgstep (BitVec.ofNat 6 (fld w 13 6)))
  | _ => .error .op

/-- A B.V form: a type and variant that R80 does not permit are a reserved fn (03 R80, R85). -/
def typed (ok zero : Bool) (i : Instr) : Except SlotErr Instr := if ok then checked zero i else .error .op

/-- A slot B word, its bit i being bit 32 + i of the bundle (03 R79 to R82). -/
def decodeB (w : Nat) : Except SlotErr Instr :=
  match fld w 25 6 with
  | 0x00 => checked (fld w 0 25 == 0) .nop
  | 0x01 => typed (okSat (elemOf (fld w 4 3)) (BitVec.ofNat 4 (fld w 0 4))) true (.vadd (BitVec.ofNat 5 (fld w 20 5)) (BitVec.ofNat 5 (fld w 15 5)) (BitVec.ofNat 5 (fld w 10 5)) (BitVec.ofNat 3 (fld w 7 3)) (elemOf (fld w 4 3)) (BitVec.ofNat 4 (fld w 0 4)))
  | 0x02 => typed (okSat (elemOf (fld w 4 3)) (BitVec.ofNat 4 (fld w 0 4))) true (.vsub (BitVec.ofNat 5 (fld w 20 5)) (BitVec.ofNat 5 (fld w 15 5)) (BitVec.ofNat 5 (fld w 10 5)) (BitVec.ofNat 3 (fld w 7 3)) (elemOf (fld w 4 3)) (BitVec.ofNat 4 (fld w 0 4)))
  | 0x03 => typed (okSat (elemOf (fld w 4 3)) (BitVec.ofNat 4 (fld w 0 4))) true (.vmul (BitVec.ofNat 5 (fld w 20 5)) (BitVec.ofNat 5 (fld w 15 5)) (BitVec.ofNat 5 (fld w 10 5)) (BitVec.ofNat 3 (fld w 7 3)) (elemOf (fld w 4 3)) (BitVec.ofNat 4 (fld w 0 4)))
  | 0x04 => typed (fld w 0 4 == 0) true (.vfma (BitVec.ofNat 5 (fld w 20 5)) (BitVec.ofNat 5 (fld w 15 5)) (BitVec.ofNat 5 (fld w 10 5)) (BitVec.ofNat 3 (fld w 7 3)) (elemOf (fld w 4 3)))
  | 0x05 => typed (okSign (elemOf (fld w 4 3)) (BitVec.ofNat 4 (fld w 0 4))) true (.vmin (BitVec.ofNat 5 (fld w 20 5)) (BitVec.ofNat 5 (fld w 15 5)) (BitVec.ofNat 5 (fld w 10 5)) (BitVec.ofNat 3 (fld w 7 3)) (elemOf (fld w 4 3)) (BitVec.ofNat 4 (fld w 0 4)))
  | 0x06 => typed (okSign (elemOf (fld w 4 3)) (BitVec.ofNat 4 (fld w 0 4))) true (.vmax (BitVec.ofNat 5 (fld w 20 5)) (BitVec.ofNat 5 (fld w 15 5)) (BitVec.ofNat 5 (fld w 10 5)) (BitVec.ofNat 3 (fld w 7 3)) (elemOf (fld w 4 3)) (BitVec.ofNat 4 (fld w 0 4)))
  | 0x07 => typed (okAbs (elemOf (fld w 4 3)) (BitVec.ofNat 4 (fld w 0 4))) (fld w 10 5 == 0) (.vabs (BitVec.ofNat 5 (fld w 20 5)) (BitVec.ofNat 5 (fld w 15 5)) (BitVec.ofNat 3 (fld w 7 3)) (elemOf (fld w 4 3)) (BitVec.ofNat 4 (fld w 0 4)))
  | 0x08 => typed (okAbs (elemOf (fld w 4 3)) (BitVec.ofNat 4 (fld w 0 4))) (fld w 10 5 == 0) (.vneg (BitVec.ofNat 5 (fld w 20 5)) (BitVec.ofNat 5 (fld w 15 5)) (BitVec.ofNat 3 (fld w 7 3)) (elemOf (fld w 4 3)) (BitVec.ofNat 4 (fld w 0 4)))
  | 0x09 => typed ((elemOf (fld w 4 3)).isInt && fld w 0 4 == 0) true (.vand (BitVec.ofNat 5 (fld w 20 5)) (BitVec.ofNat 5 (fld w 15 5)) (BitVec.ofNat 5 (fld w 10 5)) (BitVec.ofNat 3 (fld w 7 3)) (elemOf (fld w 4 3)))
  | 0x0A => typed ((elemOf (fld w 4 3)).isInt && fld w 0 4 == 0) true (.vor (BitVec.ofNat 5 (fld w 20 5)) (BitVec.ofNat 5 (fld w 15 5)) (BitVec.ofNat 5 (fld w 10 5)) (BitVec.ofNat 3 (fld w 7 3)) (elemOf (fld w 4 3)))
  | 0x0B => typed ((elemOf (fld w 4 3)).isInt && fld w 0 4 == 0) true (.vxor (BitVec.ofNat 5 (fld w 20 5)) (BitVec.ofNat 5 (fld w 15 5)) (BitVec.ofNat 5 (fld w 10 5)) (BitVec.ofNat 3 (fld w 7 3)) (elemOf (fld w 4 3)))
  | 0x0C => typed ((elemOf (fld w 4 3)).isInt && fld w 0 4 == 0) true (.vshl (BitVec.ofNat 5 (fld w 20 5)) (BitVec.ofNat 5 (fld w 15 5)) (BitVec.ofNat 5 (fld w 10 5)) (BitVec.ofNat 3 (fld w 7 3)) (elemOf (fld w 4 3)))
  | 0x0D => typed ((elemOf (fld w 4 3)).isInt && decide (fld w 0 4 ≤ 1)) true (.vshr (BitVec.ofNat 5 (fld w 20 5)) (BitVec.ofNat 5 (fld w 15 5)) (BitVec.ofNat 5 (fld w 10 5)) (BitVec.ofNat 3 (fld w 7 3)) (elemOf (fld w 4 3)) (BitVec.ofNat 4 (fld w 0 4)))
  | 0x0E => typed (okCmp (elemOf (fld w 4 3)) (BitVec.ofNat 4 (fld w 0 4))) (decide (fld w 20 5 < 8)) (.vcmp (BitVec.ofNat 3 (fld w 20 5)) (BitVec.ofNat 5 (fld w 15 5)) (BitVec.ofNat 5 (fld w 10 5)) (BitVec.ofNat 3 (fld w 7 3)) (elemOf (fld w 4 3)) (BitVec.ofNat 4 (fld w 0 4)))
  | 0x0F => typed (fld w 0 4 == 0) true (.vsel (BitVec.ofNat 5 (fld w 20 5)) (BitVec.ofNat 5 (fld w 15 5)) (BitVec.ofNat 5 (fld w 10 5)) (BitVec.ofNat 3 (fld w 7 3)) (elemOf (fld w 4 3)))
  | 0x10 => typed (decide (fld w 0 3 ≤ 5) && decide (fld w 10 5 ≤ 23)) true (.vcvt (BitVec.ofNat 5 (fld w 20 5)) (BitVec.ofNat 5 (fld w 15 5)) (BitVec.ofNat 5 (fld w 10 5)) (BitVec.ofNat 3 (fld w 7 3)) (elemOf (fld w 4 3)) (BitVec.ofNat 4 (fld w 0 4)))
  | 0x11 => typed (okRed (elemOf (fld w 4 3)) (BitVec.ofNat 4 (fld w 0 4))) (fld w 10 5 == 0) (.vred (BitVec.ofNat 5 (fld w 20 5)) (BitVec.ofNat 5 (fld w 15 5)) (BitVec.ofNat 3 (fld w 7 3)) (elemOf (fld w 4 3)) (BitVec.ofNat 4 (fld w 0 4)))
  | 0x12 => typed (fld w 0 4 == 0) true (.vperm (BitVec.ofNat 5 (fld w 20 5)) (BitVec.ofNat 5 (fld w 15 5)) (BitVec.ofNat 5 (fld w 10 5)) (BitVec.ofNat 3 (fld w 7 3)) (elemOf (fld w 4 3)))
  | 0x13 => typed (fld w 0 4 == 0) (fld w 10 5 == 0) (.vbcs (BitVec.ofNat 5 (fld w 20 5)) (BitVec.ofNat 5 (fld w 15 5)) (BitVec.ofNat 3 (fld w 7 3)) (elemOf (fld w 4 3)))
  | 0x14 => typed (decide (fld w 0 4 ≤ 1)) true (.vext (BitVec.ofNat 5 (fld w 20 5)) (BitVec.ofNat 5 (fld w 15 5)) (BitVec.ofNat 5 (fld w 10 5)) (BitVec.ofNat 3 (fld w 7 3)) (elemOf (fld w 4 3)) (BitVec.ofNat 4 (fld w 0 4)))
  | 0x15 => typed ((elemOf (fld w 4 3)).isInt && fld w 0 4 == 0) (fld w 15 5 == 0 && fld w 10 5 == 0) (.viota (BitVec.ofNat 5 (fld w 20 5)) (BitVec.ofNat 3 (fld w 7 3)) (elemOf (fld w 4 3)))
  | 0x16 => typed (!(elemOf (fld w 4 3)).isInt && fld w 0 4 == 0) true (.vscale (BitVec.ofNat 5 (fld w 20 5)) (BitVec.ofNat 5 (fld w 15 5)) (BitVec.ofNat 5 (fld w 10 5)) (BitVec.ofNat 3 (fld w 7 3)) (elemOf (fld w 4 3)))
  | 0x17 => typed (fld w 0 4 == 0) (fld w 10 5 == 0) (.vmov (BitVec.ofNat 5 (fld w 20 5)) (BitVec.ofNat 5 (fld w 15 5)) (BitVec.ofNat 3 (fld w 7 3)) (elemOf (fld w 4 3)))
  | 0x18 => typed (okSign (elemOf (fld w 4 3)) (BitVec.ofNat 4 (fld w 0 4))) true (.vdiv (BitVec.ofNat 5 (fld w 20 5)) (BitVec.ofNat 5 (fld w 15 5)) (BitVec.ofNat 5 (fld w 10 5)) (BitVec.ofNat 3 (fld w 7 3)) (elemOf (fld w 4 3)) (BitVec.ofNat 4 (fld w 0 4)))
  | 0x19 => typed (!(elemOf (fld w 4 3)).isInt && fld w 0 4 == 0) (fld w 10 5 == 0) (.vsqrt (BitVec.ofNat 5 (fld w 20 5)) (BitVec.ofNat 5 (fld w 15 5)) (BitVec.ofNat 3 (fld w 7 3)) (elemOf (fld w 4 3)))
  | 0x1C => typed (okSfr (elemOf (fld w 4 3)) (BitVec.ofNat 4 (fld w 0 4))) (fld w 10 5 == 0) (.sfr (BitVec.ofNat 5 (fld w 20 5)) (BitVec.ofNat 5 (fld w 15 5)) (BitVec.ofNat 3 (fld w 7 3)) (elemOf (fld w 4 3)) (BitVec.ofNat 4 (fld w 0 4)))
  | 0x20 => typed (fld w 0 4 == 0) (decide (fld w 15 5 < 8) && fld w 10 5 == 0) (.vpop (BitVec.ofNat 5 (fld w 20 5)) (BitVec.ofNat 3 (fld w 15 5)) (BitVec.ofNat 3 (fld w 7 3)) (elemOf (fld w 4 3)))
  | 0x21 => typed (fld w 0 4 == 0) (decide (fld w 20 5 < 8) && fld w 10 5 == 0) (.vpush (BitVec.ofNat 3 (fld w 20 5)) (BitVec.ofNat 5 (fld w 15 5)) (BitVec.ofNat 3 (fld w 7 3)) (elemOf (fld w 4 3)))
  | 0x28 => checked (fld w 7 3 == 0 && fld w 3 4 == 0) (.mma (BitVec.ofNat 5 (fld w 20 5)) (BitVec.ofNat 5 (fld w 15 5)) (BitVec.ofNat 5 (fld w 10 5)) (mflagsOf (fld w 0 3)))
  | 0x29 => checked (fld w 3 4 == 0) (.mmas (BitVec.ofNat 5 (fld w 20 5)) (BitVec.ofNat 5 (fld w 15 5)) (BitVec.ofNat 5 (fld w 10 5)) (BitVec.ofNat 3 (fld w 7 3)) (mflagsOf (fld w 0 3)))
  | 0x2A => checked (fld w 7 3 == 0 && fld w 4 3 == 0) (.mmag (BitVec.ofNat 5 (fld w 20 5)) (BitVec.ofNat 5 (fld w 15 5)) (BitVec.ofNat 5 (fld w 10 5)) (bitAt w 3) (mflagsOf (fld w 0 3)))
  | 0x2B => checked (fld w 7 3 == 0 && fld w 3 4 == 0) (.mmaw (BitVec.ofNat 5 (fld w 20 5)) (BitVec.ofNat 5 (fld w 15 5)) (BitVec.ofNat 5 (fld w 10 5)) (mflagsOf (fld w 0 3)))
  | 0x2C => checked (fld w 0 20 == 0) (.tzero (BitVec.ofNat 5 (fld w 20 5)))
  | 0x2D => checked (fld w 0 7 == 0) (.trowv (BitVec.ofNat 5 (fld w 20 5)) (BitVec.ofNat 5 (fld w 15 5)) (BitVec.ofNat 5 (fld w 10 5)) (BitVec.ofNat 3 (fld w 7 3)))
  | 0x2E => checked (fld w 0 7 == 0) (.tvrow (BitVec.ofNat 5 (fld w 20 5)) (BitVec.ofNat 5 (fld w 15 5)) (BitVec.ofNat 5 (fld w 10 5)) (BitVec.ofNat 3 (fld w 7 3)))
  | _ => .error .op

/-- Wait and signal fields of an engine command (02 R45). -/
def engOf (w : Nat) : EngCmd :=
  { wsem := BitVec.ofNat 8 (fld w 46 8), wthr := BitVec.ofNat 8 (fld w 38 8), ssem := BitVec.ofNat 8 (fld w 30 8),
    sinc := BitVec.ofNat 4 (fld w 26 4) }

/-- An engine command by its eop (03 R83, 10 R254). -/
def decodeEngine (w : Nat) : Except SlotErr Instr :=
  match fld w 54 6 with
  | 1 => checked (fld w 2 6 == 0) (.cpy (engOf w) (BitVec.ofNat 6 (fld w 20 6)) (BitVec.ofNat 6 (fld w 14 6)) (BitVec.ofNat 6 (fld w 8 6)) (bitAt w 0) (bitAt w 1))
  | 2 => checked (fld w 5 3 == 0 && decide (fld w 0 2 < 3)) (.cpyr (engOf w) (BitVec.ofNat 6 (fld w 20 6)) (BitVec.ofNat 6 (fld w 14 6)) (BitVec.ofNat 6 (fld w 8 6)) (redOf (fld w 0 2)) (bitAt w 2) (bitAt w 3) (bitAt w 4))
  | 3 => checked (fld w 20 6 == 0 && fld w 14 6 == 0 && fld w 8 6 == 0 && fld w 0 8 == 0) (.cbatch (engOf w))
  | 4 => checked (fld w 14 6 == 0 && fld w 8 6 == 0 && fld w 0 8 == 0) (.cwait (engOf w) (BitVec.ofNat 6 (fld w 20 6)))
  | 5 => checked (fld w 8 6 == 0 && fld w 4 4 == 0) (.sbind (engOf w) (BitVec.ofNat 6 (fld w 20 6)) (BitVec.ofNat 6 (fld w 14 6)) (BitVec.ofNat 3 (fld w 0 3)) (bitAt w 3))
  | 6 => checked (fld w 20 6 == 0 && fld w 14 6 == 0 && fld w 8 6 == 0 && fld w 3 5 == 0) (.sunbind (engOf w) (BitVec.ofNat 3 (fld w 0 3)))
  | 7 => checked (fld w 8 6 == 0 && fld w 7 1 == 0) (.tld (engOf w) (BitVec.ofNat 6 (fld w 20 6)) (BitVec.ofNat 6 (fld w 14 6)) (BitVec.ofNat 5 (fld w 0 5)) (bitAt w 5) (bitAt w 6))
  | 8 => checked (fld w 8 6 == 0 && fld w 6 2 == 0) (.tst (engOf w) (BitVec.ofNat 6 (fld w 20 6)) (BitVec.ofNat 6 (fld w 14 6)) (BitVec.ofNat 5 (fld w 0 5)) (bitAt w 5))
  | 9 => checked (fld w 5 3 == 0) (.tldw (engOf w) (BitVec.ofNat 6 (fld w 20 6)) (BitVec.ofNat 6 (fld w 14 6)) (BitVec.ofNat 6 (fld w 8 6)) (BitVec.ofNat 5 (fld w 0 5)))
  | 10 => checked (decide (fld w 20 6 < 32) && decide (fld w 14 6 < 32) && decide (fld w 8 6 < 32) && fld w 3 5 == 0) (.mmal (engOf w) (BitVec.ofNat 5 (fld w 20 6)) (BitVec.ofNat 5 (fld w 14 6)) (BitVec.ofNat 5 (fld w 8 6)) (mflagsOf (fld w 0 3)))
  | _ => .error .op

/-- A long immediate by its op (02 R44). -/
def decodeImm (w : Nat) : Except SlotErr Instr :=
  match fld w 56 4 with
  | 0 => checked true (.movl (BitVec.ofNat 6 (fld w 50 6)) (BitVec.ofNat 50 (fld w 0 50)))
  | 1 => checked true (.ljal (BitVec.ofNat 6 (fld w 50 6)) (BitVec.ofNat 50 (fld w 0 50)))
  | _ => .error .op

/-- A long form by its class (02 R33). -/
def decodeLong (w : Nat) : Except DecodeErr Bundle :=
  match (if fld w 60 3 = 0 then some (decodeImm w) else if fld w 60 3 = 1 then some (decodeEngine w) else none) with
  | none => .error .illegalBundle
  | some (.error .op) => .error (.illegalOp 2)
  | some (.error .field) => .error (.reservedField 2)
  | some (.ok i) => .ok (.long i)

/-- SVC and TRAP admit no slot B (04 R108, 14 R381). -/
def standsAlone : Instr → Bool
  | .svc _ | .trap _ => true
  | _ => false

/-- A pair: ILLEGAL_OP of slot A then slot B, then RESERVED_FIELD of slot A then slot B (02 R35, 03 R85). -/
def decodePair (w : Nat) : Except DecodeErr Bundle :=
  match decodeA (fld w 0 32), decodeB (fld w 32 31) with
  | .error .op, _ => .error (.illegalOp 0)
  | _, .error .op => .error (.illegalOp 1)
  | .error .field, _ => .error (.reservedField 0)
  | .ok _, .error .field => .error (.reservedField 1)
  | .ok a, .ok b => if standsAlone a && !(fld w 32 31 == 0) then .error (.reservedField 1) else .ok (.pair a b)

/-- A bundle (02 R31). -/
def decodeBundle (w : Nat) : Except DecodeErr Bundle := if bitAt w 63 then decodeLong w else decodePair w

/-- The instruction of a bundle that holds one: a long form, or a pair with a NOP slot. -/
def soleInstr : Bundle → Option Instr
  | .long i => some i
  | .pair a .nop => some a
  | .pair .nop b => some b
  | .pair _ _ => none

/-- The instruction the decoder reads from an opcode-table word: one little-endian bundle of 8 bytes. -/
def decodeTableWord (nbits w : Nat) : Option Instr :=
  match decodeBundle (w % 2 ^ nbits % 2 ^ 64) with
  | .ok b => soleInstr b
  | .error _ => none

/-- An A.R word (02 R39). -/
def wordR (op d a b fn : Nat) : Nat := op * 2 ^ 25 + d * 2 ^ 19 + a * 2 ^ 13 + b * 2 ^ 7 + fn

/-- A word of A.I, A.M, A.B or A.S: two register fields and 13 bits (02 R39). -/
def wordI (op d a imm : Nat) : Nat := op * 2 ^ 25 + d * 2 ^ 19 + a * 2 ^ 13 + imm

/-- An A.J word (02 R39). -/
def wordJ (op d imm : Nat) : Nat := op * 2 ^ 25 + d * 2 ^ 19 + imm

/-- A B.V or B.M word (02 R42). -/
def wordV (op d a b q fn : Nat) : Nat := op * 2 ^ 25 + d * 2 ^ 20 + a * 2 ^ 15 + b * 2 ^ 10 + q * 2 ^ 7 + fn

/-- fn of a B.V form (02 R43). -/
def fnV (ty : ElemType) (v : Nat) : Nat := elemCode ty * 2 ^ 4 + v

/-- An engine command (02 R45). -/
def wordE (eop : Nat) (e : EngCmd) (a b c flags : Nat) : Nat :=
  2 ^ 63 + 2 ^ 60 + eop * 2 ^ 54 + e.wsem.toNat * 2 ^ 46 + e.wthr.toNat * 2 ^ 38 + e.ssem.toNat * 2 ^ 30 +
    e.sinc.toNat * 2 ^ 26 + a * 2 ^ 20 + b * 2 ^ 14 + c * 2 ^ 8 + flags

/-- The slot A word of an instruction of slot A. -/
def encodeA : Instr → Option Nat
  | .nop => some (0)
  | .add d a b => some (wordR 1 d.toNat a.toNat b.toNat 0)
  | .sub d a b => some (wordR 1 d.toNat a.toNat b.toNat 1)
  | .and d a b => some (wordR 1 d.toNat a.toNat b.toNat 2)
  | .or d a b => some (wordR 1 d.toNat a.toNat b.toNat 3)
  | .xor d a b => some (wordR 1 d.toNat a.toNat b.toNat 4)
  | .andn d a b => some (wordR 1 d.toNat a.toNat b.toNat 5)
  | .orn d a b => some (wordR 1 d.toNat a.toNat b.toNat 6)
  | .sll d a b => some (wordR 1 d.toNat a.toNat b.toNat 7)
  | .srl d a b => some (wordR 1 d.toNat a.toNat b.toNat 8)
  | .sra d a b => some (wordR 1 d.toNat a.toNat b.toNat 9)
  | .ror d a b => some (wordR 1 d.toNat a.toNat b.toNat 10)
  | .slt d a b => some (wordR 1 d.toNat a.toNat b.toNat 11)
  | .sltu d a b => some (wordR 1 d.toNat a.toNat b.toNat 12)
  | .seq d a b => some (wordR 1 d.toNat a.toNat b.toNat 13)
  | .sne d a b => some (wordR 1 d.toNat a.toNat b.toNat 14)
  | .min d a b => some (wordR 1 d.toNat a.toNat b.toNat 15)
  | .max d a b => some (wordR 1 d.toNat a.toNat b.toNat 16)
  | .minu d a b => some (wordR 1 d.toNat a.toNat b.toNat 17)
  | .maxu d a b => some (wordR 1 d.toNat a.toNat b.toNat 18)
  | .addw d a b => some (wordR 1 d.toNat a.toNat b.toNat 19)
  | .subw d a b => some (wordR 1 d.toNat a.toNat b.toNat 20)
  | .sllw d a b => some (wordR 1 d.toNat a.toNat b.toNat 21)
  | .srlw d a b => some (wordR 1 d.toNat a.toNat b.toNat 22)
  | .sraw d a b => some (wordR 1 d.toNat a.toNat b.toNat 23)
  | .mul d a b => some (wordR 2 d.toNat a.toNat b.toNat 0)
  | .mulh d a b => some (wordR 2 d.toNat a.toNat b.toNat 1)
  | .mulhu d a b => some (wordR 2 d.toNat a.toNat b.toNat 2)
  | .mulhsu d a b => some (wordR 2 d.toNat a.toNat b.toNat 3)
  | .mulw d a b => some (wordR 2 d.toNat a.toNat b.toNat 4)
  | .div d a b => some (wordR 2 d.toNat a.toNat b.toNat 5)
  | .divu d a b => some (wordR 2 d.toNat a.toNat b.toNat 6)
  | .rem d a b => some (wordR 2 d.toNat a.toNat b.toNat 7)
  | .remu d a b => some (wordR 2 d.toNat a.toNat b.toNat 8)
  | .divw d a b => some (wordR 2 d.toNat a.toNat b.toNat 9)
  | .divuw d a b => some (wordR 2 d.toNat a.toNat b.toNat 10)
  | .remw d a b => some (wordR 2 d.toNat a.toNat b.toNat 11)
  | .remuw d a b => some (wordR 2 d.toNat a.toNat b.toNat 12)
  | .clz d a => some (wordR 3 d.toNat a.toNat 0 0)
  | .ctz d a => some (wordR 3 d.toNat a.toNat 0 1)
  | .popc d a => some (wordR 3 d.toNat a.toNat 0 2)
  | .brev d a => some (wordR 3 d.toNat a.toNat 0 3)
  | .bswap d a => some (wordR 3 d.toNat a.toNat 0 4)
  | .sxb d a => some (wordR 3 d.toNat a.toNat 0 5)
  | .sxh d a => some (wordR 3 d.toNat a.toNat 0 6)
  | .sxw d a => some (wordR 3 d.toNat a.toNat 0 7)
  | .zxh d a => some (wordR 3 d.toNat a.toNat 0 8)
  | .zxw d a => some (wordR 3 d.toNat a.toNat 0 9)
  | .lea1 d a b => some (wordR 3 d.toNat a.toNat b.toNat 10)
  | .lea2 d a b => some (wordR 3 d.toNat a.toNat b.toNat 11)
  | .lea3 d a b => some (wordR 3 d.toNat a.toNat b.toNat 12)
  | .lea4 d a b => some (wordR 3 d.toNat a.toNat b.toNat 13)
  | .addi d a i => some (wordI 0x08 d.toNat a.toNat i.toNat)
  | .andi d a i => some (wordI 0x09 d.toNat a.toNat i.toNat)
  | .ori d a i => some (wordI 0x0A d.toNat a.toNat i.toNat)
  | .xori d a i => some (wordI 0x0B d.toNat a.toNat i.toNat)
  | .slti d a i => some (wordI 0x0C d.toNat a.toNat i.toNat)
  | .sltiu d a i => some (wordI 0x0D d.toNat a.toNat i.toNat)
  | .addiw d a i => some (wordI 0x11 d.toNat a.toNat i.toNat)
  | .jalr d a i => some (wordI 0x1F d.toNat a.toNat i.toNat)
  | .slli d a i => some (wordI 0x0E d.toNat a.toNat i.toNat)
  | .srli d a i => some (wordI 0x0F d.toNat a.toNat i.toNat)
  | .srai d a i => some (wordI 0x10 d.toNat a.toNat i.toNat)
  | .beq d a i => some (wordI 0x18 d.toNat a.toNat i.toNat)
  | .bne d a i => some (wordI 0x19 d.toNat a.toNat i.toNat)
  | .blt d a i => some (wordI 0x1A d.toNat a.toNat i.toNat)
  | .bge d a i => some (wordI 0x1B d.toNat a.toNat i.toNat)
  | .bltu d a i => some (wordI 0x1C d.toNat a.toNat i.toNat)
  | .bgeu d a i => some (wordI 0x1D d.toNat a.toNat i.toNat)
  | .lui d i => some (wordJ 0x12 d.toNat i.toNat)
  | .addpc d i => some (wordJ 0x13 d.toNat i.toNat)
  | .jal d i => some (wordJ 0x1E d.toNat i.toNat)
  | .spawn d i => some (wordJ 0x50 d.toNat i.toNat)
  | .ldb d a i => some (wordI 0x28 d.toNat a.toNat i.toNat)
  | .ldbu d a i => some (wordI 0x29 d.toNat a.toNat i.toNat)
  | .ldh d a i => some (wordI 0x2A d.toNat a.toNat i.toNat)
  | .ldhu d a i => some (wordI 0x2B d.toNat a.toNat i.toNat)
  | .ldw d a i => some (wordI 0x2C d.toNat a.toNat i.toNat)
  | .ldwu d a i => some (wordI 0x2D d.toNat a.toNat i.toNat)
  | .ldd d a i => some (wordI 0x2E d.toNat a.toNat i.toNat)
  | .ldq d a i => some (wordI 0x2F d.toNat a.toNat i.toNat)
  | .stb d a i => some (wordI 0x30 d.toNat a.toNat i.toNat)
  | .sth d a i => some (wordI 0x31 d.toNat a.toNat i.toNat)
  | .stw d a i => some (wordI 0x32 d.toNat a.toNat i.toNat)
  | .std d a i => some (wordI 0x33 d.toNat a.toNat i.toNat)
  | .stq d a i => some (wordI 0x34 d.toNat a.toNat i.toNat)
  | .sto d a i => some (wordI 0x39 d.toNat a.toNat i.toNat)
  | .ldf d a i => some (wordI 0x3A d.toNat a.toNat i.toNat)
  | .ldfe d a i => some (wordI 0x3B d.toNat a.toNat i.toNat)
  | .stff d a i => some (wordI 0x3C d.toNat a.toNat i.toNat)
  | .stef d a i => some (wordI 0x3D d.toNat a.toNat i.toNat)
  | .throw a => some (wordR 0x20 0 a.toNat 0 0)
  | .endThread => some (wordR 0x21 0 0 0 0)
  | .fencei => some (wordR 0x4B 0 0 0 0)
  | .spawnr d a => some (wordR 0x51 d.toNat a.toNat 0 0)
  | .sync d => some (wordR 0x52 d.toNat 0 0 0)
  | .publ a b => some (wordR 0x53 0 a.toNat b.toNat 0)
  | .tret => some (wordR 0x54 0 0 0 0)
  | .ticket d a => some (wordR 0x55 d.toNat a.toNat 0 0)
  | .donate a b => some (wordR 0x56 0 a.toNat b.toNat 0)
  | .bar a => some (wordR 0x57 0 a.toNat 0 0)
  | .bart d a => some (wordR 0x58 d.toNat a.toNat 0 0)
  | .chsend a b => some (wordR 0x59 0 a.toNat b.toNat 0)
  | .chrecv d a => some (wordR 0x5A d.toNat a.toNat 0 0)
  | .yield => some (wordR 0x5C 0 0 0 0)
  | .drnwait d => some (wordR 0x5F d.toNat 0 0 0)
  | .drnput a => some (wordR 0x60 0 a.toNat 0 0)
  | .kret => some (wordR 0x6B 0 0 0 0)
  | .rlatch a => some (wordR 0x6D 0 a.toNat 0 0)
  | .gstop a => some (wordR 0x6E 0 a.toNat 0 0)
  | .gresume a => some (wordR 0x6F 0 a.toNat 0 0)
  | .dbgstep a => some (wordR 0x70 0 a.toNat 0 0)
  | .svc n => some (wordI 0x22 0 0 n.toNat)
  | .trap n => some (wordI 0x6A 0 0 n.toNat)
  | .vld d a i => some (wordI 0x35 d.toNat a.toNat i.toNat)
  | .vst d a i => some (wordI 0x36 d.toNat a.toNat i.toNat)
  | .vldx d a b z => some (wordR 0x37 d.toNat a.toNat b.toNat (z.toNat * 2))
  | .vldxIx d a b z => some (wordR 0x37 d.toNat a.toNat b.toNat (z.toNat * 2 + 1))
  | .vstx d a b z => some (wordR 0x38 d.toNat a.toNat b.toNat (z.toNat * 2))
  | .vstxIx d a b z => some (wordR 0x38 d.toNat a.toNat b.toNat (z.toNat * 2 + 1))
  | .feqry d a => some (wordR 0x3E d.toNat a.toNat 0 0)
  | .feset a => some (wordR 0x3E 0 a.toNat 0 1)
  | .feclr a => some (wordR 0x3E 0 a.toNat 0 2)
  | .amo d a b o x p => some (wordR 0x40 d.toNat a.toNat b.toNat (bitNum o * 2 ^ 6 + bitNum x * 2 ^ 5 + amoCode p))
  | .cas d a b o x => some (wordR 0x41 d.toNat a.toNat b.toNat (bitNum o * 2 ^ 6 + casCode x))
  | .rupd a b o x p => some (wordR 0x42 0 a.toNat b.toNat (bitNum o * 2 ^ 6 + bitNum x * 2 ^ 5 + amoCode p))
  | .msgapp d a o n => some (wordR 0x43 d.toNat a.toNat 0 (bitNum o * 2 ^ 6 + n.toNat))
  | .msgtake d n => some (wordR 0x44 d.toNat 0 0 n.toNat)
  | .fence a b m e k => some (wordR 0x48 0 a.toNat b.toNat (bitNum m * 2 ^ 3 + bitNum e * 2 ^ 2 + fenceCode k))
  | .rtset a b s => some (wordR 0x49 0 a.toNat b.toNat s.toNat)
  | .rtdesc a s => some (wordR 0x4A 0 a.toNat 0 s.toNat)
  | .clean a b v => some (wordR 0x4C 0 a.toNat b.toNat (bitNum v))
  | .pref h a i => some (wordI 0x4D (bitNum h) a.toNat i.toNat)
  | .waitw d a b e => some (wordR 0x5B d.toNat a.toNat b.toNat (bitNum e))
  | .semw a k => some (wordI 0x5D 0 a.toNat k.toNat)
  | .sems a k => some (wordI 0x5E 0 a.toNat k.toNat)
  | .getc d s => some (wordI 0x68 d.toNat 0 s.toNat)
  | .putc a s => some (wordI 0x69 0 a.toNat s.toNat)
  | .xinv a b z => some (wordR 0x6C 0 a.toNat b.toNat z.toNat)
  | .xinvCtx a z => some (wordR 0x6C 0 a.toNat 0 (4 + z.toNat))
  | _ => none

/-- The slot B word of an instruction of slot B. -/
def encodeB : Instr → Option Nat
  | .nop => some (0)
  | .vadd d a b q t v => some (wordV 0x01 d.toNat a.toNat b.toNat q.toNat (fnV t v.toNat))
  | .vsub d a b q t v => some (wordV 0x02 d.toNat a.toNat b.toNat q.toNat (fnV t v.toNat))
  | .vmul d a b q t v => some (wordV 0x03 d.toNat a.toNat b.toNat q.toNat (fnV t v.toNat))
  | .vmin d a b q t v => some (wordV 0x05 d.toNat a.toNat b.toNat q.toNat (fnV t v.toNat))
  | .vmax d a b q t v => some (wordV 0x06 d.toNat a.toNat b.toNat q.toNat (fnV t v.toNat))
  | .vshr d a b q t v => some (wordV 0x0D d.toNat a.toNat b.toNat q.toNat (fnV t v.toNat))
  | .vcmp d a b q t v => some (wordV 0x0E d.toNat a.toNat b.toNat q.toNat (fnV t v.toNat))
  | .vcvt d a b q t v => some (wordV 0x10 d.toNat a.toNat b.toNat q.toNat (fnV t v.toNat))
  | .vext d a b q t v => some (wordV 0x14 d.toNat a.toNat b.toNat q.toNat (fnV t v.toNat))
  | .vdiv d a b q t v => some (wordV 0x18 d.toNat a.toNat b.toNat q.toNat (fnV t v.toNat))
  | .vabs d a q t v => some (wordV 0x07 d.toNat a.toNat 0 q.toNat (fnV t v.toNat))
  | .vneg d a q t v => some (wordV 0x08 d.toNat a.toNat 0 q.toNat (fnV t v.toNat))
  | .vred d a q t v => some (wordV 0x11 d.toNat a.toNat 0 q.toNat (fnV t v.toNat))
  | .sfr d a q t v => some (wordV 0x1C d.toNat a.toNat 0 q.toNat (fnV t v.toNat))
  | .vfma d a b q t => some (wordV 0x04 d.toNat a.toNat b.toNat q.toNat (fnV t 0))
  | .vand d a b q t => some (wordV 0x09 d.toNat a.toNat b.toNat q.toNat (fnV t 0))
  | .vor d a b q t => some (wordV 0x0A d.toNat a.toNat b.toNat q.toNat (fnV t 0))
  | .vxor d a b q t => some (wordV 0x0B d.toNat a.toNat b.toNat q.toNat (fnV t 0))
  | .vshl d a b q t => some (wordV 0x0C d.toNat a.toNat b.toNat q.toNat (fnV t 0))
  | .vsel d a b q t => some (wordV 0x0F d.toNat a.toNat b.toNat q.toNat (fnV t 0))
  | .vperm d a b q t => some (wordV 0x12 d.toNat a.toNat b.toNat q.toNat (fnV t 0))
  | .vscale d a b q t => some (wordV 0x16 d.toNat a.toNat b.toNat q.toNat (fnV t 0))
  | .vbcs d a q t => some (wordV 0x13 d.toNat a.toNat 0 q.toNat (fnV t 0))
  | .vmov d a q t => some (wordV 0x17 d.toNat a.toNat 0 q.toNat (fnV t 0))
  | .vsqrt d a q t => some (wordV 0x19 d.toNat a.toNat 0 q.toNat (fnV t 0))
  | .vpop d a q t => some (wordV 0x20 d.toNat a.toNat 0 q.toNat (fnV t 0))
  | .vpush d a q t => some (wordV 0x21 d.toNat a.toNat 0 q.toNat (fnV t 0))
  | .viota d q t => some (wordV 0x15 d.toNat 0 0 q.toNat (fnV t 0))
  | .mma d a b f => some (wordV 0x28 d.toNat a.toNat b.toNat 0 (mflagsCode f))
  | .mmas d a b q f => some (wordV 0x29 d.toNat a.toNat b.toNat q.toNat (mflagsCode f))
  | .mmag d a b g f => some (wordV 0x2A d.toNat a.toNat b.toNat 0 (bitNum g * 2 ^ 3 + mflagsCode f))
  | .mmaw d a b f => some (wordV 0x2B d.toNat a.toNat b.toNat 0 (mflagsCode f))
  | .tzero d => some (wordV 0x2C d.toNat 0 0 0 0)
  | .trowv d a b q => some (wordV 0x2D d.toNat a.toNat b.toNat q.toNat 0)
  | .tvrow d a b q => some (wordV 0x2E d.toNat a.toNat b.toNat q.toNat 0)
  | _ => none

/-- The bundle of a long form. -/
def encodeLong : Instr → Option Nat
  | .movl d i => some (2 ^ 63 + d.toNat * 2 ^ 50 + i.toNat)
  | .ljal d i => some (2 ^ 63 + 2 ^ 56 + d.toNat * 2 ^ 50 + i.toNat)
  | .cpy e a b c t p => some (wordE 1 e a.toNat b.toNat c.toNat (bitNum t + bitNum p * 2))
  | .cpyr e a b c o t r i => some (wordE 2 e a.toNat b.toNat c.toNat (redCode o + bitNum t * 2 ^ 2 + bitNum r * 2 ^ 3 + bitNum i * 2 ^ 4))
  | .cbatch e => some (wordE 3 e 0 0 0 0)
  | .cwait e a => some (wordE 4 e a.toNat 0 0 0)
  | .sbind e a b n r => some (wordE 5 e a.toNat b.toNat 0 (n.toNat + bitNum r * 2 ^ 3))
  | .sunbind e n => some (wordE 6 e 0 0 0 n.toNat)
  | .tld e a b t r p => some (wordE 7 e a.toNat b.toNat 0 (t.toNat + bitNum r * 2 ^ 5 + bitNum p * 2 ^ 6))
  | .tst e a b t r => some (wordE 8 e a.toNat b.toNat 0 (t.toNat + bitNum r * 2 ^ 5))
  | .tldw e a b c t => some (wordE 9 e a.toNat b.toNat c.toNat t.toNat)
  | .mmal e d a b f => some (wordE 10 e d.toNat a.toNat b.toNat (mflagsCode f))
  | _ => none

/-- The 64 bits of a bundle; none where an instruction stands in a slot that has no encoding for it, or beside one
that admits no other (04 R108, 14 R381). -/
def encodeBundle : Bundle → Option Nat
  | .long i => encodeLong i
  | .pair a b =>
    match encodeA a, encodeB b with
    | some x, some y => if standsAlone a && !(y == 0) then none else some (x + y * 2 ^ 32)
    | _, _ => none

/-- The bundle that carries one instruction, the other slot empty. -/
def soleBundle (i : Instr) : Bundle :=
  if (encodeA i).isSome then .pair i .nop else if (encodeB i).isSome then .pair .nop i else .long i

/-- The words of an instruction; an event has none. -/
def encode (i : Instr) : Option Nat := encodeBundle (soleBundle i)

end Sys2Proof
end

