-- ==== Sys2Proof/Config.lean ====
section
/-! DEFINITION. What the manual fixes by another standard or leaves open: opaque functions. Nothing is
known of a value of any of them, so a claim holds whatever it is. -/

namespace Sys2Proof.Config

/-- SHAKE256 with 512-bit output (FIPS 202), over a byte string (13 R369); log 5. -/
opaque shake256 : List Byte → BitVec 512

/-- Whether an ML-DSA-65 signature (FIPS 204) over a digest verifies against the fused Palval key (13 R369); log 5. -/
opaque signatureOk : BitVec 512 → List Byte → Bool

/-- The ML-DSA-65 signature made with the panel identity key, over a transcript, with measurement state (13 R370, R371); log 5. -/
opaque sign : BitVec 512 → List Byte → List Byte

/-- Certificate chain bytes of a slot (13 R370, R371); log 5. -/
opaque certificate : Nat → List Byte

/-- MR of die 68 after the stage 0x02 that Palval manufactured (13 R370); log 5. -/
opaque manufactured : BitVec 512

/-- Random bytes the panel puts in a signed SPDM response (13 R371), drawn by a plain counter; log 5. -/
opaque nonce : Nat → List Byte

/-- Image bytes of a boot stage (13 R369), by stage id and die; log 5. -/
opaque bootImage : Nat → Nat → List Byte

/-- Signature of a boot stage's image (13 R369); log 5. -/
opaque bootSignature : Nat → Nat → List Byte

/-- Security version of a stage's image and the fused minimum of a die (13 R369); log 5. -/
opaque bootVersion : Nat → Nat → Nat
opaque fusedMinimum : Nat → Nat

/-- A sensor reading (15 R428), drawn by a plain counter: sensor number, count; log 6. -/
opaque sensor : Nat → Nat → Nat

/-- The weight-store refresh schedule (08 R200): start and length of the window numbered by the counter; log 6. -/
opaque refreshStart : Nat → BitVec 48
opaque refreshLen : Nat → BitVec 16

/-- Firmware's choice of a groundsheet's LPDDR6 address (14 R391), by context and panel; log 6. -/
opaque groundsheet : Nat → Word

/-- Where firmware puts the overflow chain of a core's inbox (14 R393 OVF), by core; log 6. -/
opaque overflowChain : Nat → Word

/-- Firmware's address of the capability list (02 R51, 15 R417); log 6. -/
opaque capabilityList : Word

/-- Bytes of CXL memory attached on a port, before the limits of 01 R26 (15 R417, R425); log 6. -/
opaque cxlAttached : Nat → Word

/-- Bytes of CXL memory attached on a port: only ports 2 and 3 reach such devices, which together give up to 8 TiB (01 R26). -/
def cxlCapacity (n : Nat) : Nat :=
  let two := (cxlAttached 2).toNat % (2 ^ 43 + 1)
  if n = 2 then two else if n = 3 then (cxlAttached 3).toNat % (2 ^ 43 - two + 1) else 0

/-- The two hash functions of a directory slice (08 R196), of the way, the context id and the line; log 6. -/
opaque dirHash : Nat → Nat → Nat → BitVec 17

/-- The port of a home at which the requests of a cluster arrive (08 R197), by home and cluster; log 6. -/
opaque homePort : Nat → Nat → BitVec 3

/-- The port number of LINK_DOWN for a host port, for which the manual's table gives none (14 R378); log 6. -/
opaque hostPortNumber : Nat → BitVec 5

end Sys2Proof.Config
end

