-- ==== Sys2Proof/Machine/State.lean ====
section
/-! DEFINITION. The state of the panel as plain data, its faults and refusals, and the state after reset. -/

namespace Sys2Proof.Machine

/-- Privilege modes (13 R347, KSTAT.MODE of 02 R62). -/
inductive Mode where
  | user | supervisor | firmware
  deriving DecidableEq, Repr

/-- Base state of a thread context (11 R282); stopped is `Thread.stopped`. -/
inductive TState where
  | free | running | parked | idle | retired
  deriving DecidableEq, Repr

/-- A register a pending mark can stand on (02 R38). -/
inductive RegName where
  | s (n : Nat)
  | v (n : Nat)
  | q (n : Nat)
  deriving DecidableEq, Repr

/-- The condition a bundle or thread is parked on (11 R283). -/
inductive Wait where
  | none | pendingReg | accessTable | latchBusy | fenceBusy | rangeBusy | descriptor | feWord (addr : Word) | channel (addr : Word)
  | sem (k : Nat) | inbox | barrier | barrierTimed | watch (addr : Word) | ticket | donation | drain
  | queueFull | tileMark | sfrLimit | sfrResult | gang | batch | streamFull | streamBusy | dequeFull | earlierStores
  | invalidation | firmware | msgLimit | outstanding | release | enginesIdle | stopping | flagResult | endParked | hold | mmasOnStream
  deriving DecidableEq, Repr

/-- The element of a 16-byte-aligned piece of an access (08 R208). -/
structure Piece where
  addr : Word
  size : Nat
  off  : Nat
  deriving DecidableEq, Repr

/-- Where an access stands in the conflict detector's order: interval, quantum and bundle of its issue, and what precedes
it (12 R340). -/
structure Stamp where
  ivl  : Nat
  q    : Nat
  bno  : Nat
  seen : AMap Nat
  deriving DecidableEq, Repr

/-- Outside deterministic mode nothing is recorded. -/
def Stamp.none : Stamp := { ivl := 0, q := 0, bno := 0, seen := [] }

/-- The form an access-table entry holds (09 R221). -/
inductive AccForm where
  | load (bytes : Nat) (signed : Bool)
  | loadPair
  | store
  | vload
  | vstore
  | sto
  | fe
  | read
  | msg (target : Nat) (words : List Word) (ord : Bool)
  | clean (inv : Bool)
  deriving DecidableEq, Repr

/-- An access-table entry (09 R221, R223, R229; 14 R395). -/
structure AccEntry where
  seq    : BitVec 16
  form   : AccForm
  op     : BitVec 7
  fn     : BitVec 7
  d      : Nat
  addr   : Word
  pieces : List Piece
  done   : Nat
  data   : Vec
  slots  : List Nat
  epoch  : Nat
  spawn  : Nat
  held   : Option Nat
  key    : Option Nat
  mode   : Mode
  sent   : Bool
  ord    : Nat
  since  : Nat
  arrived : Bool
  req    : Nat
  offs   : Vec
  stamp  : Stamp
  deriving DecidableEq, Repr

/-- The retry latch (02 R62, 09 R239). -/
structure Latch where
  sent     : Bool
  armed    : Bool
  op       : BitVec 7
  fn       : BitVec 7
  d        : BitVec 6
  addr     : Word
  operand  : BitVec 128
  expected : BitVec 128
  seq      : BitVec 16
  cause    : Option Nat
  answer   : Option (BitVec 128)
  mode     : Mode
  ord      : Nat
  since    : Nat
  slots    : List Nat
  epoch    : Nat
  spawn    : Nat
  key      : Option Nat
  req      : Nat
  deriving DecidableEq, Repr

/-- The fence of the previous epoch that still waits (09 R244, R245; 14 R396). -/
structure Fence where
  kind  : FenceKind
  e     : Bool
  m     : Bool
  mask  : BitVec 16
  scope : Word
  epoch : Nat
  mops  : List Nat
  deriving DecidableEq, Repr

/-- A range slot (08 R213, 09 R228): covered intervals, and the descriptor address for a descriptor slot. -/
structure RangeSlot where
  used  : Bool
  desc  : Option Word
  base  : Word
  limit : Word
  cover : List (Word × Nat)
  deriving DecidableEq, Repr

/-- A record of a stream (10 R266): whether it has arrived, whether a fence has dropped it, so that it is fetched again once
that fence's wait is met (10 R267), and the epoch its refill or drain belongs to (09 R229). -/
structure StreamRec where
  data    : Vec
  mask    : Mask
  arrived : Bool
  again   : Bool
  epoch   : Nat
  deriving DecidableEq, Repr

/-- A VPOP whose record has not arrived (06 R142). -/
structure PopWait where
  record : Nat
  vd     : Nat
  mask   : Mask
  deriving DecidableEq, Repr

/-- A stream binding (10 R265, R266; 14 R395). `head` is the record index at the head; `recs` the records from
`first` on; `entry` the skip entry within the head record (07 R168); `lines` the host lines of its sent records that the host has
not answered for (10 R268); `since` when the access that waits was sent (15 R408). -/
structure Stream where
  bound   : Bool
  writing : Bool
  base    : Word
  shape   : Word
  head    : Nat
  first   : Nat
  recs    : List StreamRec
  pops    : List PopWait
  entry   : Nat
  stopped : Bool
  wsem    : BitVec 8
  wthr    : BitVec 8
  mode    : Mode
  lines   : List Nat
  since   : Option Nat
  deriving DecidableEq, Repr

/-- Records of an unbound writing stream still to be sent, with the SUNBIND signal (10 R268), and whether a fault has stopped
them (06 R144). -/
structure DrainJob where
  n     : Nat
  base  : Word
  shape : Word
  first : Nat
  recs  : List StreamRec
  mode  : Mode
  cmd   : EngCmd
  stopped : Bool
  lines : List Nat
  since : Option Nat
  deriving DecidableEq, Repr

/-- An outstanding special-function request (06 R145): whether it has entered its unit, whether its bundle is parked on it
(05 R126), and whether its result has come. -/
structure SfrReq where
  vd    : Nat
  ty    : ElemType
  fn    : BitVec 4
  mask  : Mask
  src   : Vec
  fpm   : Word
  sent  : Bool
  holds : Bool
  back  : Bool
  deriving DecidableEq, Repr

/-- The current task of a thread (11 R288, R292, R294). -/
structure Task where
  frame  : Word
  parent : Word
  sidx   : BitVec 32
  nspawn : BitVec 32
  kind   : Nat
  pubmask : BitVec 16
  tiles  : BitVec 32
  pin    : Bool
  launch : Nat
  deriving DecidableEq, Repr

/-- A continuation record (11 R288). -/
structure Cont where
  task   : Task
  pc     : Word
  sp     : Word
  fp     : Word
  fpm    : Word
  wto    : Word
  saved  : List Word
  ranges : List (Nat × RangeSlot)
  args   : List Word
  pushT  : BitVec 48
  sync   : Option (BitVec 6)
  core   : Nat
  thr    : Nat
  spawn  : Nat
  fresh  : Bool
  child  : Bool
  rel    : BitVec 16
  deriving DecidableEq, Repr

/-- A deque entry (11 R290): the continuation, whether it stands in its frame, the thief that has claimed it, in which cycle, and
whether the launch's log holds the take. -/
structure DqEntry where
  cont    : Cont
  spilled : Bool
  claimed : Option (Nat × Nat)
  claimT  : Nat
  logged  : Bool
  order   : Nat × Nat × Nat × Nat
  deriving DecidableEq, Repr

/-- A pending firmware request of a thread (14 R381, 15 R412). -/
structure FwReq where
  n    : BitVec 12
  args : List Word
  ans0 : Word
  deriving DecidableEq, Repr

/-- A message (09 R242). -/
structure Msg where
  words : List Word
  core  : Nat
  thr   : Nat
  seq   : BitVec 16
  ctx   : Nat
  deriving DecidableEq, Repr

/-- One thread context (02 R46, R50; 11 R282; 14 R375, R384, R395). -/
structure Thread where
  st      : TState
  pc      : Word
  s       : Vector Word 64
  ssup    : Vector Word 4
  sfw     : Vector Word 4
  v       : Vector Vec 32
  q       : Vector Mask 8
  streams : Vector Stream 8
  ranges  : Vector RangeSlot 16
  latch   : Option Latch
  acc     : List AccEntry
  aseq    : BitVec 16
  acount  : Nat
  pend    : List RegName
  sfr     : List SfrReq
  drains  : List DrainJob
  epoch   : Nat
  fence   : Option Fence
  hosts   : List (Nat × Nat)
  fpm     : Word
  fpf     : Word
  rngk    : Word
  srseq   : Word
  xh      : Word
  xv      : Word
  wto     : Word
  grp     : Word
  twin    : Word
  dbgc    : Word
  mode    : Mode
  pmode   : Mode
  intrap  : Bool
  kcause  : Word
  kepc    : Word
  kval    : Word
  rba     : Word
  task    : Task
  oseq    : BitVec 32
  qseq    : BitVec 32
  retired : Nat
  phases  : List Nat
  spawns  : Nat
  rseq    : Nat
  stopS   : Bool
  stopF   : Bool
  stopD   : Bool
  stopped : Bool
  stepOne : Bool
  held    : Option Nat
  classA  : List (Nat × Word)
  stepped : Option (Nat × Word)
  qlim    : Nat
  ivl     : Nat
  vc      : AMap Nat
  park    : Wait
  parkT   : Nat
  since   : Nat
  grant   : Option (List Word)
  grantB  : Bool
  call    : List Word
  msgs    : Nat
  fwreq   : Option FwReq
  frameBad : Option Word
  ibuf    : List (Word × Word)
  steal   : Option DqEntry
  isSup   : Bool
  entered : Bool
  deriving DecidableEq, Repr

/-- A copy-queue entry (10 R250 to R252; 14 R394): `rows` are the tile rows it has read, each whole, with the row of the scale
tile (07 R164), and `since` is when its next access was sent, while the answer is outstanding (15 R408). -/
structure CopyCmd where
  id     : Nat
  instr  : Instr
  va     : Word
  vb     : Word
  vc     : Word
  tsh    : Word
  thr    : Nat
  next   : Nat
  state  : Nat
  batch  : Nat
  closed : Bool
  fault  : Nat
  epoch  : Nat
  spawn  : Nat
  mode   : Mode
  dst    : List Word
  src    : List Word
  slots  : List Nat
  mseq   : Nat
  key    : Option Nat
  ord    : Nat
  lines  : List Nat
  req    : Nat
  asOrd  : Bool
  redo   : List Nat
  rows   : AMap (Nat × Nat)
  since  : Option Nat
  stamp  : Stamp
  deriving DecidableEq, Repr

/-- A batch closed by CBATCH and not yet complete (10 R263). -/
structure Batch where
  n   : BitVec 16
  cmd : EngCmd
  deriving DecidableEq, Repr

/-- A matrix-queue entry (07 R161; 14 R394). -/
structure MatOp where
  instr   : Instr
  tshd    : Word
  tsha    : Word
  tshb    : Word
  twin    : Word
  thr     : Nat
  seq     : BitVec 16
  groups  : Nat
  entry   : Nat
  dense   : Nat
  ga      : Nat
  gb      : Nat
  waitMet : Bool
  started : Bool
  gang    : List Nat
  leader  : Nat
  jseq    : BitVec 16
  epoch   : Nat
  ord     : Nat
  stamp   : Stamp
  deriving DecidableEq, Repr

/-- A drained operation with rows not yet released (07 R176). -/
structure DrainRows where
  op    : MatOp
  tile    : Nat
  rows    : Nat
  seq     : BitVec 16
  offered : Nat
  waiting : List Nat
  out     : List (Nat × Nat)
  rel     : List Nat
  cmd     : Option EngCmd
  deriving DecidableEq, Repr

/-- An arrival at a gang barrier (07 R171, R172), and whether the barrier has seen it. -/
structure GangArr where
  thr   : Nat
  instr : Instr
  fmtA  : Nat
  elemsA : Nat
  cols  : Nat
  rowsB : Nat
  seen  : Bool
  deriving DecidableEq, Repr

/-- Where an uncorrectable datum stands inside a core (15 R402). -/
inductive Poison where
  | reg (thr : Nat) (r : RegName)
  | tileRow (t r : Nat)
  | scratch (word : Nat)
  deriving DecidableEq, Repr

/-- A stop in progress over a core (14 R385, R387), and the cycle in which it began. -/
structure Stop where
  scope : Word
  byCore : Option Nat
  sup   : Bool
  began : Nat
  complete : Bool
  deriving DecidableEq, Repr

/-- One core (01 R19, R24; 02 R50); `spillBad` is the frame at which a spill of its deque has met a fault (11 R288); `cfaultT` and
`mfaultT` are the cycle after the one in which the engines have last set CFAULT and MFAULT (02 R58); `runGroup` says that a stop has
found a K-group running, which the matrix engine ends first (20 R456). -/
structure Core where
  threads : Vector Thread 8
  owner   : Nat
  tsh     : Vector Word 32
  tiles   : Memory
  sems    : Vector (BitVec 16) 256
  fe      : List Nat
  inbox   : List Msg
  refuse  : List (Nat × Nat)
  overflow : List Msg
  deque   : List DqEntry
  spillBad : Option Word
  pool    : List (Nat × Nat)
  kvec    : Word
  cfault  : Bool
  cfaultT : Nat
  mfault  : Bool
  mfaultT : Nat
  runGroup : Bool
  cnext   : BitVec 16
  cdone   : BitVec 16
  copies  : List CopyCmd
  copyId  : Nat
  batches : List Batch
  mq      : List MatOp
  mseq    : BitVec 16
  drains  : List DrainRows
  drnList : List Nat
  missing : Bool
  gang    : List GangArr
  reports : List (Nat × Word)
  repWait : List (Nat × Word)
  felist  : List (Nat × Nat × Nat)
  semWait : List (Nat × Nat)
  boxWait : List Nat
  signals : List (Nat × Nat)
  poison  : List Poison
  cyc0    : Nat
  cidPanel : BitVec 8
  stops   : List Stop
  deriving DecidableEq, Repr

/-- MOESI states (08 R201). -/
inductive Moesi where
  | m | o | e | s | i
  deriving DecidableEq, Repr

/-- A cached line (08 R192): context, VA [55:7] and state. -/
structure Line where
  ctx  : Nat
  line : Nat
  st   : Moesi
  deriving DecidableEq, Repr

/-- A line of a remote-line cache (08 R198): its alias, its physical line with the space of its backing, and its state. -/
structure RemoteLine where
  ctx  : Nat
  line : Nat
  phys : Nat
  st   : Moesi
  deriving DecidableEq, Repr

/-- One cluster (01 R23; 08 R192; 06 R147, R148; 11 R319); `searchq` the searches that have arrived at its steal engine (12 R331). -/
structure Cluster where
  l1    : List Line
  watch : List (Nat × Nat)
  sfuUp : Bool × Bool
  sfuq  : List (Nat × Nat) × List (Nat × Nat)
  searchq : List (Nat × Nat)
  deriving DecidableEq, Repr

/-- An error-log entry (15 R414). -/
structure LogEntry where
  w0 : Word
  w1 : Word
  w2 : Word
  w3 : Word
  deriving DecidableEq, Repr

/-- Error counters and log of a die (15 R414); `order` lists the places of the log, the oldest first. -/
structure ErrLog where
  corr    : List Nat
  uncorr  : List Nat
  order   : List Nat
  count   : Nat
  entries : AMap LogEntry
  deriving DecidableEq, Repr

/-- A compute die by logical index (01 R15; 12 R331; 15). `fwq` holds the threads whose firmware requests it has not answered,
oldest first (14 R381); `tOff` is by how much its TIME is off the panel's while it has lost time sync, and `tHold` the TIME it holds
until true time reaches it (15 R427); `grabq` those whose grab waits at its ticket unit, in arrival order, and `grabT` the cycle after the last grab
(12 R331); `on` says that the die is powered (01 R18); `fwVer` is the security version of the firmware it runs, or none for the one it was
made with (13 R369). -/
structure CDie where
  ready   : List Cont
  reports : List (Nat × Word)
  log     : ErrLog
  sync    : Bool
  errEst  : Nat
  lastSync : Nat
  therm   : Nat
  throttle : Nat
  throttled : Bool
  mr      : BitVec 512
  fwVer   : Option Nat
  up      : Bool
  on      : Bool
  tOff    : Word
  tHold   : Nat
  fwq     : List (Nat × Nat)
  grabq   : List (Nat × Nat)
  grabT   : Nat
  deriving DecidableEq, Repr

/-- A directory entry (08 R196, 15 R414), in one of the two ways of its slice, at its place there. -/
structure DirEntry where
  ctx    : Nat
  line   : Nat
  way    : Nat
  place  : Nat
  st     : Moesi
  owner  : Option Nat
  shr    : List Nat
  vec    : List Nat
  host   : Bool
  deriving DecidableEq, Repr

/-- A cached translation (13 R362, R363; 15 R414): its place in the cache, context, page base VA, page size as a power of two, leaf. -/
structure Tlb where
  place : Nat
  ctx  : Nat
  page : Nat
  bits : Nat
  leaf : Word
  deriving DecidableEq, Repr

/-- A remap-filter entry (13 R364; 15 R414): its place in the filter, backing, physical line and first alias. -/
structure Remap where
  place : Nat
  back  : Nat
  pline : Nat
  ctx   : Nat
  line  : Nat
  deriving DecidableEq, Repr

/-- One memory die (01 R13, R24; 08 R194 to R200; 13 R363, R364; 15); `map` is its router's copy of the site map, as the entries
that differ from the default map (01 R16); `raw` are the words of the entries of its tables that are not VALID, as firmware has
written them (15 R411, R414). -/
structure MDie where
  raw     : AMap Word
  dir     : List DirEntry
  tlb     : List Tlb
  remap   : List Remap
  rlc     : List RemoteLine
  hostWait : List (Nat × Nat)
  log     : ErrLog
  sync    : Bool
  errEst  : Nat
  lastSync : Nat
  tOff    : Word
  tHold   : Nat
  therm   : Nat
  up      : Bool
  reports : List (Nat × Word)
  map     : AMap Nat
  deriving DecidableEq, Repr

/-- A window grant (13 R357). -/
structure Window where
  rect  : BitVec 32
  panel : Nat
  rd    : Bool
  wr    : Bool
  tctx  : Nat
  deriving DecidableEq, Repr

/-- A weight-store extent (13 R367): die, offset and length in MiB. -/
structure Extent where
  die : Nat
  off : Nat
  len : Nat
  deriving DecidableEq, Repr

/-- The placement of a task by an affinity spawn, collected in deterministic mode (12 R336). -/
structure DetReq where
  core : Nat
  thr  : Nat
  cont : Cont
  deriving DecidableEq, Repr

/-- How an access counts for the conflict detector (12 R341). -/
inductive SigKind where
  | read | write | consume | produce
  deriving DecidableEq, Repr

/-- A signature of the conflict detector (12 R340): which thread, in which interval, quantum and bundle; the location by
its identity and as the record names it; how; and the intervals of other threads that precede it. -/
structure Sig where
  core  : Nat
  thr   : Nat
  who   : Nat
  ivl   : Nat
  q     : Nat
  bundle : Nat
  key   : Nat
  loc   : Word
  kind  : SigKind
  seen  : AMap Nat
  deriving DecidableEq, Repr

/-- A live context (13 R351) with its run-time state (12 R335), the cores it has saved, as they stood, the launch each was saved for,
and the ready queues of the dies it has saved whole (14 R397; log 3); `dying` while a teardown of it is under way (12 R330); `image` is its table entry. -/
structure Ctx where
  id    : Nat
  rel7  : Bool
  pmax  : Nat
  lx0   : Nat
  ly0   : Nat
  lx1   : Nat
  ly1   : Nat
  root  : Word
  hset  : List Nat
  wins  : List Window
  ending : List Window
  wext  : List Extent
  panels : List Nat
  qnt   : Word
  stealAge : Word
  svimg : Word
  gsb   : Word
  det   : Bool
  quantum : Nat
  reqs  : List DetReq
  sigs  : List Sig
  clocks : AMap (AMap Nat)
  caught : List (Nat × Nat)
  advanced : Word
  stopping : Bool
  kept : AMap Core
  keptFor : AMap Nat
  keptReady : AMap (List Cont)
  dying : Bool
  image : List Word
  deriving DecidableEq, Repr

/-- A ticket loop of a launch (11 R306, R307): the descriptor, its fields and each die's share. -/
structure Loop where
  addr  : Word
  first : Nat
  count : Nat
  body  : Word
  chunk : Nat
  shares : List (Nat × Nat × Nat)
  deriving DecidableEq, Repr

/-- A group of a launch (11 R311, R312): number, members, arrivals at the current phase and completed phases. -/
structure Group where
  n       : Nat
  members : List (Nat × Nat)
  arrived : List (Nat × Nat)
  phase   : Nat
  deriving DecidableEq, Repr

/-- A launch taken by the dispatcher (11 R284, 12 R324), with the contexts pre-empted for it (12 R329), the cores that have
passed to its context for it (13 R353), and what threads of its own whose contexts a later launch has taken left under way: kind,
core and number (04 R105). -/
structure Launch where
  id    : Nat
  queue : Nat
  index : BitVec 32
  ctx   : Nat
  prio  : Nat
  rmode : Nat
  quota : Nat
  roots : Nat
  rect  : BitVec 32
  entry : Word
  seeds : List Word
  loops : List Loop
  dqs   : List Word
  pb    : Word
  nf    : Nat
  stkl  : Nat
  sb    : Word
  rngk  : Word
  comp  : Word
  compv : Word
  rlog  : Word
  crec  : Word
  groups : List Group
  rootsLeft : Nat
  tasks : Nat
  seeded : Bool
  ended : Bool
  preempted : List Nat
  reserved : List (Word × Nat × Nat)
  susps : List Cont
  passed : List Nat
  left   : List (Nat × Nat × Nat)
  deriving DecidableEq, Repr

/-- A command queue (12 R322, R323): its entry, its indices, the commands taken and not completed, those a teardown has
discarded, and when its head became visible. -/
structure Queue where
  base  : Word
  log2cap : Nat
  en    : Bool
  err   : Bool
  rerr  : Bool
  ctx   : Nat
  pmax  : Nat
  cidxA : Word
  pidx  : BitVec 32
  cidx  : BitVec 32
  open_ : List (BitVec 32)
  skip  : List (BitVec 32)
  since : Nat
  deriving DecidableEq, Repr

/-- A host firmware mailbox (15 R416). -/
structure Mailbox where
  svc  : Word
  args : List Word
  ans  : List Word
  busy : Bool
  deriving DecidableEq, Repr

/-- An ordered packet under way (10 R274, R278): key, sender and target. `what` names the held item: 0 an access entry,
1 the latch, 2 an element of a copy command, which the packet carries in `data` (10 R261, R262). -/
structure OrdPkt where
  key  : Nat
  t    : Nat
  det  : Bool
  ctx  : Nat
  core : Nat
  thr  : Nat
  what : Nat
  ref  : Nat
  elem : Nat
  data : Nat
  target : OrdTarget
  deriving DecidableEq, Repr

/-- A link's watermark (10 R276 to R279). -/
structure LinkSt where
  l     : Link
  w     : BitVec 48
  last  : Nat
  stalled : Bool
  up    : Bool
  merge : Bool
  deriving DecidableEq, Repr

/-- An SPDM response, by its name (13 R371). -/
inductive SpdmRsp where
  | version | capabilities | algorithms | digests | certificate | challengeAuth | measurements
  | unsupportedRequest | negotiationFailed | invalidRequest
  deriving DecidableEq, Repr

/-- An image of a boot stage: its bytes, its signature and its security version (13 R369). -/
structure Image where
  bytes   : List Byte
  sig     : List Byte
  version : Nat
  deriving DecidableEq, Repr

/-- A message the panel sends outside: CXL responses (08 R203, R204), SPDM and PLDM responses (13 R371, 15 R428). -/
inductive OutMsg where
  | cxlRsp (pa : Nat) (code : Nat) (data : List Byte)
  | cxlReq (pa : Nat) (code : Nat)
  | spdm (port : Nat) (rsp : SpdmRsp) (data : List Byte)
  | pldm (code : Nat) (value : Nat)
  deriving DecidableEq, Repr

/-- How the last instruction or event ended (log 3). -/
inductive Verdict where
  | idle | retired | parkedPending | parked | joined | trapped | waiting | done
  deriving DecidableEq, Repr

/-- The bundle being issued: its thread, the thread as it stood before the bundle (02 R36), the core as it stood then while
slot A runs after slot B, and the flags its slot B form has raised (02 R37; log 3). -/
structure Cur where
  core   : Nat
  thr    : Nat
  bundle : Word
  pre    : Option Thread
  preCore : Option Core
  flags  : BitVec 5
  verdict : Verdict
  deriving DecidableEq, Repr

/-- A store to context memory that some clusters do not see yet (08 R209, 09 R226): where it wrote, what stood there, the
clusters, and the entry it belongs to. -/
structure Late where
  place    : Nat
  size     : Nat
  old      : Nat
  clusters : List Nat
  core     : Nat
  thr      : Nat
  seq      : Nat
  deriving DecidableEq, Repr

/-- The panel. -/
structure State where
  cores   : AMap Core
  clusters : AMap Cluster
  cdies   : AMap CDie
  mdies   : AMap MDie
  ctxs    : AMap Ctx
  queues  : AMap Queue
  launches : AMap Launch
  nextLaunch : Nat
  mem     : Memory
  poison  : List Nat
  poisonWeight : List Nat
  timeBase : Nat
  timeFloor : Nat
  wref    : Word
  capb    : Word
  smap    : Word
  rto     : Word
  wmlag   : Word
  panel   : BitVec 8
  sites   : AMap Nat
  sitesOut : List Nat
  mailbox : Vector Mailbox 4
  boxq    : List Nat
  winReqs : List (Nat × Nat × Window)
  rails   : Vector Bool 5
  bring   : Nat
  ports   : Vector Bool 4
  derene  : Vector Bool 18
  ordered : List OrdPkt
  links   : List LinkSt
  mr68    : BitVec 512
  tsrc    : Nat
  spdm    : Vector (List Byte) 5
  images  : AMap Image
  out     : List OutMsg
  quarantined : Nat
  calib   : AMap (Nat × Nat)
  retries : AMap Nat
  refresh : Nat
  refreshOpen : Bool
  rlcMiB  : Nat
  rotation : Vector Nat 4
  replacing : Option (Nat × Nat)
  free    : Nat
  agenda  : List Event
  input   : Input
  budget  : Nat
  picks   : List Nat
  piecewise : Bool
  buffering : Bool
  lag     : List Nat
  late    : List Late
  banks   : List (Nat × Nat)
  bankq   : List Event
  clock   : Nat
  turn    : Nat
  cur     : Cur
  deriving DecidableEq, Repr

/-- Why the machine stops. -/
inductive Fault where
  /-- Raised by no instruction or event of this model: a step of a panel whose every rail is down leaves the state
  unchanged, and every cause of 14 R378 is taken as a trap or a report. Kept so that the outcome type is inhabited. Safe. -/
  | unreachable
  deriving DecidableEq, Repr

/-- Why an instruction has no meaning here. -/
inductive Refusal where
  /-- An instruction not modelled yet. Safe. -/
  | notModelled (mnemonic : String)
  deriving DecidableEq, Repr

/-- An unbound stream (02 R49). -/
def Stream.unbound : Stream :=
  { bound := false, writing := false, base := 0, shape := 0, head := 0, first := 0, recs := [], pops := [],
    entry := 0, stopped := false, wsem := 0, wthr := 0, mode := .user, lines := [], since := none }

/-- An empty range slot (02 R49). -/
def RangeSlot.empty : RangeSlot := { used := false, desc := none, base := 0, limit := 0, cover := [] }

/-- No task (log 1). -/
def Task.none : Task :=
  { frame := 0, parent := 0, sidx := 0, nspawn := 0, kind := 1, pubmask := 0, tiles := 0, pin := false, launch := 0 }

/-- A thread context at core reset: free, every register zero, q0 all ones (11 R282, 02 R48, R49; log 1). -/
def Thread.reset : Thread :=
  { st := .free, pc := 0, s := Vector.replicate 64 0, ssup := Vector.replicate 4 0, sfw := Vector.replicate 4 0,
    v := Vector.replicate 32 0, q := (Vector.replicate 8 0).set 0 (BitVec.allOnes 128),
    streams := Vector.replicate 8 Stream.unbound, ranges := Vector.replicate 16 RangeSlot.empty,
    latch := none, acc := [], aseq := 0, acount := 0, pend := [], sfr := [], drains := [], epoch := 0, fence := none, hosts := [],
    fpm := 0, fpf := 0, rngk := 0, srseq := 0, xh := 0, xv := 0, wto := 0, grp := 0, twin := 0, dbgc := 0,
    mode := .user, pmode := .user, intrap := false, kcause := 0, kepc := 0, kval := 0, rba := 0,
    task := Task.none, oseq := 0, qseq := 0, retired := 0, phases := [], spawns := 0, rseq := 0,
    stopS := false, stopF := false, stopD := false, stopped := false, stepOne := false, held := none,
    classA := [], stepped := none, qlim := 0, ivl := 1, vc := [], park := .none, parkT := 0, since := 0, grant := none, grantB := false, call := [], msgs := 0,
    fwreq := none, frameBad := none, ibuf := [], steal := none, isSup := false, entered := false }

/-- A core at reset (02 R49, R58: CDONE 0xFFFF). -/
def Core.reset : Core :=
  { threads := Vector.replicate 8 Thread.reset, owner := 0, tsh := Vector.replicate 32 0, tiles := [],
    sems := Vector.replicate 256 0, fe := [], inbox := [], refuse := [], overflow := [], deque := [],
    spillBad := none, pool := [], kvec := 0, cfault := false, cfaultT := 0, mfault := false, mfaultT := 0, runGroup := false, cnext := 0, cdone := 0xFFFF, copies := [],
    copyId := 0, batches := [], mq := [], mseq := 0, drains := [], drnList := [], missing := false, gang := [],
    reports := [], repWait := [], felist := [], semWait := [], boxWait := [], signals := [], poison := [],
    cyc0 := 0, cidPanel := 0, stops := [] }

/-- A cluster at reset: empty L1, both special-function units in service. -/
def Cluster.reset : Cluster := { l1 := [], watch := [], sfuUp := (true, true), sfuq := ([], []), searchq := [] }

/-- Empty error counters and log. -/
def ErrLog.reset : ErrLog :=
  { corr := List.replicate 8 0, uncorr := List.replicate 8 0, order := List.range 256, count := 0, entries := [] }

/-- A compute die at reset: nothing measured (13 R369), throttle point at its highest permitted value (15 R423; log 1). -/
def CDie.reset : CDie :=
  { ready := [], reports := [], log := ErrLog.reset, sync := true, errEst := 0, lastSync := 0, tOff := 0, tHold := 0, therm := 0,
    throttle := 95, throttled := false, mr := 0, fwVer := none, up := true, on := false, fwq := [],
    grabq := [], grabT := 0 }

/-- A memory die at reset: empty directory, translation cache and remap filter (15 R421 step 4), and the default site map (01 R16). -/
def MDie.reset : MDie :=
  { raw := [], dir := [], tlb := [], remap := [], rlc := [], hostWait := [], log := ErrLog.reset, sync := true, errEst := 0,
    lastSync := 0, tOff := 0, tHold := 0, therm := 0, up := true, reports := [], map := [] }

/-- A queue-table entry before any QUEUE_SET (12 R323: EN = 0, PIDX 0). -/
def Queue.reset : Queue :=
  { base := 0, log2cap := 4, en := false, err := false, rerr := false, ctx := 0, pmax := 0, cidxA := 0, pidx := 0,
    cidx := 0, open_ := [], skip := [], since := 0 }

/-- A mailbox at reset (15 R416). -/
def Mailbox.reset : Mailbox := { svc := 0, args := List.replicate 8 0, ans := [0, 0], busy := false }

/-- Nothing is being issued. -/
def Cur.idle : Cur := { core := 0, thr := 0, bundle := 0, pre := none, preCore := none, flags := 0, verdict := .idle }

/-- The panel after panel reset, before its rails come up and bring-up runs (15 R421, R422). Registers with a reset
value have it (02 R51 to R62, 10 R279, 15 R408); the others are zero (log 1); memory lists nothing (log 2). -/
def State.reset : State :=
  { cores := [], clusters := [], cdies := [], mdies := [], ctxs := [], queues := [], launches := [], nextLaunch := 1,
    mem := [], poison := [], poisonWeight := [], timeBase := 0, timeFloor := 0, wref := 0, capb := 0, smap := 0, rto := 4000000,
    wmlag := 80000, panel := 0, sites := [], sitesOut := [], mailbox := Vector.replicate 4 Mailbox.reset, boxq := [], winReqs := [],
    rails := Vector.replicate 5 false, bring := 0, ports := Vector.replicate 4 false,
    derene := Vector.replicate 18 false, ordered := [], links := [], mr68 := 0, tsrc := 0,
    spdm := Vector.replicate 5 [], images := [], out := [], quarantined := 0, calib := [], retries := [], refresh := 0, refreshOpen := false,
    rlcMiB := 128, rotation := Vector.replicate 4 127, replacing := none, free := 0, agenda := [], input := Input.none, budget := 0, picks := [], piecewise := false, buffering := false, lag := [], late := [],
    banks := [], bankq := [], clock := 0,
    turn := 0, cur := Cur.idle }

end Sys2Proof.Machine
end

