-- ==== Sys2Proof/Machine/Ops.lean ====
section
/-! DEFINITION. The named operations over the state: cores, threads and registers; parking, retiring and trapping a
bundle; reports; waiting events. Taking a trap and returning from one stand here. -/

namespace Sys2Proof.Machine

/-- A field of a word (the manual's x[hi:lo] with lo and a length). -/
def bits (x : Word) (lo len : Nat) : Nat := x.toNat / 2 ^ lo % 2 ^ len

/-- A bit of a word. -/
def bit (x : Word) (n : Nat) : Bool := x.getLsbD n

/-- A field of a word replaced. -/
def setBits (x : Word) (lo len v : Nat) : Word :=
  BitVec.ofNat 64 (x.toNat % 2 ^ lo + v % 2 ^ len * 2 ^ lo + x.toNat / 2 ^ (lo + len) * 2 ^ (lo + len))

/-- Where the LPDDR6 space stands in the one byte memory (15 R425); log 4. -/
def physLpddr (a : Nat) : Nat := a

/-- Where the CXL memory space stands (15 R425). -/
def physCxl (a : Nat) : Nat := 2 ^ 64 + a

/-- Where host physical memory stands (13 R361). -/
def physHost (a : Nat) : Nat := 2 * 2 ^ 64 + a

/-- Where the home memory of a memory die stands (13 R361). -/
def physHome (die off : Nat) : Nat := 3 * 2 ^ 64 + die * 2 ^ 32 + off

/-- Where the weight store of a memory die stands (08 R199). -/
def physWeight (die off : Nat) : Nat := 4 * 2 ^ 64 + die * 2 ^ 32 + off

/-- The number of this panel in the address of a scratchpad: 0xFF names the own panel (08 R185, R210). -/
def ownKey : Nat := 0xFF

/-- Where the scratchpad of a core stands (08 R186). -/
def physScratch (panel k off : Nat) : Nat := 5 * 2 ^ 64 + panel * 2 ^ 40 + k * 2 ^ 20 + off

/-- The LPDDR6 channel of an address (15 R425). -/
def channelOf (a : Nat) : Nat := Nat.xor (a / 2 ^ 12 % 64) (a / 2 ^ 18 % 64)

/-- Core x of a core index (01 R20). -/
def coreX (k : Nat) : Nat := k % 128

/-- Core y of a core index (01 R20). -/
def coreY (k : Nat) : Nat := k / 128

/-- The logical die of a core (01 R15, R20). -/
def dieOfCore (k : Nat) : Nat := coreY k / 8 * 8 + coreX k / 16

/-- Cluster within the die (01 R20). -/
def clusterInDie (k : Nat) : Nat := 4 * (coreY k % 8 / 4) + coreX k % 16 / 4

/-- Core within the cluster (01 R20). -/
def coreInCluster (k : Nat) : Nat := 4 * (coreY k % 8 % 4) + coreX k % 16 % 4

/-- The cluster of a core, numbered as the directory numbers it: logical die × 8 + cluster (08 R196). -/
def clusterOfCore (k : Nat) : Nat := dieOfCore k * 8 + clusterInDie k

/-- The ranger core of a die, at die-local position (15, 7) (01 R21). -/
def isRanger (k : Nat) : Bool := coreX k % 16 == 15 && coreY k % 8 == 7

/-- A core by its state; one never touched is at reset. -/
def State.core (s : State) (k : Nat) : Core := AMap.getD Core.reset s.cores k

/-- A core written. -/
def State.setCore (s : State) (k : Nat) (c : Core) : State := { s with cores := AMap.set s.cores k c }

/-- A core changed. -/
def State.modCore (s : State) (k : Nat) (f : Core → Core) : State := s.setCore k (f (s.core k))

/-- Thread context t of a core; the number is taken modulo 8. -/
def Core.thread (c : Core) (t : Nat) : Thread := c.threads[t % 8]'(Nat.mod_lt _ (by decide))

/-- A thread context written. -/
def Core.setThread (c : Core) (t : Nat) (th : Thread) : Core :=
  { c with threads := c.threads.set (t % 8) th (Nat.mod_lt _ (by decide)) }

/-- A thread context of the panel. -/
def State.thread (s : State) (k t : Nat) : Thread := (s.core k).thread t

/-- A thread context written. -/
def State.setThread (s : State) (k t : Nat) (th : Thread) : State := s.modCore k (fun c => c.setThread t th)

/-- A thread context changed. -/
def State.modThread (s : State) (k t : Nat) (f : Thread → Thread) : State := s.setThread k t (f (s.thread k t))

/-- A cluster by its number. -/
def State.cluster (s : State) (k : Nat) : Cluster := AMap.getD Cluster.reset s.clusters k

/-- A cluster changed. -/
def State.modCluster (s : State) (k : Nat) (f : Cluster → Cluster) : State :=
  { s with clusters := AMap.set s.clusters k (f (s.cluster k)) }

/-- A compute die by its logical index. -/
def State.cdie (s : State) (k : Nat) : CDie := AMap.getD CDie.reset s.cdies k

/-- A compute die changed. -/
def State.modCDie (s : State) (k : Nat) (f : CDie → CDie) : State := { s with cdies := AMap.set s.cdies k (f (s.cdie k)) }

/-- A memory die by its index. -/
def State.mdie (s : State) (k : Nat) : MDie := AMap.getD MDie.reset s.mdies k

/-- A memory die changed. -/
def State.modMDie (s : State) (k : Nat) (f : MDie → MDie) : State := { s with mdies := AMap.set s.mdies k (f (s.mdie k)) }

/-- A live context. -/
def State.ctx? (s : State) (id : Nat) : Option Ctx := AMap.get? s.ctxs id

/-- A context changed; nothing happens to one that is not live. -/
def State.modCtx (s : State) (id : Nat) (f : Ctx → Ctx) : State :=
  match s.ctx? id with
  | some c => { s with ctxs := AMap.set s.ctxs id (f c) }
  | none => s

/-- The context that owns a core (13 R352). -/
def State.ctxOfCore (s : State) (k : Nat) : Option Ctx := s.ctx? (s.core k).owner

/-- A core in a context in deterministic mode (12 R335). -/
def State.detAt (s : State) (k : Nat) : Bool :=
  match s.ctxOfCore k with
  | some c => c.det
  | none => false

/-- A context in deterministic mode has quanta: some launch of it runs, or its quantum's end is not over (12 R335). -/
def State.inQuanta (s : State) (c : Ctx) : Bool :=
  c.stopping || s.launches.any (fun l => l.2.ctx == c.id && l.2.seeded)

/-- A stop of a core takes effect: at once, or in deterministic mode at the quantum's end (14 R388). -/
def State.stopNow (s : State) (k : Nat) : Bool :=
  match s.ctxOfCore k with
  | some c => !c.det || c.stopping || !(s.inQuanta c)
  | none => true

/-- A stop that has taken effect stands on a core (14 R387, R388). -/
def State.stopStands (s : State) (k : Nat) : Bool := !(s.core k).stops.isEmpty && s.stopNow k

/-- The quantum of a core's context (12 R335). -/
def State.quantumAt (s : State) (k : Nat) : Nat :=
  match s.ctxOfCore k with
  | some c => c.quantum
  | none => 0

/-- A launch under way. -/
def State.launch? (s : State) (id : Nat) : Option Launch := AMap.get? s.launches id

/-- A launch changed. -/
def State.modLaunch (s : State) (id : Nat) (f : Launch → Launch) : State :=
  match s.launch? id with
  | some l => { s with launches := AMap.set s.launches id (f l) }
  | none => s

/-- A queue-table entry. -/
def State.queue (s : State) (q : Nat) : Queue := AMap.getD Queue.reset s.queues q

/-- A queue-table entry changed. -/
def State.modQueue (s : State) (q : Nat) (f : Queue → Queue) : State :=
  { s with queues := AMap.set s.queues q (f (s.queue q)) }

/-- An event put last among the waiting events (log 3). -/
def State.post (s : State) (i : Instr) : State := { s with agenda := s.agenda ++ [{ what := i, input := Input.none }] }

/-- An event put last among the waiting events with its operands. -/
def State.postIn (s : State) (i : Instr) (x : Input) : State := { s with agenda := s.agenda ++ [{ what := i, input := x }] }

/-- Events put last among the waiting events. -/
def State.postAll (s : State) (l : List Instr) : State := l.foldl State.post s

/-- An event put among the waiting events unless it waits there already. -/
def State.postOnce (s : State) (i : Instr) : State := if s.agenda.any (fun e => decide (e.what = i)) then s else s.post i

/-- Global time in 250 ps ticks: two ticks a core cycle at 2.0 GHz (01 R27, R28, 02 R51; log 3). It never decreases: a time
ahead of true time is held until true time reaches it (15 R427). -/
def State.time (s : State) : Word := BitVec.ofNat 64 (max s.timeFloor ((s.timeBase + 2 * s.clock) % 2 ^ 64))

/-- TIME as a die keeps it: the panel's, off by what a die without time sync has drifted, and held until true time has reached what it
has shown (15 R427). -/
def State.timeAt (s : State) (d : DieRef) : Word :=
  let view := fun (off : Word) (hold : Nat) => let t := s.time + off; if t.toNat < hold then BitVec.ofNat 64 hold else t
  match d with
  | .compute i => view (s.cdie i).tOff (s.cdie i).tHold
  | .memory m => view (s.mdie m).tOff (s.mdie m).tHold

/-- A grant cannot end a thread's wait now: its bundle's other slot would park (02 R36). -/
def State.isBlocked (s : State) (k t : Nat) : Bool := s.input.blocked.contains (k, t % 8)

/-- Cycles of a core since its reset (02 R51). -/
def State.cyc (s : State) (k : Nat) : Word := BitVec.ofNat 64 (s.clock - (s.core k).cyc0)

/-- The order of the modes (02 R73). -/
def Mode.level : Mode → Nat
  | .user => 0 | .supervisor => 1 | .firmware => 2

/-- The mode of a level. -/
def Mode.ofLevel (n : Nat) : Mode := if n = 0 then .user else if n = 1 then .supervisor else .firmware

/-- A scalar register in the bank of the thread's mode; s0 reads zero (02 R47, 14 R375). -/
def Thread.readS (th : Thread) (n : BitVec 6) : Word :=
  if n = 0 then 0 else
  if n.toNat < 60 then th.s[n.toNat]'n.isLt else
  match th.mode with
  | .user => th.s[n.toNat]'n.isLt
  | .supervisor => th.ssup[n.toNat % 4]'(Nat.mod_lt _ (by decide))
  | .firmware => th.sfw[n.toNat % 4]'(Nat.mod_lt _ (by decide))

/-- A scalar register written in the bank of the thread's mode; a write of s0 is ignored (02 R47, 14 R375). -/
def Thread.writeS (th : Thread) (n : BitVec 6) (x : Word) : Thread :=
  if n = 0 then th else
  if n.toNat < 60 then { th with s := th.s.set n.toNat x n.isLt } else
  match th.mode with
  | .user => { th with s := th.s.set n.toNat x n.isLt }
  | .supervisor => { th with ssup := th.ssup.set (n.toNat % 4) x (Nat.mod_lt _ (by decide)) }
  | .firmware => { th with sfw := th.sfw.set (n.toNat % 4) x (Nat.mod_lt _ (by decide)) }

/-- A vector register (02 R46). -/
def Thread.readV (th : Thread) (n : BitVec 5) : Vec := th.v[n.toNat]'n.isLt

/-- A vector register written. -/
def Thread.writeV (th : Thread) (n : BitVec 5) (x : Vec) : Thread := { th with v := th.v.set n.toNat x n.isLt }

/-- A mask register; q0 reads all ones (02 R48). -/
def Thread.readQ (th : Thread) (n : BitVec 3) : Mask := if n = 0 then BitVec.allOnes 128 else th.q[n.toNat]'n.isLt

/-- A mask register written; a write of q0 is ignored (02 R48). -/
def Thread.writeQ (th : Thread) (n : BitVec 3) (x : Mask) : Thread :=
  if n = 0 then th else { th with q := th.q.set n.toNat x n.isLt }

/-- A stream binding (02 R46). -/
def Thread.stream (th : Thread) (n : BitVec 3) : Stream := th.streams[n.toNat]'n.isLt

/-- A stream binding written. -/
def Thread.setStream (th : Thread) (n : BitVec 3) (x : Stream) : Thread :=
  { th with streams := th.streams.set n.toNat x n.isLt }

/-- A range slot (02 R46). -/
def Thread.range (th : Thread) (n : BitVec 4) : RangeSlot := th.ranges[n.toNat]'n.isLt

/-- A range slot written. -/
def Thread.setRange (th : Thread) (n : BitVec 4) (x : RangeSlot) : Thread :=
  { th with ranges := th.ranges.set n.toNat x n.isLt }

/-- The thread of the bundle being issued, as the bundle has left it so far. -/
def State.th (s : State) : Thread := s.thread s.cur.core s.cur.thr

/-- The thread as it stood before the bundle: every source is read here (02 R36). -/
def State.src (s : State) : Thread := s.cur.pre.getD s.th

/-- The core of the bundle being issued. -/
def State.own (s : State) : Core := s.core s.cur.core

/-- The core as it stood before the bundle: where slot A reads the registers of the core (02 R36). -/
def State.was (s : State) : Core := s.cur.preCore.getD s.own

/-- The issuing thread changed. -/
def State.modTh (s : State) (f : Thread → Thread) : State := s.modThread s.cur.core s.cur.thr f

/-- The issuing core changed. -/
def State.modOwn (s : State) (f : Core → Core) : State := s.modCore s.cur.core f

/-- A scalar source (02 R36, R73). -/
def State.rs (s : State) (n : BitVec 6) : Word := s.src.readS n

/-- A vector source (02 R36, R73). -/
def State.rv (s : State) (n : BitVec 5) : Vec := s.src.readV n

/-- A mask source (02 R36, R73). -/
def State.rq (s : State) (n : BitVec 3) : Mask := s.src.readQ n

/-- A scalar result written at retirement (02 R73). -/
def State.ws (s : State) (n : BitVec 6) (x : Word) : State := s.modTh (fun th => th.writeS n x)

/-- A vector result written at retirement. -/
def State.wv (s : State) (n : BitVec 5) (x : Vec) : State := s.modTh (fun th => th.writeV n x)

/-- A mask result written at retirement. -/
def State.wq (s : State) (n : BitVec 3) (x : Mask) : State := s.modTh (fun th => th.writeQ n x)

/-- The number of an ordered operation requested now: its quantum, and its place among the thread's in it (10 R281). -/
def State.reqNo (s : State) : Nat := s.quantumAt s.cur.core * 2 ^ 32 + s.th.qseq.toNat

/-- The verdict on the instruction or event (log 3). -/
def State.verdict (s : State) (v : Verdict) : State := { s with cur := { s.cur with verdict := v } }

/-- KVAL of FIRMWARE_REQUEST (14 R381): the number of the request, the thread, the core index and the context. -/
def fwRequestVal (n : BitVec 13) (k t ctx : Nat) : Word :=
  BitVec.ofNat 64 (n.toNat % 2 ^ 12 + t % 8 * 2 ^ 12 + k % 2 ^ 14 * 2 ^ 15 + ctx % 2 ^ 12 * 2 ^ 29)

/-- The core index of a core of a die, numbered by rows within the die (15 R410; DEDUCED, log 10). -/
def coreOfDie (d c : Nat) : Nat := (8 * (d / 8) + c / 16) * 128 + (16 * (d % 8) + c % 16)

/-- The ranger core of a die (01 R21). -/
def rangerOf (d : Nat) : Nat := coreOfDie d 127

/-- Firmware threads of a die parked by END are woken by a request (04 R107). -/
def State.wakeFirmware (s : State) (d : Nat) : State :=
  s.modCore (rangerOf d) (fun c => { c with threads := c.threads.map (fun th =>
    if decide (th.mode = Mode.firmware) && decide (th.park = Wait.endParked) then { th with grant := some [] } else th) })

/-- A report to the firmware of a die (14 R373 class F, R377); a FIRMWARE_REQUEST wakes it (04 R107). -/
def State.fwReport (s : State) (die cause : Nat) (kval : Word) : State :=
  let s := s.modCDie die (fun d => { d with reports := d.reports ++ [(cause, kval)] })
  if cause = 61 then s.wakeFirmware die else s

/-- A report to the firmware of a compute die or a memory die. -/
def State.dieReport (s : State) (d : DieRef) (cause : Nat) (kval : Word) : State :=
  match d with
  | .compute i => s.fwReport i cause kval
  | .memory i => s.modMDie i (fun m => { m with reports := m.reports ++ [(cause, kval)] })

/-- Whether the context that owns a core has released thread 7 (13 R351 REL7). -/
def State.released (s : State) (k : Nat) : Bool :=
  match s.ctxOfCore k with
  | some c => c.rel7
  | none => false

/-- A report to the core supervisor: it joins the report queue, or waits at its source while the queue holds 64
(14 R376); with REL7 set the die's firmware receives it as FIRMWARE_REQUEST (14 R377), laid out as R381 gives, with the cause in the
place of n and, where the report is of a held item, its thread; the report itself follows it (DESIGN CHOICE, log 25: R377 does not say
what stands in the place of n, nor how the report's own KVAL reaches firmware). -/
def State.report (s : State) (k cause : Nat) (kval : Word) : State :=
  if s.released k then
    let t := if [9, 10, 11, 12, 14, 15, 47, 51].contains cause then bits kval 0 3 else 0
    (s.fwReport (dieOfCore k) 61 (fwRequestVal (BitVec.ofNat 13 cause) k t (s.core k).owner)).modCDie (dieOfCore k) (fun d =>
      { d with reports := d.reports ++ [(cause, kval)] })
  else
  (s.modCore k (fun c =>
    if c.reports.length < 64 then { c with reports := c.reports ++ [(cause, kval)] }
    else { c with repWait := c.repWait ++ [(cause, kval)] })).postOnce (.reportTaken k)

/-- The trap registers and the mode at a trap entry (14 R374). -/
def Thread.enterTrap (th : Thread) (kvec : Word) (cause slot : Nat) (v e : Word) : Thread :=
  { th with
    pmode := th.mode
    mode := (match th.mode with | .firmware => .firmware | .user | .supervisor => .supervisor)
    intrap := true
    entered := true
    kcause := BitVec.ofNat 64 (slot * 64 + cause)
    kval := v
    kepc := e
    pc := kvec }

/-- KVAL of DOUBLE_TRAP (14 R380). -/
def doubleTrapVal (cause slot k t : Nat) (e : Word) : Word :=
  BitVec.ofNat 64 (cause + slot * 2 ^ 6 + t % 8 * 2 ^ 8 + k * 2 ^ 11 + e.toNat / 8 % 2 ^ 39 * 2 ^ 25)

/-- KVAL of MACHINE_CHECK for a unit of a compute die (15 R406). -/
def machineCheckVal (die unit syndrome : Nat) (compute : Bool) : Word :=
  BitVec.ofNat 64 (die % 256 + (if compute then 2 ^ 8 else 0) + unit % 128 * 2 ^ 9 + syndrome % 2 ^ 48 * 2 ^ 16)

/-- A compute die taken out of service by a machine check of a unit; firmware then replaces it (15 R406, R418). -/
def State.dieFails (s : State) (die unit : Nat) : State :=
  ((s.fwReport die 62 (machineCheckVal die unit 0 true)).modCDie die (fun d => { d with up := false })).postIn .dieReplacement
    { Input.none with unit := die, port := unit }

/-! ### The error log (15 R414) -/

/-- The number of a core within its die (15 R410; log 10). -/
def coreInDie (k : Nat) : Nat := coreY k % 8 * 16 + coreX k % 16

/-- The poisoned units of a core, in it or saved with it (15 R402). -/
def State.poisonAt (s : State) (k : Nat) : List Poison :=
  (s.core k).poison ++ s.ctxs.flatMap (fun c => match AMap.get? c.2.kept k with | some x => x.poison | none => [])

/-- The unit of a log entry is still poisoned (15 R402, R404, R405, R414). -/
def State.stillPoisoned (s : State) (d : DieRef) (e : LogEntry) : Bool :=
  let core := match d with | .compute i => coreOfDie i (bits e.w1 3 7) | .memory _ => 0
  let here := match d with | .compute i => i | .memory i => i
  let file := fun (n : Nat) => match bits e.w1 16 2 with | 0 => [RegName.s n, .s (n + 64), .s (n + 128)] | 1 => [RegName.v n] | _ => [RegName.q n]
  match bits e.w0 13 3 with
  | 0 => (file (bits e.w1 10 6)).any (fun r => (s.poisonAt core).contains (.reg (bits e.w1 0 3) r))
  | 1 => (s.poisonAt core).contains (.tileRow (bits e.w1 10 5) (bits e.w1 15 5))
  | 2 => (s.poisonAt core).contains (.scratch (bits e.w1 10 18 / 8))
  | 3 => s.poison.contains ((match bits e.w1 0 2 with
      | 0 => physHome here e.w2.toNat | 1 => physLpddr e.w2.toNat | 2 => physCxl e.w2.toNat | _ => physHost e.w2.toNat) / 32)
  | 4 => s.poisonWeight.contains (physWeight here e.w2.toNat / 32)
  | _ => false

/-- The log of a die as it reads now: POISON is clear where a write has cleared the poison (15 R414). -/
def State.logNow (s : State) (d : DieRef) (l : ErrLog) : ErrLog :=
  { l with entries := l.entries.map (fun x => if bit x.2.w0 16 && !(s.stillPoisoned d x.2) then
      (x.1, { x.2 with w0 := setBits x.2.w0 16 1 0 }) else x) }

/-- The place of the log that is written next: that of the oldest entry whose POISON is clear, if any (15 R414). -/
def ErrLog.next? (l : ErrLog) : Option Nat :=
  l.order.find? (fun n => match AMap.get? l.entries n with | some x => !(bit x.w0 16) | none => true)

/-- The counters and the log of a die. -/
def State.dieLog (s : State) (d : DieRef) : ErrLog :=
  match d with
  | .compute i => (s.cdie i).log
  | .memory i => (s.mdie i).log

/-- The counters and the log of a die changed. -/
def State.modLog (s : State) (d : DieRef) (f : ErrLog → ErrLog) : State :=
  match d with
  | .compute i => s.modCDie i (fun x => { x with log := f x.log })
  | .memory i => s.modMDie i (fun x => { x with log := f x.log })

/-- A counter of a die gains one: corrected or uncorrectable errors, by kind (15 R414). -/
def State.countError (s : State) (d : DieRef) (corrected : Bool) (kind : Nat) : State :=
  let up := fun (l : List Nat) => l.set kind (l.getD kind 0 + 1)
  s.modLog d (fun l => if corrected then { l with corr := up l.corr } else { l with uncorr := up l.uncorr })

/-- A die taken out of service by a machine check of a unit (15 R406). -/
def State.failDie (s : State) (d : DieRef) (unit : Nat) : State :=
  match d with
  | .compute i => s.dieFails i unit
  | .memory i => ((s.dieReport d 62 (machineCheckVal i unit 0 false)).modMDie i (fun m => { m with up := false })).postIn
      .memoryDieOutOfService { Input.none with unit := i }

/-- A new entry overwrites the oldest one whose POISON is clear; when all 256 hold POISON, a further poisoned unit takes the die
out of service (15 R414). -/
def State.addLog (s : State) (d : DieRef) (e : LogEntry) : State :=
  let l := s.logNow d (s.dieLog d)
  match l.next? with
  | some n => s.modLog d (fun _ => { l with entries := AMap.set l.entries n e, order := l.order.erase n ++ [n], count := l.count + 1 })
  | none => if bit e.w0 16 then s.failDie d 1 else s

/-- Word 0 of a log entry. -/
def logWord0 (cause unit kind : Nat) (poison : Bool) : Word :=
  BitVec.ofNat 64 (cause + unit * 2 ^ 6 + kind * 2 ^ 13 + if poison then 2 ^ 16 else 0)

/-- An uncorrectable unit detected (15 R401, R402, R414): its counter and its log entry, once while it is poisoned. -/
def State.logPoison (s : State) (d : DieRef) (cause unit kind counter : Nat) (w1 w2 : Word) : State :=
  let w0 := logWord0 cause unit kind true
  if (s.logNow d (s.dieLog d)).entries.any (fun x => x.2.w0 == w0 && x.2.w1 == w1 && x.2.w2 == w2) then s else
  (s.countError d false counter).addLog d { w0 := w0, w1 := w1, w2 := w2, w3 := s.timeAt d }

/-- A register as the error log and ECC_REGFILE name it: its number in [5:0], its file in [7:6] (14 R378; 15 R414). -/
def RegName.code : RegName → Word
  | .s n => BitVec.ofNat 64 n
  | .v n => BitVec.ofNat 64 (n + 64)
  | .q n => BitVec.ofNat 64 (n + 128)

/-- A poisoned register of a thread detected. -/
def State.logReg (s : State) (k t : Nat) (v : Word) : State :=
  s.logPoison (.compute (dieOfCore k)) 49 0 0 0 (BitVec.ofNat 64 (t % 8 + coreInDie k * 2 ^ 3 + bits v 0 6 * 2 ^ 10 + bits v 6 2 * 2 ^ 16)) 0

/-- A poisoned tile row detected. -/
def State.logRow (s : State) (k tile row : Nat) : State :=
  s.logPoison (.compute (dieOfCore k)) 50 0 1 1 (BitVec.ofNat 64 (coreInDie k * 2 ^ 3 + tile % 32 * 2 ^ 10 + row % 32 * 2 ^ 15)) 0

/-- A poisoned scratchpad word detected, by its byte offset. -/
def State.logScratch (s : State) (k off : Nat) : State :=
  s.logPoison (.compute (dieOfCore k)) 51 0 2 2 (BitVec.ofNat 64 (coreInDie k * 2 ^ 3 + off / 8 * 8 % 2 ^ 18 * 2 ^ 10)) 0

/-- A trap entry of thread t of core k with its double-trap outcomes (14 R374, R380). -/
def State.trapEntry (s : State) (k t cause slot : Nat) (v e : Word) : State :=
  let th := s.thread k t
  if th.intrap then
    match th.mode with
    | .firmware =>
      s.dieFails (dieOfCore k) 13
    | .user | .supervisor =>
      (s.modThread k t (fun th => { th with
        stopF := true, st := .running, park := .none, grant := none, sfr := th.sfr.filter (fun r => !r.holds) })).fwReport
        (dieOfCore k) 63 (doubleTrapVal cause slot k t e) |>.postOnce (.threadStop k t)
  else
    s.modThread k t (fun th =>
      { (th.enterTrap (s.core k).kvec cause slot v e) with
          st := .running, park := .none, grant := none, grantB := false, sfr := th.sfr.filter (fun r => !r.holds) })

/-- The return from a trap (14 R382). -/
def Thread.leaveTrap (th : Thread) : Thread := { th with mode := th.pmode, intrap := false, pc := th.kepc }

/-- The next sequential bundle, every condition of this bundle met (02 R30). -/
def Thread.advance (pc : Word) (th : Thread) : Thread :=
  { th with pc := pc + 8, st := .running, park := .none, grant := none, grantB := false }

/-- What a form decides, its checks made in the order its block gives: a trap with its value, a wait on a condition
that its next offer looks at again, a wait that an event will end, or its effect. -/
inductive Plan where
  | trap (cause : Nat) (v : Word)
  | park (w : Wait)
  | join (w : Wait) (f : State → State)
  | go (f : State → State)

/-- A register as a pending mark names it: s60 to s63 have a copy for each mode (14 R375), numbered 60 to 63 for user
mode and on by 64 for each higher one. -/
def bankName (m : Mode) (r : RegName) : RegName :=
  match r with
  | .s n => if 60 ≤ n then .s (n + 64 * m.level) else .s n
  | .v n => .v n
  | .q n => .q n

/-- Whether a register is pending for the issuing thread (02 R38). -/
def State.isPending (s : State) (regs : List RegName) : Bool :=
  regs.any (fun r => s.src.pend.contains (bankName s.src.mode r))

/-- The first poisoned register a bundle names (15 R402), in the copy of its mode (14 R375), as ECC_REGFILE records it (14 R378). -/
def State.poisonedReg (s : State) (regs : List RegName) : Option Word :=
  (regs.find? (fun r => s.own.poison.contains (.reg (s.cur.thr % 8) (bankName s.src.mode r)))).map RegName.code

/-- The poison of registers of the issuing thread cleared by a write of them whole (15 R402); a vector register written under
a mask that leaves a byte out keeps its poison. -/
def State.cleanRegs (s : State) (reads writes : List RegName) : State :=
  if s.own.poison.isEmpty then s else
  let whole := reads.all (fun r => match r with | .q n => s.rq (BitVec.ofNat 3 n) == BitVec.allOnes 128 | .s _ | .v _ => true)
  let gone := writes.filter (fun r => match r with | .v _ => whole | .s _ | .q _ => true)
  s.modOwn (fun c => { c with poison := c.poison.filter (fun p => !(gone.any (fun r => decide (p = .reg (s.cur.thr % 8) (bankName s.src.mode r))))) })

/-- A trap on a poisoned tile row is logged (15 R414); others are not. -/
def State.logTrap (s : State) (cause : Nat) (v : Word) : State :=
  if cause = 50 then s.logRow s.cur.core (bits v 0 5) (bits v 5 5) else s

/-- The thread parked on a condition. -/
def State.parkOn (s : State) (w : Wait) (v : Verdict) : State :=
  (s.modTh (fun th => { th with st := .parked, park := w, since := if th.park = w then th.since else s.clock })).verdict v

/-- A form of a bundle: it parks on a pending register it reads or writes (02 R36, R38), traps, parks or retires.
`reads` and `writes` are the registers it names; `slot` is what KCAUSE records (02 R62). -/
def runSlot (slot : Nat) (reads writes : List RegName) (plan : State → Plan) (s : State) :
    Host.Outcome State Fault Refusal :=
  if s.isPending (reads ++ writes) then .next (s.parkOn .pendingReg .parkedPending) else
  match s.poisonedReg reads with
  | some v => .next (((s.logReg s.cur.core s.cur.thr v).trapEntry s.cur.core s.cur.thr 49 slot v s.src.pc).verdict .trapped)
  | none =>
    match plan s with
    | .trap c v => .next (((s.logTrap c v).trapEntry s.cur.core s.cur.thr c slot v s.src.pc).verdict .trapped)
    | .park w => .next (s.parkOn w .parked)
    | .join w f => .next ((f s).parkOn w .joined)
    | .go f => .next (((f (s.modTh (Thread.advance s.src.pc))).cleanRegs reads writes).verdict .retired)

/-- A form whose bundle has a check of step 4 or 5 of 02 R35: it ranks after the wait for a pending register and before
everything of step 7, a poisoned source among it. `early` is its cause and value, if any. -/
def runChecked (early : State → Option (Nat × Word)) (slot : Nat) (reads writes : List RegName) (plan : State → Plan)
    (s : State) : Host.Outcome State Fault Refusal :=
  if s.isPending (reads ++ writes) then .next (s.parkOn .pendingReg .parkedPending) else
  match early s with
  | some (c, v) => .next ((s.trapEntry s.cur.core s.cur.thr c slot v s.src.pc).verdict .trapped)
  | none => runSlot slot reads writes plan s

/-- An event that has taken place. -/
def happened (s : State) : Host.Outcome State Fault Refusal := .next (s.verdict .done)

/-- An event whose condition is not met yet: nothing changes, and it is tried again (log 3). -/
def notYet (s : State) : Host.Outcome State Fault Refusal := .next (s.verdict .waiting)

/-- The scalar register of a field as a name. -/
def rn (n : BitVec 6) : RegName := .s n.toNat

/-- The scalar registers of a field as names; s0 is never pending (02 R47). -/
def rnv (n : BitVec 5) : RegName := .v n.toNat

/-- A mask register as a name. -/
def rnq (n : BitVec 3) : RegName := .q n.toNat

/-- The target of a control transfer (02 R30). -/
def State.jump (s : State) (pc : Word) : State := s.modTh (fun th => { th with pc := pc })

/-- A sign-extended immediate (02 R40). -/
def sx {w : Nat} (i : BitVec w) : Word := i.signExtend 64

/-- SX32 (04 R88). -/
def sx32 (x : Word) : Word := (x.setWidth 32).signExtend 64

/-- 1 or 0. -/
def flag (b : Bool) : Word := if b then 1 else 0

end Sys2Proof.Machine
end

