-- ==== Sys2Proof/Machine/Memory.lean ====
section
/-! DEFINITION. The address spaces of the panel as one byte memory; regions of virtual addresses; translation; bytes,
words and full/empty bits. -/

namespace Sys2Proof.Machine

/-- `n` bytes read little-endian. -/
def readBytes (m : Memory) (a : Nat) : Nat → Nat
  | 0 => 0
  | n + 1 => (Memory.get m a).toNat + 256 * readBytes m (a + 1) n

/-- `n` bytes written little-endian. -/
def writeBytes (m : Memory) (a : Nat) : Nat → Nat → Memory
  | 0, _ => m
  | n + 1, x => writeBytes (Memory.set m a (BitVec.ofNat 8 x)) (a + 1) n (x / 256)

/-- A list of bytes written from an address on. -/
def writeList (m : Memory) (a : Nat) : List Byte → Memory
  | [] => m
  | b :: r => writeList (Memory.set m a b) (a + 1) r

/-- A list of bytes read from an address on. -/
def readList (m : Memory) (a : Nat) : Nat → List Byte
  | 0 => []
  | n + 1 => Memory.get m a :: readList m (a + 1) n

/-- `n` bytes of the panel's memory as a number. -/
def State.rd (s : State) (a n : Nat) : Nat := readBytes s.mem a n

/-- A 64-bit word of the panel's memory. -/
def State.rdw (s : State) (a : Nat) : Word := BitVec.ofNat 64 (readBytes s.mem a 8)

/-- The virtual region of an address, bits [55:52] (08 R185). -/
def vaRegion (a : Word) : Nat := bits a 52 4

/-- Context memory, regions 0x0 to 0x7 (08 R185). -/
def isContextVa (a : Word) : Bool := bits a 55 9 == 0

/-- An address the format rule refuses (08 R185). -/
def formatBad (a : Word) : Bool :=
  !(bits a 56 8 == 0) ||
  (match vaRegion a with
   | 0x8 => !(bits a 18 34 == 0)
   | 0x9 => !(bits a 34 18 == 0) || !(bits a 18 2 == 0)
   | 0xA => !(bits a 45 7 == 0) || !(bits a 31 6 == 0) || decide (136 ≤ bits a 37 8)
   | 0xB => !(bits a 34 10 == 0) || !(bits a 18 2 == 0) || decide (144 ≤ bits a 44 8)
   | 0xC | 0xD | 0xE | 0xF => true
   | _ => false)

/-- A core of this panel named by an address or a scope. -/
def State.ownPanel (s : State) (p : Nat) : Bool := p == s.panel.toNat || p == 0xFF

/-- The number under which a panel's scratchpads stand: 0xFF for this panel, whatever index firmware gives it. -/
def State.panelKey (s : State) (p : Nat) : Nat := if s.ownPanel p then ownKey else p

/-- Panel, core and offset of a scratchpad address of core `k` (08 R185, R186). -/
def State.scratchOf (s : State) (k : Nat) (a : Word) : Option (Nat × Nat × Nat) :=
  match vaRegion a with
  | 0x8 => some (ownKey, k, bits a 0 18)
  | 0x9 => some (ownKey, bits a 27 7 * 128 + bits a 20 7, bits a 0 18)
  | 0xB => some (s.panelKey (bits a 44 8), bits a 27 7 * 128 + bits a 20 7, bits a 0 18)
  | _ => none

/-- A core of a context's partition (13 R355). -/
def Ctx.inPartition (c : Ctx) (k : Nat) : Bool :=
  decide (c.lx0 ≤ coreX k / 16) && decide (coreX k / 16 ≤ c.lx1) && decide (c.ly0 ≤ coreY k / 8) &&
    decide (coreY k / 8 ≤ c.ly1)

/-- A core inside a rectangle laid out as scope bits [31:0] (08 R210). -/
def inRect (r : BitVec 32) (k : Nat) : Bool :=
  decide (r.toNat % 256 ≤ coreX k) && decide (coreX k ≤ r.toNat / 2 ^ 16 % 256) &&
    decide (r.toNat / 2 ^ 8 % 256 ≤ coreY k) && decide (coreY k ≤ r.toNat / 2 ^ 24 % 256)

/-- Kinds of access as a right to read or to write (13 R357). -/
def accReads : AccKind → Bool
  | .load | .atomic | .fetch => true
  | .store => false

/-- Whether an access writes. -/
def accWrites : AccKind → Bool
  | .store | .atomic => true
  | .load | .fetch => false

/-- A core that a context has saved (14 R398). -/
def Ctx.savedCore (c : Ctx) (k : Nat) : Bool :=
  (AMap.get? c.kept k).isSome

/-- One of a list of window grants admits an access to a core (13 R356, R357): its target context owns the core or has it saved. -/
def State.grantedBy (s : State) (l : List Window) (panel k : Nat) (rd wr : Bool) : Bool :=
  l.any (fun w => inRect w.rect k && (s.panelKey w.panel == s.panelKey panel) &&
    (!rd || w.rd) && (!wr || w.wr) &&
    (!(s.ownPanel panel) || (s.core k).owner == w.tctx ||
      (match s.ctx? w.tctx with
        | some t => t.savedCore k
        | none => false)))

/-- A window grant of a context admits an access that is issued now. -/
def State.granted (s : State) (c : Ctx) (panel k : Nat) (rd wr : Bool) : Bool := s.grantedBy c.wins panel k rd wr

/-- The weight-store byte at an offset of a die lies in an extent of a context (13 R356, R367), granted by the MiB. -/
def Ctx.holdsByte (c : Ctx) (die off : Nat) : Bool :=
  c.wext.any (fun e => e.die == die && decide (e.off ≤ off / 2 ^ 20) && decide (off / 2 ^ 20 < e.off + e.len))

/-- The first of `n` weight-store bytes from an address that lies in no extent of a context (13 R356, R367). -/
def Ctx.outsideWeight (c : Ctx) (a : Word) (n : Nat) : Option Word :=
  let off := bits a 0 31
  let last := off + (n - 1)
  if !(c.holdsByte (bits a 37 8) off) then some a
  else if !(c.holdsByte (bits a 37 8) last) then some (a + BitVec.ofNat 64 (last / 2 ^ 20 * 2 ^ 20 - off))
  else none

/-- The issue check of a weight-store read (13 R347, R356, R367; 09 R222 step 4): a read below firmware mode outside the
context's extents is refused, with the first failing byte. -/
def State.extentCause (s : State) (own : Nat) (mode : Mode) (kind : AccKind) (a : Word) (n : Nat) : Option (Nat × Word) :=
  if !(vaRegion a == 0xA) || accWrites kind then none else
  match mode with
  | .firmware => none
  | .user | .supervisor =>
    match s.ctxOfCore own with
    | none => some (54, a)
    | some c => (c.outsideWeight a n).map (fun b => (54, b))

/-- The check of a scratchpad window under the grants that `wins` gives (08 R187; 13 R356): the cause, if any. The spec ranks neither cause
for a ranger core that also lies outside the partition: the model tests the ranger core first (DESIGN CHOICE, log 25). -/
def State.windowUnder (s : State) (wins : Ctx → List Window) (own : Nat) (mode : Mode) (kind : AccKind) (a : Word) : Option Nat :=
  match s.scratchOf own a with
  | none => none
  | some (p, k, _) =>
    if vaRegion a == 0x8 then none else
    match mode with
    | .firmware => none
    | .user | .supervisor =>
      match s.ctxOfCore own with
      | none => some 54
      | some c =>
        if !(c.panels.contains p) && !(s.ownPanel p) then some 54 else
        if isRanger k then some (if (accWrites kind) then 10 else 9) else
        if c.inPartition k || s.grantedBy (wins c) p k (accReads kind) (accWrites kind) then none else some 54

/-- The issue check of a scratchpad window (08 R187, 09 R222 step 4): the cause, if any. -/
def State.windowCause (s : State) (own : Nat) (mode : Mode) (kind : AccKind) (a : Word) : Option Nat :=
  s.windowUnder (fun c => c.wins) own mode kind a

/-- The home of a line of a context: entry ⌊va[55:7]⌋ mod N of its home set (08 R194). -/
def Ctx.homeOf (c : Ctx) (va : Word) : Nat := c.hset.getD (bits va 7 49 % c.hset.length) 0

/-- What a walk of the tables finds: no valid translation, or a leaf and the page size as a power of two. -/
inductive Walk where
  | fault
  | leaf (e : Word) (size : Nat)
  deriving DecidableEq, Repr

/-- A table entry that is valid and not a leaf: only V and ADDR are set, and the next table lies in LPDDR6 (13 R359). -/
def goodPointer (e : Word) : Bool := bits e 0 12 == 1 && bits e 56 8 == 0 && decide (bits e 12 44 * 4096 < 2 ^ 41)

/-- A valid leaf of a page of 2^`size` bytes (13 R358 to R360): reserved bits zero, ADDR aligned unless BACK is 0, and the
home phase that of the page base. -/
def goodLeaf (c : Ctx) (va e : Word) (size : Nat) : Bool :=
  bit e 0 && bit e 1 && bits e 10 2 == 0 &&
  (if bits e 8 2 == 0 then bits e 56 8 == bits va size (56 - size) * 2 ^ (size - 7) % c.hset.length
   else bits e 56 8 == 0 && bits e 12 44 % 2 ^ (size - 12) == 0)

/-- The walk of a context's tables (13 R358 to R360). The tables are read as they stand (13 R362). -/
def State.walk (s : State) (c : Ctx) (va : Word) : Walk :=
  let e0 := s.rdw (physLpddr (c.root.toNat + bits va 39 16 * 8))
  if !(goodPointer e0) then .fault else
  let e1 := s.rdw (physLpddr (bits e0 12 44 * 4096 + bits va 30 9 * 8))
  if bit e1 1 then (if goodLeaf c va e1 30 then .leaf e1 30 else .fault) else
  if !(goodPointer e1) then .fault else
  let e2 := s.rdw (physLpddr (bits e1 12 44 * 4096 + bits va 21 9 * 8))
  if bit e2 1 then (if goodLeaf c va e2 21 then .leaf e2 21 else .fault) else
  if !(goodPointer e2) then .fault else
  let e3 := s.rdw (physLpddr (bits e2 12 44 * 4096 + bits va 16 5 * 8))
  if goodLeaf c va e3 16 then .leaf e3 16 else .fault

/-- The number under which the entries of a translation cache stand among those of its die's tables, after the 262,144 of the
directory slice (15 R414). -/
def tlbBase : Nat := 262144

/-- The number under which the entries of a remap filter stand, after the 65,536 of the translation cache. -/
def remapBase : Nat := 327680

/-- A cached translation of a context for an address (13 R363). -/
def tlbHits (t : Tlb) (id : Nat) (va : Word) : Bool := t.ctx == id && t.page == bits va t.bits (56 - t.bits)

/-- The translation of an address by the translation unit of a memory die: the one it has cached, used until XINV removes it, or a
walk (13 R362, R363). -/
def State.leafAt (s : State) (die : Nat) (c : Ctx) (va : Word) : Walk :=
  match (s.mdie die).tlb.find? (fun t => tlbHits t c.id va) with
  | some t => .leaf t.leaf t.bits
  | none => s.walk c va

/-- The translation of a panel access: by the unit of the line's home die (13 R363). -/
def State.leafOf (s : State) (c : Ctx) (va : Word) : Walk := s.leafAt (c.homeOf va) c va

/-- The lowest place of a table that no entry has. -/
def freePlace (used : List Nat) : Nat := ((List.range (used.length + 1)).find? (fun n => !(used.contains n))).getD 0

/-- The words that firmware has written into an entry of a table that is not VALID go as the entry is used (15 R414). -/
def MDie.useEntry (d : MDie) (n : Nat) : MDie := { d with raw := d.raw.filter (fun x => !(x.1 / 4 == n)) }

/-- A translation put into a cache: at its lowest free place, or in place of the oldest of its 65,536 entries (13 R363; log 10). -/
def MDie.addTlb (d : MDie) (id page size : Nat) (leaf : Word) : MDie :=
  match d.tlb with
  | x :: r =>
    if d.tlb.length < 65536 then
      let n := freePlace (d.tlb.map (fun t => t.place))
      { d.useEntry (tlbBase + n) with tlb := d.tlb ++ [{ place := n, ctx := id, page := page, bits := size, leaf := leaf }] }
    else { d with tlb := r ++ [{ place := x.place, ctx := id, page := page, bits := size, leaf := leaf }] }
  | [] => { d.useEntry tlbBase with tlb := [{ place := 0, ctx := id, page := page, bits := size, leaf := leaf }] }

/-- The translation a walk of a die's unit has found is cached there (13 R363). -/
def State.cacheAt (s : State) (die : Nat) (c : Ctx) (va : Word) : State :=
  match (s.mdie die).tlb.find? (fun t => tlbHits t c.id va), s.walk c va with
  | none, .leaf e n => s.modMDie die (fun d => d.addTlb c.id (bits va n (56 - n)) n e)
  | _, _ => s

/-- The translation of a panel access is cached at the line's home (13 R363). -/
def State.cacheLeaf (s : State) (c : Ctx) (va : Word) : State := s.cacheAt (c.homeOf va) c va

/-- The cause of an access without a valid translation (13 R360). -/
def noTranslation : AccKind → Nat
  | .load => 9 | .store => 10 | .atomic => 10 | .fetch => 8

/-- The outcome of a walk that found a leaf, in the order of R360: the cause, if any. -/
def leafCause (e : Word) (mode : Mode) (kind : AccKind) : Option Nat :=
  let user := bit e 5 && decide (mode = .user)
  match kind with
  | .fetch => if bit e 7 then some 15 else if user || !(bit e 4) then some 13 else none
  | .load => if bit e 7 then some 15 else if user || !(bit e 2) then some 11 else none
  | .store => if bit e 7 then some 15 else if user || !(bit e 3) then some 12 else none
  | .atomic =>
    if bit e 7 then some 15 else if user || !(bit e 2) then some 11 else if !(bit e 3) then some 12 else
    if bit e 6 then some 14 else none

/-- The physical place of an address under a leaf (13 R361); none outside the space the backing has (15 R425, 01 R24). -/
def State.leafPhys (s : State) (c : Ctx) (va e : Word) (size : Nat) : Option Nat :=
  let u := bits va 0 size
  let base := bits e 12 44 * 4096
  match bits e 8 2 with
  | 0 =>
    let off := base + u / (128 * c.hset.length) * 128 + u % 128
    if off < 2 ^ 30 - s.rlcMiB * 2 ^ 20 then some (physHome (c.homeOf va) off) else none
  | 1 => if base + u < 2 ^ 41 then some (physLpddr (base + u)) else none
  | 2 => if base + u < 2 ^ 43 then some (physCxl (base + u)) else none
  | _ => some (physHost (base + u))

/-- A context-memory access translated: its cause or its physical place (13 R360, R361). -/
def State.translate (s : State) (c : Ctx) (mode : Mode) (kind : AccKind) (va : Word) : Except Nat Nat :=
  match s.leafOf c va with
  | .fault => .error (noTranslation kind)
  | .leaf e n =>
    match leafCause e mode kind with
    | some cause => .error cause
    | none =>
      match s.leafPhys c va e n with
      | some p => .ok p
      | none => .error (noTranslation kind)

/-- A poisoned 32-byte sector (15 R404). -/
def State.isPoisoned (s : State) (p : Nat) : Bool := s.poison.contains (p / 32)

/-- What the router of the first memory die refuses of an access of core `k` (13 R356): a window or an extent that was granted at
its issue may be gone when a held access is sent again. A grant that is being revoked still admits the accesses accepted under it (13
R357). -/
def State.routerCause (s : State) (k : Nat) (mode : Mode) (kind : AccKind) (a : Word) : Option Nat :=
  match s.windowUnder (fun c => c.wins ++ c.ending) k mode kind a with
  | some c => some c
  | none => (s.extentCause k mode kind a 1).map Prod.fst

/-- The physical place of an access of core `k`, or the cause that holds it (09 R223; 13 R356): scratchpads are untranslated, the
weight store is read only, context memory is translated with the rights of `mode`. -/
def State.place (s : State) (k : Nat) (mode : Mode) (kind : AccKind) (a : Word) : Except Nat Nat :=
  match s.routerCause k mode kind a with
  | some c => .error c
  | none =>
  match s.scratchOf k a with
  | some (p, t, off) =>
    if (accReads kind) && s.ownPanel p && (s.core t).poison.contains (.scratch (off / 8)) then .error 51
    else .ok (physScratch p t off)
  | none =>
    if isContextVa a then
      match s.ctxOfCore k with
      | none => .error (noTranslation kind)
      | some c =>
        match s.translate c mode kind a with
        | .ok p => if (accReads kind) && s.isPoisoned p then .error 15 else .ok p
        | .error e => .error e
    else
      let p := physWeight (bits a 37 8) (bits a 0 31)
      if s.poisonWeight.contains (p / 32) then .error 15 else .ok p

/-- The physical place of an access of `n` bytes, a poisoned scratchpad word anywhere in them included (09 R223). -/
def State.placeN (s : State) (k : Nat) (mode : Mode) (kind : AccKind) (a : Word) (n : Nat) : Except Nat Nat :=
  match s.routerCause k mode kind a with
  | some c => .error c
  | none =>
  match s.scratchOf k a with
  | some (p, t, off) =>
    if (accReads kind) && s.ownPanel p && (s.core t).poison.any (fun x => match x with
        | .scratch w => decide (off / 8 ≤ w) && decide (w ≤ (off + n - 1) / 8)
        | .reg _ _ | .tileRow _ _ => false) then .error 51
    else .ok (physScratch p t off)
  | none => s.place k mode kind a

/-- The physical byte that an address of core `k` names, whatever the rights on it, to tell two names of one byte (08 R186,
R207; 13 R364). -/
def State.bytePlace (s : State) (k : Nat) (a : Word) : Option Nat :=
  match s.scratchOf k a with
  | some (p, t, off) => some (physScratch p t off)
  | none =>
    if !(isContextVa a) then none else
    match s.ctxOfCore k with
    | none => none
    | some c =>
      match s.leafOf c a with
      | .fault => none
      | .leaf e n => s.leafPhys c a e n

/-- The translation an access has used is cached. -/
def State.cacheFor (s : State) (k : Nat) (a : Word) : State :=
  if isContextVa a then
    match s.ctxOfCore k with
    | some c => s.cacheLeaf c a
    | none => s
  else s

/-- The bytes of a store meet `n` bytes at a place. -/
def Late.meets (l : Late) (a n : Nat) : Bool := decide (l.place < a + n) && decide (a < l.place + l.size)

/-- The store belongs to the same access-table entry as another. -/
def Late.sameEntry (l x : Late) : Bool := l.core == x.core && l.thr == x.thr && l.seq == x.seq

/-- A store that some clusters do not see yet ends so when a write meets it: every cluster sees an earlier store to a byte before a
later write of it, and the pieces of one store in their order, so that all of that store's pieces are seen (08 R206, R208). -/
def State.lateEnds (s : State) (a n : Nat) (l : Late) : Bool := s.late.any (fun x => x.meets a n && l.sameEntry x)

/-- The stores that some clusters do not see yet once `n` bytes at a place are written. -/
def State.lateLeft (s : State) (a n : Nat) : List Late := s.late.filter (fun l => !(s.lateEnds a n l))

/-- A write of the panel's memory. -/
def State.wr (s : State) (a n x : Nat) : State := { s with mem := writeBytes s.mem a n x, late := s.lateLeft a n }

/-- A byte as a cluster sees it: one that a store has written and that has not been performed towards the cluster reads as it
stood (08 R205, R209). -/
def State.byteFor (s : State) (cl a : Nat) : Nat :=
  match s.late.find? (fun l => l.clusters.contains cl && decide (l.place ≤ a) && decide (a < l.place + l.size)) with
  | some l => l.old / 2 ^ (8 * (a - l.place)) % 256
  | none => (Memory.get s.mem a).toNat

/-- `n` bytes as a cluster sees them. -/
def State.bytesFor (s : State) (cl a : Nat) : Nat → Nat
  | 0 => 0
  | n + 1 => s.byteFor cl a + 256 * State.bytesFor s cl (a + 1) n

/-- `n` bytes of the panel's memory as a cluster sees them. -/
def State.rdFor (s : State) (cl a n : Nat) : Nat := if s.late.isEmpty then s.rd a n else s.bytesFor cl a n

/-- The threads whose watch-table entry names the physical line of a place (11 R319). -/
def State.watchersOf (s : State) (p : Nat) : List (Nat × Nat) :=
  s.clusters.flatMap (fun c => c.2.watch.filter (fun x =>
    match (s.thread x.1 x.2).park with
    | .watch w =>
      (match s.place x.1 (s.thread x.1 x.2).mode .load w with
       | .ok q => q / 128 == p / 128
       | .error _ => false)
    | _ => false))

/-- The watch-table entries of a line that a write has changed are woken (11 R319). -/
def State.wakeWatchers (s : State) (p : Nat) : State :=
  (s.watchersOf p).foldl (fun s x => s.postOnce (.watchWake x.1 x.2)) s

/-- A write that wakes those that watch its line, and those that watch a line of a store it makes every cluster see (11 R319). -/
def State.wrWake (s : State) (a n x : Nat) : State :=
  (s.late.filter (s.lateEnds a n)).foldl (fun s l => s.wakeWatchers l.place) ((s.wr a n x).wakeWatchers a)

/-- The mark of a sector cleared by a write of all of it (15 R404). -/
def State.cleanSector (s : State) (p : Nat) : State := { s with poison := s.poison.filter (fun x => !(x == p / 32)) }

/-- The poisoned sectors left once the bytes at a list of places are written: a sector that is written whole loses its mark (15 R404). -/
def State.poisonAfter (s : State) (places : List Nat) : List Nat :=
  s.poison.filter (fun x => !((List.range 32).all (fun i => places.contains (32 * x + i))))

/-- The poison of scratchpad words cleared by a write of them whole (15 R402): `n` bytes from `p` on, under a bit mask. -/
def State.cleanScratch (s : State) (p n mask : Nat) : State :=
  if p / 2 ^ 64 != 5 || p / 2 ^ 40 % 2 ^ 24 != ownKey then s else
  let k := p / 2 ^ 20 % 2 ^ 20
  let off := p % 2 ^ 20
  if (s.core k).poison.isEmpty then s else
  let whole := fun (w : Nat) => decide (off ≤ 8 * w) && decide (8 * w + 8 ≤ off + n) && mask / 2 ^ (8 * (8 * w - off)) % 2 ^ 64 == 2 ^ 64 - 1
  s.modCore k (fun c => { c with poison := c.poison.filter (fun x => match x with | .scratch w => !(whole w) | _ => true) })

/-- The marks that a piece of an access clears: whole scratchpad words, and a sector whose other half the same access has just
written (15 R402, R404). -/
def State.cleanPiece (s : State) (p n off mask : Nat) (other : Bool) : State :=
  let s := s.cleanScratch p n mask
  if n == 16 && p % 32 == 16 && decide (16 ≤ off) && other && mask == 2 ^ 128 - 1 then s.cleanSector p else s

/-- The number of the aligned word of a scratchpad offset. -/
def feWord (off : Nat) : Nat := off / 8

/-- Whether a scratchpad word is full (08 R190). -/
def Core.isFull (c : Core) (word : Nat) : Bool := c.fe.contains word

/-- A full/empty bit set or cleared; the list of full words stays sorted and without repeats. -/
def Core.setFull (c : Core) (word : Nat) (full : Bool) : Core :=
  { c with fe :=
      if full then
        (if c.fe.contains word then c.fe else c.fe.filter (fun w => decide (w < word)) ++ word :: c.fe.filter (fun w => decide (word < w)))
      else c.fe.filter (fun w => !(w == word)) }

/-- A byte list of the loader's scratchpad image at a core: every word that it writes in any part is full (02 R72; 08 R190). -/
def State.loadCore (s : State) (off : Nat) (l : List Byte) (k : Nat) : State :=
  let n := l.length
  let s := { s with mem := writeList s.mem (physScratch ownKey k off) l }
  if n = 0 then s else
  s.modCore k (fun c => (List.range ((off % 8 + n + 7) / 8)).foldl (fun c j => c.setFull (off / 8 + j) true) c)

/-- The loader writes a scratchpad image into every core of a launch rectangle (02 R72; 08 R190). The loader is software beside the
machine, which no command or event names; what it does to the panel is this (log 7). -/
def State.loadImage (s : State) (off : Nat) (l : List Byte) (cores : List Nat) : State := cores.foldl (State.loadCore · off l) s

/-- The bundle a thread would fetch, or the cause and value of the fetch (02 R34, R35 step 1). Bundles buffered for the
thread are used until FENCEI discards them (09 R247). -/
def State.fetch (s : State) (k t : Nat) : Except (Nat × Word) Word :=
  let th := s.thread k t
  if decide (th.mode = .user) && bit th.dbgc 1 && bits th.dbgc 3 53 == bits th.pc 3 53 then .error (39, th.pc) else
  match th.ibuf.find? (fun e => e.1 == th.pc) with
  | some e => .ok e.2
  | none =>
    if !(isContextVa th.pc) then .error (8, th.pc) else
    match s.place k th.mode .fetch th.pc with
    | .ok p => .ok (BitVec.ofNat 64 (s.rdFor (clusterOfCore k) p 8))
    | .error c => .error (c, th.pc)

end Sys2Proof.Machine
end

