-- ==== Sys2Proof/Machine/Coherence.lean ====
section
/-! DEFINITION. Coherence: the cluster L1s, the directory, the remote-line caches, the remap filters and the host's
copies (08 R192 to R204, 13 R364, R365). Every byte has one value, in the panel's memory; lines hold states only, so no
operation here changes a value that a program can read (log 8). -/

namespace Sys2Proof.Machine

/-- The line of an address: VA [55:7] (08 R192). -/
def lineOf (va : Word) : Nat := bits va 7 49

/-- The state a cluster's L1 holds a line in (08 R201). -/
def Cluster.lineState (c : Cluster) (id line : Nat) : Moesi :=
  match c.l1.find? (fun l => l.ctx == id && l.line == line) with
  | some l => l.st
  | none => .i

/-- A line put into an L1 in a state; I removes it. -/
def Cluster.setLine (c : Cluster) (id line : Nat) (st : Moesi) : Cluster :=
  let r := c.l1.filter (fun l => !(l.ctx == id && l.line == line))
  { c with l1 := if st = .i then r else r ++ [{ ctx := id, line := line, st := st }] }

/-- The directory entry of a line at its home. -/
def MDie.entry? (d : MDie) (id line : Nat) : Option DirEntry := d.dir.find? (fun e => e.ctx == id && e.line == line)

/-- A cluster added to a sharer set: three pointers, and beyond them the dies (08 R196). -/
def DirEntry.share (e : DirEntry) (cl : Nat) : DirEntry :=
  if e.shr.contains cl || e.vec.contains (cl / 8) then e else
  if e.vec.isEmpty && e.shr.length < 3 then { e with shr := e.shr ++ [cl] } else
  { e with shr := [], vec := (e.vec ++ e.shr.map (fun c => c / 8) ++ [cl / 8]).eraseDups }

/-- The clusters a directory entry names as holders (08 R196). -/
def DirEntry.holders (e : DirEntry) : List Nat :=
  ((match e.owner with | some o => [o] | none => []) ++ e.shr ++
    e.vec.flatMap (fun d => (List.range 8).map (fun j => d * 8 + j))).eraseDups

/-- The physical line that stands on the panel under an alias: the remap filters name it, or the remote-line cache that holds it
(13 R364). -/
def State.physOf (s : State) (id line : Nat) : Option Nat :=
  s.mdies.findSome? (fun d =>
    match d.2.remap.find? (fun r => r.ctx == id && r.line == line) with
    | some r => some (r.pline * 128)
    | none => (d.2.rlc.find? (fun l => l.ctx == id && l.line == line)).map (fun l => l.phys * 128))

/-- The watch-table entries of a cluster for a line are woken, under whichever alias they watch it: the cluster's copy of it has gone
(11 R319, 13 R364). -/
def State.wakeLine (s : State) (cl id line : Nat) : State :=
  ((s.cluster cl).watch.filter (fun x =>
    match (s.thread x.1 x.2).park with
    | .watch w => isContextVa w && ((lineOf w == line && (s.core x.1).owner == id) ||
        (match s.bytePlace x.1 w, s.physOf id line with
         | some p, some q => p / 128 == q / 128
         | _, _ => false))
    | _ => false)).foldl (fun s x => s.postOnce (.watchWake x.1 x.2)) s

/-- A line leaves the L1 of a cluster. -/
def State.dropLine (s : State) (cl id line : Nat) : State :=
  if decide ((s.cluster cl).lineState id line = .i) then s
  else (s.modCluster cl (fun c => c.setLine id line .i)).wakeLine cl id line

/-- A line invalidated in the L1s of a list of clusters (08 R202). -/
def State.dropLines (s : State) (id line : Nat) (l : List Nat) : State := l.foldl (fun s cl => s.dropLine cl id line) s

/-- The memory die whose controller owns a physical line, and so its remap filter (13 R364, 15 R424, R425). -/
def State.filterDie (s : State) (p home : Nat) : Nat :=
  let a := p % 2 ^ 64
  match p / 2 ^ 64 with
  | 0 =>
    let ch := channelOf a
    if ch / 2 < 16 then ch / 2 else ch / 2 + 104
  | 1 =>
    if Config.cxlCapacity 2 = Config.cxlCapacity 3 then (if a / 2 ^ 12 % 2 = 0 then 72 else 88)
    else if a < Config.cxlCapacity 2 then 72 else 88
  | 2 =>
    let up := (List.range 4).filter (fun n => s.ports[n]?.getD false)
    40 + 16 * up.getD (a / 2 ^ 11 % 4 % (max 1 up.length)) 0
  | _ => home

/-- The alias under which a physical line stands on the panel: the first cached one, in the remap filter or as a remote-line cache
still holds it, or else this one (13 R364). -/
def State.aliasOf (s : State) (c : Ctx) (va : Word) (p : Nat) : Nat × Nat :=
  match (s.mdie (s.filterDie p (c.homeOf va))).remap.find? (fun r => r.back == p / 2 ^ 64 && r.pline == p / 128) with
  | some r => (r.ctx, r.line)
  | none =>
    match s.mdies.findSome? (fun d => d.2.rlc.find? (fun l => l.phys == p / 128)) with
    | some l => (l.ctx, l.line)
    | none => (c.id, lineOf va)

/-- A directory entry freed with its remap-filter entries (13 R365). -/
def State.freeEntry (s : State) (home id line : Nat) : State :=
  let s := s.modMDie home (fun d => { d with dir := d.dir.filter (fun e => !(e.ctx == id && e.line == line)) })
  { s with mdies := s.mdies.map (fun x => (x.1, { x.2 with remap := x.2.remap.filter (fun r => !(r.ctx == id && r.line == line)) })) }

/-- A cluster holds a line dirty (08 R201). -/
def State.dirtyIn (s : State) (id line : Nat) : Bool :=
  s.clusters.any (fun c => match c.2.lineState id line with | .m | .o => true | .e | .s | .i => false)

/-- The data of a line that a cluster holds dirty is written back to its home: the remote-line cache then holds it dirty (08 R196,
R202). -/
def State.writeBack (s : State) (home id line : Nat) : State :=
  if s.dirtyIn id line then s.modMDie home (fun d => { d with rlc := d.rlc.map (fun l =>
    if l.ctx == id && l.line == line then { l with st := Moesi.m } else l) }) else s

/-- A line recalled from every cluster, written back to its home, its directory entry freed unless the host still holds the line (08
R196, R202). -/
def State.recall (s : State) (home id line : Nat) : State :=
  match (s.mdie home).entry? id line with
  | none => s
  | some e =>
    let s := (s.writeBack home id line).dropLines id line e.holders
    if e.host then
      s.modMDie home (fun d => { d with dir := d.dir.map (fun x =>
        if x.ctx == id && x.line == line then { x with owner := none, shr := [], vec := [], st := Moesi.s } else x) })
    else s.freeEntry home id line

/-- The CXL.cache request of a home for a host-backed line with no panel copy (08 R203): 1 RdAny, 2 RdShared, 3 RdOwn,
4 RdOwnNoData; 5 DirtyEvict, 6 CleanEvict; 7 BISnpInv, 8 BISnpData (R204). The line is named by its place (log 4). -/
def State.hostRequest (s : State) (p code : Nat) : State := { s with out := s.out ++ [.cxlReq p code] }

/-- A back-invalidation sent to the host for a line, once until it is answered (08 R204). -/
def State.snoopHost (s : State) (home p code : Nat) : State :=
  if (s.mdie home).hostWait.any (fun x => x.1 == p / 128) then s else
  (s.hostRequest p code).modMDie home (fun d => { d with hostWait := d.hostWait ++ [(p / 128, code)] })

/-- A directory entry that the directory or a remap filter evicts: its line is recalled from every cluster and from the host, dirty
data is written back to the home, and the entry is freed (08 R196; 13 R365). -/
def State.evictEntry (s : State) (home : Nat) (e : DirEntry) : State :=
  let s := (s.writeBack home e.ctx e.line).dropLines e.ctx e.line e.holders
  let s := match e.host, s.physOf e.ctx e.line with
    | true, some p => s.snoopHost home p 7
    | _, _ => s
  s.freeEntry home e.ctx e.line

/-- The home of a line by its alias (08 R194). -/
def State.homeOfLine (s : State) (id line : Nat) : Nat :=
  match s.ctx? id with
  | some c => c.hset.getD (line % c.hset.length) 0
  | none => 0

/-- Where an entry of a way stands in it (08 R196). -/
def DirEntry.slot (e : DirEntry) (way : Nat) : Nat := (Config.dirHash way e.ctx e.line).toNat

/-- The entry that occupies the place of an entry in a way. -/
def occupant (d : List DirEntry) (e : DirEntry) (way : Nat) : Option DirEntry :=
  d.find? (fun x => x.way == way && x.place == e.slot way)

/-- An entry put into a way; an occupant goes to its other way, along a chain of at most `n` placements, and the entry last displaced
is left over (08 R196). -/
def placeEntry : Nat → List DirEntry → DirEntry → Nat → List DirEntry × Option DirEntry
  | 0, d, e, _ => (d, some e)
  | n + 1, d, e, way =>
    match occupant d e way with
    | none => (d ++ [{ e with way := way, place := e.slot way }], none)
    | some o => placeEntry n (d.filter (fun x => !(x.ctx == o.ctx && x.line == o.line)) ++ [{ e with way := way, place := e.slot way }]) o (1 - way)

/-- An entry inserted into a slice: into a free one of its two places, or else into way 0, with up to 8 relocations after it
(08 R196; which way comes first is log 8). -/
def insertDir (d : List DirEntry) (e : DirEntry) : List DirEntry × Option DirEntry :=
  if (occupant d e 0).isNone then placeEntry 1 d e 0 else
  if (occupant d e 1).isNone then placeEntry 1 d e 1 else placeEntry 9 d e 0

/-- The entries of a memory die's remap filter (15 R414). -/
def filterEntries : Nat := 65536

/-- The oldest entry of a full remap filter, whose lines are recalled (13 R365). -/
def State.trimFilter (s : State) (fd : Nat) : State :=
  match (s.mdie fd).remap with
  | [] => s
  | r :: _ =>
    if (s.mdie fd).remap.length < filterEntries then s else
    let home := s.homeOfLine r.ctx r.line
    match (s.mdie home).entry? r.ctx r.line with
    | some e => s.evictEntry home e
    | none => s.modMDie fd (fun d => { d with remap := d.remap.drop 1 })

/-- A remap-filter entry put into a filter: at its lowest free place (13 R364; log 10). -/
def MDie.addRemap (d : MDie) (back pline id line : Nat) : MDie :=
  let n := freePlace (d.remap.map (fun r => r.place))
  { d.useEntry (remapBase + n) with
      remap := d.remap ++ [{ place := n, back := back, pline := pline, ctx := id, line := line }] }

/-- The entries of a slice after an insertion; the words of entries that were not VALID go as those entries are used. -/
def MDie.setDir (d : MDie) (l : List DirEntry) : MDie :=
  { d with dir := l, raw := d.raw.filter (fun x => !(l.any (fun e => e.way * 131072 + e.place == x.1 / 4))) }

/-- A directory entry written, with its remap-filter entry: one that the slice holds already is changed in place; a new one is
inserted, and the entry that its chain leaves over is evicted (08 R196, 13 R365; log 8). -/
def State.insertEntry (s : State) (p : Nat) (e : DirEntry) : State :=
  let home := s.homeOfLine e.ctx e.line
  let s : State := match (s.mdie home).entry? e.ctx e.line with
    | some old => s.modMDie home (fun d => { d with dir := d.dir.map (fun x =>
        if x.ctx == e.ctx && x.line == e.line then { e with way := old.way, place := old.place } else x) })
    | none =>
      let r := insertDir (s.mdie home).dir e
      let s := s.modMDie home (fun d => d.setDir r.1)
      match r.2 with
      | some o => s.evictEntry home o
      | none => s
  let fd := s.filterDie p home
  if (s.mdie fd).remap.any (fun r => r.back == p / 2 ^ 64 && r.pline == p / 128) then s
  else (s.trimFilter fd).modMDie fd (fun d => d.addRemap (p / 2 ^ 64) (p / 128) e.ctx e.line)

/-- A cluster gives a line up (08 R202 rule 4): M and O are written back to the home, E is notified, S is silent and stays listed;
a weight-store line just goes. -/
def State.evictL1 (s : State) (cl id line : Nat) : State :=
  let st := (s.cluster cl).lineState id line
  let home := s.homeOfLine id line
  let dirty := decide (st = Moesi.m) || decide (st = Moesi.o)
  let s := s.dropLine cl id line
  match st with
  | .i | .s => s
  | .m | .o | .e =>
    match (s.mdie home).entry? id line with
    | none => s
    | some e =>
      let e' : DirEntry := { e with owner := none, st := .s }
      let s := s.modMDie home (fun d => { d with
        dir := d.dir.map (fun x => if x.ctx == id && x.line == line then e' else x)
        rlc := d.rlc.map (fun l => if l.ctx == id && l.line == line then { l with st := if dirty then Moesi.m else l.st } else l) })
      if e'.holders.isEmpty && !e.host then s.freeEntry home id line else s

/-- The slice of an L1 that a line lives in: VA [10:7] (01 R23, 08 R192). -/
def l1Slice (line : Nat) : Nat := line % 16

/-- Lines of a slice of an L1: 64 KiB of 128 bytes (01 R23, R24). -/
def sliceLines : Nat := 512

/-- A line that a full slice gives up for a new one: its oldest (which one the spec leaves open: log 8). -/
def Cluster.victim (c : Cluster) (id line : Nat) : Option Line :=
  let own := c.l1.filter (fun l => l1Slice l.line == l1Slice line)
  if own.any (fun l => l.ctx == id && l.line == line) || own.length < sliceLines then none else own.head?

/-- A line put into the L1 of a cluster. -/
def State.putLine (s : State) (cl id line : Nat) (st : Moesi) : State :=
  let s := match (s.cluster cl).victim id line with
    | some v => s.evictL1 cl v.ctx v.line
    | none => s
  s.modCluster cl (fun c => c.setLine id line st)

/-- The state in which a remote-line cache holds a line. -/
def MDie.rlcState (d : MDie) (id line : Nat) : Option Moesi :=
  (d.rlc.find? (fun l => l.ctx == id && l.line == line)).map (fun l => l.st)

/-- A line leaves the remote-line cache of its home (08 R198, R203): no copy is left on the panel, a dirty one is written back, and
the host is told of a line of its own that was dirty or exclusive. -/
def State.evictRemote (s : State) (home id line : Nat) : State :=
  let p := s.physOf id line
  let l := ((s.mdie home).rlcState id line).toList ++ s.clusters.map (fun c => c.2.lineState id line)
  let excl := fun (x : Moesi) => decide (x = Moesi.e)
  let dirty := fun (x : Moesi) => decide (x = Moesi.m) || decide (x = Moesi.o)
  let s := (s.recall home id line).modMDie home (fun d => { d with rlc := d.rlc.filter (fun l => !(l.ctx == id && l.line == line)) })
  match p with
  | some p =>
    if p / 2 ^ 64 != 2 then s
    else if l.any dirty then s.hostRequest p 5
    else if l.any excl then s.hostRequest p 6 else s
  | none => s

/-- Lines that a remote-line cache holds: its share of the home memory (08 R198, 01 R24). -/
def State.remoteLines (s : State) : Nat := s.rlcMiB * 8192

/-- A line brought into the remote-line cache of its home when its backing is not home memory; a full one evicts its oldest line
(08 R195, R198; which one the spec leaves open: log 8). -/
def State.cacheRemote (s : State) (home id line p : Nat) (st : Moesi) : State :=
  if p / 2 ^ 64 == 3 then s else
  let s := match (s.mdie home).rlc with
    | l :: _ =>
      if ((s.mdie home).rlcState id line).isSome || (s.mdie home).rlc.length < s.remoteLines then s
      else s.evictRemote home l.ctx l.line
    | [] => s
  s.modMDie home (fun d => { d with rlc := d.rlc.filter (fun l => !(l.ctx == id && l.line == line)) ++ [{ ctx := id, line := line, phys := p / 128, st := st }] })

/-- A panel copy of a line lets it be written, or held alone, without a message to its host: M, O or E in a cluster that the
directory names, M or E in the remote-line cache (08 R203). -/
def State.holdsAlone (s : State) (home id line : Nat) : Bool :=
  (match (s.mdie home).entry? id line with | some e => e.owner.isSome | none => false) ||
    (match (s.mdie home).rlcState id line with | some .m | some .e => true | _ => false)

/-- The state a sole reader of a line is granted, with the request that a host-backed line with no panel copy needs (08 R202 rule
2, R203): E, but S where the host has granted S, or to a reader that never takes E of host-backed lines. -/
def State.grantAlone (s : State) (home id line p : Nat) (keepE : Bool) : State × Moesi :=
  if p / 2 ^ 64 != 2 then (s, .e) else
  match (s.mdie home).rlcState id line with
  | some .s => (s, .s)
  | some _ => (s, if keepE then .e else .s)
  | none => (s.hostRequest p (if keepE then 1 else 2), if keepE && s.input.ok then .e else .s)

/-- A read miss served by the home (08 R202 rule 2, R203). `keepE`: the reader may take E; instruction fetches and copy
engines never do for host-backed lines. -/
def State.homeRead (s : State) (cl : Nat) (c : Ctx) (va : Word) (p : Nat) (keepE : Bool) : State :=
  let (id, line) := s.aliasOf c va p
  let home := s.homeOfLine id line
  if !(decide ((s.cluster cl).lineState id line = .i)) then s else
  let old := (s.mdie home).entry? id line
  let alone := match old with
    | none => true
    | some e => e.holders.all (fun h => h == cl) && !e.host
  if alone then
    let (s, st) := s.grantAlone home id line p keepE
    let s := if ((s.mdie home).rlcState id line).isSome then s else s.cacheRemote home id line p st
    let e : DirEntry := { ctx := id, line := line, way := 0, place := 0, st := st, owner := if st = .e then some cl else none,
                          shr := if st = .e then [] else [cl], vec := [], host := false }
    (s.insertEntry p e).putLine cl id line st
  else
    match old with
    | none => s
    | some e =>
      let s := match e.owner with
        | some o =>
          match (s.cluster o).lineState id line with
          | .m => s.modCluster o (fun c => c.setLine id line .o)
          | .e => s.modCluster o (fun c => c.setLine id line .s)
          | .o | .s | .i => s
        | none => s
      let dirty : Bool := match e.owner with
        | some o => decide ((s.cluster o).lineState id line = .o)
        | none => false
      let e1 := if dirty then { e with st := .o } else
        { (match e.owner with | some o => { e with owner := none }.share o | none => e) with st := .s }
      (s.insertEntry p (e1.share cl)).putLine cl id line .s

/-- A request for ownership at the home: every other copy is invalidated, the host's included, before M is granted (08 R197, R202
rule 3, R204). While the host's answer is outstanding no cluster holds the line: the home performs the write, and the store's host
reach is counted apart (09 R226). -/
def State.homeOwn (s : State) (cl : Nat) (c : Ctx) (va : Word) (p : Nat) : State :=
  let (id, line) := s.aliasOf c va p
  let home := s.homeOfLine id line
  match (s.cluster cl).lineState id line with
  | .m => s
  | .e => s.modCluster cl (fun c => c.setLine id line .m)
  | .o | .s | .i =>
    let old := (s.mdie home).entry? id line
    let host : Bool := match old with | some e => e.host | none => false
    let s := if p / 2 ^ 64 == 2 && !(s.holdsAlone home id line) then
        s.hostRequest p (if ((s.mdie home).rlcState id line).isSome then 4 else 3) else s
    let s := match old with
      | some e => s.dropLines id line (e.holders.filter (fun h => host || !(h == cl)))
      | none => s
    let s := s.cacheRemote home id line p .m
    if host then
      (s.snoopHost home p 7).modMDie home (fun d => { d with dir := d.dir.map (fun x =>
        if x.ctx == id && x.line == line then { x with owner := none, shr := [], vec := [], st := Moesi.s } else x) })
    else
      (s.insertEntry p { ctx := id, line := line, way := 0, place := 0, st := .m, owner := some cl, shr := [], vec := [], host := false }).putLine
        cl id line .m

/-- The line of a near-memory atomic recalled to I in every cluster and at the host; the home writes it (08 R202 rule 5, R203,
R204). -/
def State.homeAtomic (s : State) (c : Ctx) (va : Word) (p : Nat) : State :=
  let (id, line) := s.aliasOf c va p
  let home := s.homeOfLine id line
  let old := (s.mdie home).entry? id line
  let s := if p / 2 ^ 64 == 2 && !(s.holdsAlone home id line) then
      s.hostRequest p (if ((s.mdie home).rlcState id line).isSome then 4 else 3) else s
  let s := s.recall home id line
  let s := match old with
    | some e => if e.host then s.snoopHost home p 7 else s
    | none => s
  s.cacheRemote home id line p .m

/-- The host owns a line of context memory: the directory records it as the only holder (08 R204). -/
def State.hostOwns (s : State) (c : Ctx) (va : Word) (p : Nat) : Bool :=
  let (id, line) := s.aliasOf c va p
  match (s.mdie (s.homeOfLine id line)).entry? id line with
  | some e => e.host && decide (e.st = Moesi.e) && e.owner.isNone
  | none => false

/-- Where a context's access reaches a line that the host owns: it waits for the host's answer (08 R204). -/
def State.hostHas (s : State) (c : Ctx) (va : Word) : Option Nat :=
  match s.leafOf c va with
  | .fault => none
  | .leaf e n =>
    match s.leafPhys c va e n with
    | some p => if s.hostOwns c va p then some p else none
    | none => none

/-- A panel request needs a line back that the host owns: the home asks the host for it (08 R204). -/
def State.callBack (s : State) (k : Nat) (va : Word) : State :=
  if !(isContextVa va) then s else
  match s.ctxOfCore k with
  | none => s
  | some c =>
    match s.hostHas c va with
    | some p => s.snoopHost (c.homeOf va) p 8
    | none => s

/-- An access of a core takes its line through its cluster L1: lines of context memory, and on a read lines of the weight store, which
take no part in the directory protocol (08 R192, R199). -/
def State.viaL1 (s : State) (k : Nat) (kind : AccKind) (va : Word) (p : Nat) : State :=
  match s.ctxOfCore k with
  | none => s
  | some c =>
    let cl := clusterOfCore k
    if vaRegion va == 0xA then
      (match kind with
       | .load => s.putLine cl c.id (lineOf va) .s
       | .fetch | .store | .atomic => s)
    else if !(isContextVa va) then s else
    match kind with
    | .load => s.homeRead cl c va p true
    | .fetch => s.homeRead cl c va p false
    | .store => s.homeOwn cl c va p
    | .atomic => s.homeAtomic c va p

/-- A physical line whose host answer is outstanding (08 R204, 09 R226). -/
def State.hostOutstanding (s : State) (p : Nat) : Bool := s.mdies.any (fun d => d.2.hostWait.any (fun x => x.1 == p / 128))

/-- The aliases a physical line stands under: in the remap filters and in the remote-line caches. -/
def State.aliases (s : State) (p : Nat) : List (Nat × Nat) :=
  (s.mdies.flatMap (fun d => (d.2.remap.filter (fun r => r.back == p / 2 ^ 64 && r.pline == p / 128)).map (fun r => (r.ctx, r.line)) ++
    (d.2.rlc.filter (fun l => l.phys == p / 128)).map (fun l => (l.ctx, l.line)))).eraseDups

/-- The states a physical line is held in on the panel (08 R203). -/
def State.holdings (s : State) (p : Nat) : List Moesi :=
  (s.aliases p).flatMap (fun a => s.clusters.map (fun c => Cluster.lineState c.2 a.1 a.2)) ++
    (s.aliases p).flatMap (fun a => s.mdies.flatMap (fun d => (d.2.rlc.filter (fun l => l.ctx == a.1 && l.line == a.2)).map (fun l => l.st)))

/-- A copy is dirty (08 R201). -/
def heldDirty (l : List Moesi) : Bool := l.any (fun x => decide (x = Moesi.m) || decide (x = Moesi.o))

/-- A copy is clean and exclusive. -/
def heldClean (l : List Moesi) : Bool := l.any (fun x => decide (x = Moesi.e))

/-- A copy is held. -/
def heldAny (l : List Moesi) : Bool := l.any (fun x => !(decide (x = Moesi.i)))

/-- Every panel copy of a physical line invalidated. -/
def State.dropPhys (s : State) (p : Nat) : State :=
  (s.aliases p).foldl (fun s a =>
    let s := s.recall (s.homeOfLine a.1 a.2) a.1 a.2
    let s := s.dropLines a.1 a.2 (s.clusters.map Prod.fst)
    { s with mdies := s.mdies.map (fun d => (d.1, { d.2 with rlc := d.2.rlc.filter (fun l => !(l.ctx == a.1 && l.line == a.2)) })) }) s

/-- Every panel copy of a physical line made shared. -/
def State.sharePhys (s : State) (p : Nat) : State :=
  (s.aliases p).foldl (fun s a =>
    let demote := fun (x : Moesi) => match x with | .m | .o | .e | .s => Moesi.s | .i => Moesi.i
    { s with
      clusters := s.clusters.map (fun c => (c.1, { c.2 with l1 := c.2.l1.map (fun l =>
        if l.ctx == a.1 && l.line == a.2 then { l with st := demote l.st } else l) }))
      mdies := s.mdies.map (fun d => (d.1, { d.2 with
        rlc := d.2.rlc.map (fun l => if l.ctx == a.1 && l.line == a.2 then { l with st := demote l.st } else l)
        dir := d.2.dir.map (fun e => if e.ctx == a.1 && e.line == a.2 then
          { (match e.owner with | some o => { e with owner := none }.share o | none => e) with st := .s } else e) })) }) s

/-- The pages of a context that an XINV names: a size selector (0 all) and, in the range form, an interval (13 R366). -/
def Tlb.selected (t : Tlb) (id sz : Nat) (range : Option (Nat × Nat)) : Bool :=
  t.ctx == id && (sz == 0 || t.bits == (match sz with | 1 => 16 | 2 => 21 | _ => 30)) &&
    (match range with
     | none => true
     | some (lo, hi) => decide (lo < (t.page + 1) * 2 ^ t.bits) && decide (t.page * 2 ^ t.bits < hi))

/-- The lines a page covers. -/
def Tlb.covers (t : Tlb) (line : Nat) : Bool := line * 128 / 2 ^ t.bits == t.page

/-- The entries of a table in which some byte is listed. -/
def State.entriesIn (s : State) (base n : Nat) : List Nat :=
  ((s.mem.filter (fun c => decide (base ≤ c.1) && decide (c.1 < base + 8 * n))).map (fun c => (c.1 - base) / 8)).eraseDups

/-- A leaf found in a context's tables: where its entry stands, the page's base address and size, and the entry. -/
structure LeafAt where
  place : Nat
  va    : Word
  size  : Nat
  entry : Word
  deriving DecidableEq, Repr

/-- A valid leaf. -/
def leafIf (c : Ctx) (place : Nat) (va : Word) (size : Nat) (e : Word) : List LeafAt :=
  if goodLeaf c va e size then [{ place := place, va := va, size := size, entry := e }] else []

/-- Every valid leaf of a context's tables (13 R358, R359). -/
def State.leaves (s : State) (c : Ctx) : List LeafAt :=
  let at_ := fun (base i : Nat) => physLpddr (base + 8 * i)
  let next := fun (e : Word) => bits e 12 44 * 4096
  (s.entriesIn (physLpddr c.root.toNat) 65536).flatMap (fun i =>
    let e0 := s.rdw (at_ c.root.toNat i)
    if !(goodPointer e0) then [] else
    (s.entriesIn (physLpddr (next e0)) 512).flatMap (fun j =>
      let e1 := s.rdw (at_ (next e0) j)
      let v1 : Word := BitVec.ofNat 64 (i * 2 ^ 39 + j * 2 ^ 30)
      if bit e1 1 then leafIf c (at_ (next e0) j) v1 30 e1 else
      if !(goodPointer e1) then [] else
      (s.entriesIn (physLpddr (next e1)) 512).flatMap (fun k =>
        let e2 := s.rdw (at_ (next e1) k)
        let v2 := v1 + BitVec.ofNat 64 (k * 2 ^ 21)
        if bit e2 1 then leafIf c (at_ (next e1) k) v2 21 e2 else
        if !(goodPointer e2) then [] else
        (s.entriesIn (physLpddr (next e2)) 32).flatMap (fun m =>
          leafIf c (at_ (next e2) m) (v2 + BitVec.ofNat 64 (m * 2 ^ 16)) 16 (s.rdw (at_ (next e2) m))))))

/-- The page of a leaf, as a translation cache would hold it. -/
def LeafAt.page (l : LeafAt) (id : Nat) : Tlb :=
  { place := 0, ctx := id, page := l.va.toNat / 2 ^ l.size, bits := l.size, leaf := l.entry }

/-- The pages of a context: those whose translations are cached, and those of its tables (13 R358, R362). -/
def State.pagesOf (s : State) (id : Nat) : List Tlb :=
  s.mdies.flatMap (fun d => d.2.tlb.filter (fun t => t.ctx == id)) ++
    (match s.ctx? id with
     | some c => (s.leaves c).map (fun l => l.page id)
     | none => [])

/-- The line of a page of a context that lies at a physical place, if any (13 R361). -/
def Ctx.lineIn (c : Ctx) (t : Tlb) (p : Nat) : Option Nat :=
  let base := bits t.leaf 12 44 * 4096
  let first := t.page * 2 ^ t.bits / 128
  let n := c.hset.length
  match bits t.leaf 8 2 with
  | 0 =>
    let off := p % 2 ^ 32
    if !(p / 2 ^ 64 == 3) || off < base then none else
    (((List.range n).map (fun j => (off - base) / 128 * n + j)).find? (fun i => decide (i < 2 ^ t.bits / 128) &&
      c.homeOf (BitVec.ofNat 64 ((first + i) * 128)) == p % 2 ^ 64 / 2 ^ 32)).map (fun i => first + i)
  | b =>
    let a := p % 2 ^ 64
    if p / 2 ^ 64 + 1 == b && decide (base ≤ a) && decide (a < base + 2 ^ t.bits) then some (first + (a - base) / 128) else none

/-- The lines of a context that name a physical place: its synonyms there (13 R364). -/
def State.namesOf (s : State) (id p : Nat) : List Nat :=
  match s.ctx? id with
  | some c => (s.pagesOf id).filterMap (fun t => c.lineIn t p)
  | none => []

/-- The aliases of context memory under which an L1 or a remote-line cache holds a line. -/
def State.heldLines (s : State) : List (Nat × Nat) :=
  ((s.clusters.flatMap (fun c => c.2.l1.map (fun l => (l.ctx, l.line))) ++
    s.mdies.flatMap (fun d => d.2.rlc.map (fun l => (l.ctx, l.line)))).filter (fun a => decide (a.2 < 2 ^ 48))).eraseDups

/-- The held lines that a range of a context names, under their own alias or another (09 R248, 13 R364). -/
def State.linesIn (s : State) (c : Ctx) (lo hi : Nat) : List (Nat × Nat) :=
  let inR := fun (l : Nat) => decide (lo < hi) && decide (lo < (l + 1) * 128) && decide (l * 128 < hi)
  s.heldLines.filter (fun a => (a.1 == c.id && inR a.2) ||
    (match s.physOf a.1 a.2 with
     | some p => (s.namesOf c.id p).any inR
     | none => false))

/-- A line of the panel belongs to a page that an XINV names: under its own alias, whose page may have lost its translation, or under
another (13 R364, R366). -/
def State.invalidates (s : State) (id sz : Nat) (range : Option (Nat × Nat)) (c l : Nat) : Bool :=
  let pages := s.pagesOf id
  let gone := pages.filter (fun t => t.selected id sz range)
  let lost : Tlb := { place := 0, ctx := id, page := l * 128 / 2 ^ 16, bits := 16, leaf := 0 }
  decide (l < 2 ^ 48) &&
    ((c == id && (gone.any (fun t => t.covers l) || (!(pages.any (fun t => t.covers l)) && lost.selected id 0 range))) ||
      (match s.ctx? id, s.physOf c l with
       | some x, some p => gone.any (fun t => (x.lineIn t p).isSome)
       | _, _ => false))

/-- The lines of a context that a test picks leave every L1. -/
def State.dropWhere (s : State) (hit : Nat → Nat → Bool) : State :=
  s.clusters.foldl (fun s c => (c.2.l1.filter (fun l => hit l.ctx l.line)).foldl (fun s l => s.dropLine c.1 l.ctx l.line) s) s

/-- The L1 lines of `n` bytes of a memory die's weight store dropped from every cluster (08 R199; 13 R368). -/
def State.dropWeight (s : State) (die off n : Nat) : State :=
  s.dropWhere (fun _ line => line / 2 ^ 45 == 0xA && line / 2 ^ 30 % 256 == die && decide (line % 2 ^ 24 * 128 < off + n) &&
    decide (off < (line % 2 ^ 24 + 1) * 128))

/-- XINV's effect: the selected translations are removed, and every line of their pages is written back and invalidated, recalled from
the host, a line of the host's own with its message (13 R366; 08 R196, R203). -/
def State.invalidate (s : State) (id sz : Nat) (range : Option (Nat × Nat)) : State :=
  let hit := s.invalidates id sz range
  let s := s.mdies.foldl (fun s d => (d.2.rlc.filter (fun l => hit l.ctx l.line)).foldl (fun s l => s.evictRemote d.1 l.ctx l.line) s) s
  let s := s.mdies.foldl (fun s d => (d.2.dir.filter (fun e => hit e.ctx e.line)).foldl (fun s e => s.evictEntry d.1 e) s) s
  let s := s.dropWhere hit
  { s with mdies := s.mdies.map (fun d => (d.1, { d.2 with
      tlb := d.2.tlb.filter (fun t => !(t.selected id sz range))
      remap := d.2.remap.filter (fun e => !(hit e.ctx e.line)) })) }

/-- A line of context memory, by its alias, written back from every L1 and remote-line cache: M, O and dirty copies become clean, and
a dirty line of the host's own goes back to it; with `inv` every panel copy is invalidated (09 R248; 08 R203). Without `inv` the spec
names neither the message nor the state that follow: the host is sent DirtyEvict and the panel keeps the line in E (DESIGN CHOICE, log
8). -/
def State.cleanLine (s : State) (inv : Bool) (id line : Nat) : State :=
  let home := s.homeOfLine id line
  if inv then
    let s := if ((s.mdie home).rlcState id line).isSome then s.evictRemote home id line else s.recall home id line
    s.dropLines id line (s.clusters.map Prod.fst)
  else
    let dirty := (match (s.mdie home).rlcState id line with | some .m => true | _ => false) || s.dirtyIn id line
    let s := match s.physOf id line with
      | some p => if dirty && p / 2 ^ 64 == 2 then s.hostRequest p 5 else s
      | none => s
    { s with
      clusters := s.clusters.map (fun x => (x.1, { x.2 with l1 := x.2.l1.map (fun l =>
        if l.ctx == id && l.line == line then { l with st := (match l.st with | .m => Moesi.e | .o => Moesi.s | x => x) } else l) }))
      mdies := s.mdies.map (fun d => (d.1, { d.2 with
        rlc := d.2.rlc.map (fun l => if l.ctx == id && l.line == line then { l with st := (match l.st with | .m => Moesi.e | x => x) } else l)
        dir := d.2.dir.map (fun e => if e.ctx == id && e.line == line then
          { e with st := (match e.st with | .m => Moesi.e | .o => Moesi.s | x => x) } else e) })) }

/-- The place of an address of a context, where its leaf gives one (13 R361). -/
def State.placeOf (s : State) (c : Ctx) (va : Word) : Option Nat :=
  if !(isContextVa va) then none else
  match s.leafOf c va with
  | .fault => none
  | .leaf e n => s.leafPhys c va e n

/-- The memory die of a host port (01 R26). -/
def portDie (n : Nat) : Nat := 40 + 16 * (n % 4)

/-- Where a host's CXL.mem access reaches panel memory: the context and the place that the translation unit of its port's die gives;
CXL memory is private to the panel (08 R204; 13 R363). The input names the port, a context and an address of it. -/
def State.hdmAt (s : State) (x : Input) : Option (Ctx × Nat) :=
  match s.ctx? x.unit with
  | none => none
  | some c =>
    if !(isContextVa x.addr) then none else
    match s.leafAt (portDie x.port) c x.addr with
    | .fault => none
    | .leaf e n =>
      match s.leafPhys c x.addr e n with
      | none => none
      | some p => if p / 2 ^ 64 == 1 || p / 2 ^ 64 == 2 then none else some (c, p)

/-- The host holds the line of an address of a core's context: its copy must go before the line is held M (08 R202, R204). -/
def State.hostShares (s : State) (k : Nat) (va : Word) : Bool :=
  match s.ctxOfCore k, s.bytePlace k va with
  | some c, some p =>
    let a := s.aliasOf c va p
    (match (s.mdie (s.homeOfLine a.1 a.2)).entry? a.1 a.2 with | some e => e.host | none => false)
  | _, _ => false

end Sys2Proof.Machine
end

