-- ==== Sys2Proof/Machine/Detect.lean ====
section
/-! DEFINITION. The conflict detector of deterministic mode (12 R340, R341): intervals and their order, kept as clocks of
threads and synchronising objects, and the signatures of accesses. Outside deterministic mode nothing here acts. -/

namespace Sys2Proof.Machine

/-- A thread as the detector names it. -/
def tid (k t : Nat) : Nat := k * 8 + t % 8

/-- A copy command as the detector names it. -/
def copyWho (k t id : Nat) : Nat := (id + 1) * 2 ^ 20 + tid k t

/-- The matrix engine of a core as the detector names it. -/
def matrixWho (k : Nat) : Nat := 2 ^ 19 + k

/-- A semaphore, an inbox, a batch of a core, a tile row, a frame and a group as locations or synchronising objects. -/
def semObj (k n : Nat) : Nat := 2 ^ 80 + k * 256 + n

/-- An inbox. -/
def inboxObj (k : Nat) : Nat := 2 ^ 81 + k

/-- A batch of a core. -/
def batchObj (k n : Nat) : Nat := 2 ^ 82 + k * 2 ^ 16 + n

/-- A row of a tile. -/
def tileObj (k t r : Nat) : Nat := 2 ^ 83 + k * 1024 + t % 32 * 32 + r % 32

/-- The join line of a frame. -/
def frameObj (f : Word) : Nat := 2 ^ 84 + f.toNat

/-- A continuation or a placed task, by its frame. -/
def contObj (f : Word) : Nat := 2 ^ 85 + f.toNat

/-- A launch, whose completion orders everything of it. -/
def launchObj (n : Nat) : Nat := 2 ^ 87 + n

/-- The word of a completion signal, by its place. -/
def compObj (p : Nat) : Nat := 2 ^ 88 + p / 8

/-- The larger count of each. -/
def joinClocks (a b : AMap Nat) : AMap Nat := b.foldl (fun m x => AMap.set m x.1 (max (AMap.getD 0 m x.1) x.2)) a

/-- What precedes an object's next acquire. -/
def Ctx.clock (c : Ctx) (obj : Nat) : AMap Nat := AMap.getD [] c.clocks obj

/-- A thread's clock with its own interval. -/
def Thread.clock (th : Thread) (k t : Nat) : AMap Nat := AMap.set th.vc (tid k t) th.ivl

/-- The issuing thread's place in the detector's order (12 R340). -/
def State.stampNow (s : State) : Stamp :=
  match s.ctxOfCore s.cur.core with
  | some c => if c.det then { ivl := s.th.ivl, q := c.quantum, bno := s.th.retired, seen := s.th.vc } else Stamp.none
  | none => Stamp.none

/-- A new interval of a thread (12 R340). -/
def State.newInterval (s : State) (k t : Nat) : State :=
  if s.detAt k then s.modThread k t (fun th => { th with ivl := th.ivl + 1 }) else s

/-- An object's clock joined with another one. -/
def State.releaseClock (s : State) (k obj : Nat) (m : AMap Nat) : State :=
  if s.detAt k then s.modCtx (s.core k).owner (fun c => { c with clocks := AMap.set c.clocks obj (joinClocks (c.clock obj) m) }) else s

/-- A release by a thread (08 R218). It carries all that precedes it: the order of 12 R340 is made by program order and the edges of
08 R218, an edge runs from the release to the acquire that observes it, and the sets of 08 R218 say what is performed by then (DEDUCED,
log 23). -/
def State.release (s : State) (k t obj : Nat) : State :=
  (s.releaseClock k obj ((s.thread k t).clock k t)).newInterval k t

/-- An acquire by a thread (08 R218). -/
def State.acquire (s : State) (k t obj : Nat) : State :=
  match s.ctxOfCore k with
  | some c => if c.det then
      s.modThread k t (fun th => { th with vc := joinClocks th.vc (c.clock obj), ivl := th.ivl + 1 }) else s
  | none => s

/-- The quantum in which an access performed now lies: while the end of a quantum is served, the next one (12 R335, R341). The spec does not
say in which quantum an access lies whose bundle retires in one quantum and that is performed in a later one: the model takes the quantum
in which it is performed, whose end has still to come (DESIGN CHOICE, log 23). -/
def State.noteQuantum (s : State) (k : Nat) : Nat :=
  match s.ctxOfCore k with
  | some c => c.quantum + if c.stopping then 1 else 0
  | none => 0

/-- The words of a load of a thread that hold completion signals are observed: what the launches did precedes what follows (08 R218). -/
def State.observe (s : State) (k t p n : Nat) : State :=
  match s.ctxOfCore k with
  | some c => if c.det then
      (List.range ((p % 8 + n + 7) / 8)).foldl (fun s j =>
        if (c.clock (compObj (p + 8 * j))).isEmpty then s else s.acquire k t (compObj (p + 8 * j))) s
      else s
  | none => s

/-- A signature recorded, once (12 R340). -/
def State.noteAt (s : State) (k t who : Nat) (st : Stamp) (kind : SigKind) (key : Nat) (loc : Word) : State :=
  if s.detAt k then
    let x : Sig := { core := k, thr := t % 8, who := who, ivl := st.ivl, q := s.noteQuantum k, bundle := st.bno, key := key, loc := loc,
                     kind := kind, seen := st.seen }
    s.modCtx (s.core k).owner (fun c => if c.sigs.contains x then c else { c with sigs := c.sigs ++ [x] })
  else s

/-- The aligned words of `n` bytes of memory accessed (12 R340). -/
def State.noteMem (s : State) (k t who : Nat) (st : Stamp) (kind : SigKind) (va : Word) (p n : Nat) : State :=
  if s.detAt k then
    (List.range ((p % 8 + n + 7) / 8)).foldl (fun s j =>
      s.noteAt k t who st kind (p / 8 + j) (BitVec.ofNat 64 (va.toNat / 8 * 8 + 8 * j))) s
  else s

/-- A tile row accessed, as the conflict record names it (12 R341). -/
def State.noteTile (s : State) (k t who : Nat) (st : Stamp) (kind : SigKind) (tile row : Nat) : State :=
  s.noteAt k t who st kind (tileObj k tile row) (BitVec.ofNat 64 (0x00FFFF0000000000 + 128 * (row % 32) + 4096 * (tile % 32)))

/-- A semaphore consumed (12 R341). -/
def State.noteSem (s : State) (k t : Nat) (st : Stamp) (n : Nat) : State :=
  s.noteAt k t (tid k t) st .consume (semObj k n) (BitVec.ofNat 64 (0x00FFFE0000000000 + 2 * n))

/-- A message taken (12 R341). -/
def State.noteInbox (s : State) (k t : Nat) (st : Stamp) : State :=
  s.noteAt k t (tid k t) st .consume (inboxObj k) 0x00FFFD0000000000

/-- One access precedes another (12 R340). -/
def Sig.precedes (a b : Sig) : Bool := a.who == b.who || decide (a.ivl ≤ AMap.getD 0 b.seen a.who)

/-- A pair of accesses conflicts (12 R341). -/
def Sig.conflicts (a b : Sig) : Bool :=
  a.key == b.key && !(a.core == b.core && a.thr == b.thr) && !(a.precedes b) && !(b.precedes a) &&
    (match a.kind, b.kind with
     | .write, .write | .write, .read | .read, .write => true
     | .consume, .consume => true
     | .produce, .produce => true
     | _, _ => false)

/-- An access counts as a write in its record. -/
def Sig.isWrite (a : Sig) : Bool :=
  match a.kind with
  | .write | .produce => true
  | .read | .consume => false

end Sys2Proof.Machine
end

