-- ==== Sys2Proof/Machine/Operands.lean ====
section
/-! DEFINITION. Operand forms: effective addresses, the issue checks of an access, its pieces and range-slot tags, access
entries and the fence that holds them, scopes and control-register rights. -/

namespace Sys2Proof.Machine

/-- The address of an A.M form: base plus the offset in units of the access size (02 R40, 09 R230). -/
def addrM (base : Word) (o : BitVec 13) (size : Nat) : Word := base + sx o * BitVec.ofNat 64 size

/-- The first byte of an access that its first byte's region does not hold, with bytes taken in order (09 R222). A byte of valid
format that lies beyond context memory counts as one that fails the format check: for an access that runs out of context memory into
another region the spec names no cause (DESIGN CHOICE, log 25). -/
def firstBadByte (a : Word) (n : Nat) : Option Word :=
  let last := a + BitVec.ofNat 64 (n - 1)
  if !(formatBad last) && (isContextVa a == isContextVa last) then none
  else ((List.range n).map (fun j => a + BitVec.ofNat 64 j)).find? (fun b => formatBad b || !(isContextVa a == isContextVa b))

/-- The watched word overlaps an access (02 R61, 09 R222 step 7). -/
def Thread.watches (th : Thread) (a : Word) (n : Nat) : Bool :=
  decide (th.mode = .user) && bit th.dbgc 2 && decide (bits th.dbgc 3 53 * 8 < a.toNat + n) &&
    decide (a.toNat < bits th.dbgc 3 53 * 8 + 8)

/-- The issue checks of one access, in the order of 09 R222, but for the watchpoint, with the cause the form gives its
format check: the cause and KVAL, if any. `block` is the check the form's own block adds. -/
def State.accessCheck (s : State) (kind : AccKind) (fmt : Nat) (aligned : Bool) (a : Word) (n : Nat)
    (block : Option (Nat × Word)) : Option (Nat × Word) :=
  if formatBad a then some (fmt, a) else
  match s.scratchOf s.cur.core a with
  | some (_, _, off) =>
    if aligned && !(a.toNat % n == 0) then some (7, a) else
    if 2 ^ 18 < off + n then some (16, a) else
    (match s.windowCause s.cur.core s.src.mode kind a with
     | some c => some (c, a)
     | none => block)
  | none =>
    match firstBadByte a n with
    | some b => some (fmt, b)
    | none =>
      if aligned && !(a.toNat % n == 0) then some (7, a) else
      match s.extentCause s.cur.core s.src.mode kind a n with
      | some c => some c
      | none => if accWrites kind && vaRegion a == 0xA then some (53, a) else block

/-- The issue checks of an access of a form (09 R222). -/
def State.issueCheck (s : State) (kind : AccKind) (fmt : Nat) (aligned : Bool) (a : Word) (n : Nat)
    (block : Option (Nat × Word)) : Option (Nat × Word) :=
  match s.accessCheck kind fmt aligned a n block with
  | some c => some c
  | none => if s.src.watches a n then some (41, a) else none

/-- The format cause of a kind of access (08 R185). -/
def formatCause (kind : AccKind) : Nat := if accWrites kind then 10 else 9

/-- The aligned 16-byte pieces of an access, in address order (08 R208). -/
def piecesFrom (fuel : Nat) (a : Word) (n off : Nat) : List Piece :=
  match fuel with
  | 0 => []
  | f + 1 =>
    if n = 0 then [] else
    let k := min n (16 - a.toNat % 16)
    { addr := a, size := k, off := off } :: piecesFrom f (a + BitVec.ofNat 64 k) (n - k) (off + k)

/-- The pieces of an access of up to 128 bytes: a naturally aligned one of up to 16 bytes is one piece (08 R208). -/
def piecesOf (a : Word) (n : Nat) : List Piece := piecesFrom 9 a n 0

/-- Whether an interval of a range slot meets one of an access (08 R213). -/
def meets (c : Word × Nat) (a : Word) (n : Nat) : Bool :=
  decide (c.1.toNat < a.toNat + n) && decide (a.toNat < c.1.toNat + c.2)

/-- The range slots an access is tagged with: each that covers any of its bytes, or slot 0 (08 R213). -/
def Thread.tags (th : Thread) (l : List (Word × Nat)) : List Nat :=
  let hit := (List.range 16).filter (fun i => 1 ≤ i &&
    (th.range (BitVec.ofNat 4 i)).cover.any (fun c => l.any (fun x => meets c x.1 x.2)))
  if hit.isEmpty then [0] else hit

/-- A slot is in a mask (08 R214). -/
def inMask (m : BitVec 16) (slots : List Nat) : Bool := slots.any (fun i => m.getLsbD i)

/-- Whether an access-table form reads (09 R229 counts it in L). -/
def AccForm.isLoad : AccForm → Bool
  | .load _ _ | .loadPair | .vload | .fe | .read => true
  | .store | .vstore | .sto | .msg _ _ _ | .clean _ => false

/-- Whether an access-table form writes (09 R245). -/
def AccForm.isStore : AccForm → Bool
  | .store | .vstore | .sto | .msg _ _ _ | .clean _ | .fe => true
  | .load _ _ | .loadPair | .vload | .read => false

/-- An ordered-class form (10 R274). -/
def AccForm.isOrdered : AccForm → Bool
  | .sto => true
  | .msg _ _ o => o
  | .load _ _ | .loadPair | .store | .vload | .vstore | .fe | .read | .clean _ => false

/-- Whether an entry counts in L: every full/empty form does, from its sending (09 R221, R229). -/
def AccEntry.isLoad (e : AccEntry) : Bool := AccForm.isLoad e.form

/-- Whether an entry counts among the stores of 09 R245. -/
def AccEntry.isStore (e : AccEntry) : Bool :=
  match e.form with
  | .fe => !(e.op == 0x3A || (e.op == 0x3E && e.fn == 0))
  | f => AccForm.isStore f

/-- An access entry's bytes. -/
def AccEntry.cover (e : AccEntry) : List (Word × Nat) := e.pieces.map (fun p => (p.addr, p.size))

/-- Two accesses touch a common byte (08 R207). -/
def overlap (l r : List (Word × Nat)) : Bool := l.any (fun x => r.any (fun y => meets x y.1 y.2))

/-- Two accesses of a core touch a common byte, under one name or two: the own scratchpad through 0x8, 0x9 or 0xB, or two virtual
lines of one physical line (08 R186, R206, R207; 13 R364). -/
def State.common (s : State) (k : Nat) (l r : List (Word × Nat)) : Bool :=
  overlap l r || l.any (fun x => r.any (fun y =>
    match s.bytePlace k x.1, s.bytePlace k y.1 with
    | some p, some q => decide (p < q + y.2) && decide (q < p + x.2)
    | _, _ => false))

/-- Two accesses touch a common 128-byte line (09 R224). -/
def sameLine (l r : List (Word × Nat)) : Bool :=
  l.any (fun x => r.any (fun y => decide (x.1.toNat / 128 ≤ (y.1.toNat + y.2 - 1) / 128) &&
    decide (y.1.toNat / 128 ≤ (x.1.toNat + x.2 - 1) / 128)))

/-- The size in bytes of a latched atomic: 16 for CAS.Q, 8 or 4 (09 R235 to R237). -/
def Latch.size (l : Latch) : Nat :=
  if l.op = 0x41 then (if l.fn.toNat % 4 = 2 then 16 else if l.fn.toNat % 4 = 1 then 8 else 4)
  else if l.fn.getLsbD 5 then 8 else 4

/-- The latch's bytes. -/
def Latch.cover (l : Latch) : List (Word × Nat) := [(l.addr, l.size)]

/-- The wait of a fence on loads: L of the previous epoch (09 R229, R245). -/
def Thread.loadsLeft (th : Thread) (f : Fence) : Bool :=
  th.acc.any (fun e => decide (e.epoch ≤ f.epoch) && e.isLoad) ||
    (match th.latch with | some l => decide (l.epoch ≤ f.epoch) | none => false)

/-- Record `i` of a stream lies here (10 R265). -/
def recordAddr (base shape : Word) (i : Nat) : Word := base + BitVec.ofNat 64 i * sx (shape.setWidth 32)

/-- A refill or drain that a thread began before a fence is in flight over a slot of its mask (10 R267). -/
def Thread.streamsLeft (th : Thread) (f : Fence) : Bool :=
  let left := fun (base shape : Word) (wr : Bool) (first : Nat) (recs : List StreamRec) =>
    (recs.zip (List.range recs.length)).any (fun x => (wr || !x.1.arrived) && decide (x.1.epoch ≤ f.epoch) &&
      inMask f.mask (th.tags [(recordAddr base shape (first + x.2), 128)]))
  th.streams.toList.any (fun w => left w.base w.shape w.writing w.first w.recs) ||
    th.drains.any (fun w => left w.base w.shape true w.first w.recs)

/-- The wait of a fence on its mask: A(i) of the previous epoch for every i in M, copy commands included under fn [2]
(09 R229, R245). -/
def State.maskLeft (s : State) (k t : Nat) (f : Fence) : Bool :=
  let th := s.thread k t
  th.acc.any (fun e => decide (e.epoch ≤ f.epoch) && inMask f.mask e.slots) ||
    (match th.latch with | some l => decide (l.epoch ≤ f.epoch) && inMask f.mask l.slots | none => false) ||
    (f.e && ((s.core k).copies.any (fun c => c.thr == t && decide (c.epoch ≤ f.epoch) && inMask f.mask c.slots) ||
      th.streamsLeft f))

/-- The wait of a pod-scope fence on host reach: H of the previous epoch (09 R229, R245). -/
def Thread.hostLeft (th : Thread) (f : Fence) : Bool :=
  decide (f.scope = BitVec.allOnes 64) && th.hosts.any (fun h => decide (h.1 ≤ f.epoch))

/-- The wait of a fence with fn [3] on the thread's earlier matrix operations (09 R245, 07 R165). A drained operation is waited for
until it leaves the queue with its last group; whether its rows must have been released too the spec does not say (DESIGN CHOICE, log
25). -/
def State.matrixLeft (s : State) (k : Nat) (f : Fence) : Bool :=
  f.m && (s.core k).mq.any (fun o => f.mops.contains o.seq.toNat)

/-- The wait that holds later accesses in M is not met; host reach holds stores only (09 R245). -/
def State.fenceHoldsMasked (s : State) (k t : Nat) (f : Fence) (store : Bool) : Bool :=
  match f.kind with
  | .acq | .acqrel => (s.thread k t).loadsLeft f || s.matrixLeft k f || (store && (s.thread k t).hostLeft f)
  | .rel => false
  | .seq => (s.thread k t).loadsLeft f || s.maskLeft k t f || s.matrixLeft k f || (store && (s.thread k t).hostLeft f)

/-- The wait that holds later stores is not met (09 R245). -/
def State.fenceHoldsStores (s : State) (k t : Nat) (f : Fence) : Bool :=
  match f.kind with
  | .acq => false
  | .rel => s.maskLeft k t f || s.matrixLeft k f || (s.thread k t).hostLeft f
  | .acqrel | .seq => (s.thread k t).loadsLeft f || s.maskLeft k t f || s.matrixLeft k f || (s.thread k t).hostLeft f

/-- A fence still waits (09 R244). -/
def State.fenceWaits (s : State) (k t : Nat) (f : Fence) : Bool :=
  match f.kind with
  | .acq => (s.thread k t).loadsLeft f || s.matrixLeft k f || (s.thread k t).hostLeft f
  | .rel => s.maskLeft k t f || s.matrixLeft k f || (s.thread k t).hostLeft f
  | .acqrel | .seq => (s.thread k t).loadsLeft f || s.maskLeft k t f || s.matrixLeft k f || (s.thread k t).hostLeft f

/-- The thread's fence holds an access of a later epoch at the core (09 R245). -/
def State.fenceHolds (s : State) (k t epoch : Nat) (slots : List Nat) (store : Bool) : Bool :=
  match (s.thread k t).fence with
  | none => false
  | some f => decide (f.epoch < epoch) &&
    ((inMask f.mask slots && s.fenceHoldsMasked k t f store) || (store && s.fenceHoldsStores k t f))

/-- An access must wait at the core: behind a fence, behind an earlier access of the thread to a common byte that has not
been performed, or behind a held access to the same line (08 R207, 09 R224, R245). Entries that `skip` picks do not count. -/
def State.mustWaitBut (s : State) (skip : AccEntry → Bool) (k t ord epoch : Nat) (slots : List Nat) (store : Bool)
    (cover : List (Word × Nat)) : Bool :=
  let th := s.thread k t
  s.fenceHolds k t epoch slots store ||
    th.acc.any (fun e => decide (e.ord < ord) && !(skip e) &&
      ((decide (e.done < e.pieces.length) && s.common k e.cover cover) || (e.held.isSome && sameLine e.cover cover))) ||
    (match th.latch with
     | some l => decide (l.ord < ord) && l.answer.isNone &&
        (s.common k l.cover cover || (l.cause.isSome && sameLine l.cover cover))
     | none => false)

/-- An access must wait at the core, whatever its kind. -/
def State.mustWait (s : State) (k t ord epoch : Nat) (slots : List Nat) (store : Bool) (cover : List (Word × Nat)) : Bool :=
  s.mustWaitBut (fun _ => false) k t ord epoch slots store cover

/-- An entry of the access table with a free place (09 R221). -/
def Thread.accFull (th : Thread) : Bool := decide (16 ≤ th.acc.length)

/-- A new entry of the issuing thread, tagged and numbered (09 R221, R225, R229; 08 R213). -/
def State.newEntry (s : State) (form : AccForm) (op fn d : Nat) (a : Word) (pieces : List Piece) (data : Vec) : AccEntry :=
  { seq := s.th.aseq, form := form, op := BitVec.ofNat 7 op, fn := BitVec.ofNat 7 fn, d := d, addr := a, pieces := pieces,
    done := 0, data := data, slots := s.src.tags (pieces.map (fun p => (p.addr, p.size))), epoch := s.th.epoch,
    spawn := s.th.spawns, held := none, key := none, mode := s.src.mode, sent := false, ord := s.th.acount,
    since := s.clock, arrived := false, req := s.reqNo, offs := 0, stamp := s.stampNow }

/-- The range slots of the elements of an access, each tagged on its own (09 R231). -/
def Thread.tagsEach (th : Thread) (l : List (Word × Nat)) : List Nat := (l.flatMap (fun x => th.tags [x])).eraseDups

/-- An access to the scratchpad of a core that the thread issued before `ord` and that has not been performed (08 R218, R220). -/
def State.scratchLeft (s : State) (k t ord : Nat) (target : Nat × Nat) : Bool :=
  let here := fun (a : Word) => (s.scratchOf k a).any (fun x => x.1 == target.1 && x.2.1 == target.2)
  (s.thread k t).acc.any (fun e => decide (e.ord < ord) && decide (e.done < e.pieces.length) && e.pieces.any (fun p => here p.addr)) ||
    (match (s.thread k t).latch with
     | some l => decide (l.ord < ord) && l.answer.isNone && here l.addr
     | none => false)

/-- An entry put into the issuing thread's access table (09 R221, R225). -/
def State.addEntry (s : State) (e : AccEntry) : State :=
  s.modTh (fun th => { th with
    acc := th.acc ++ [e], aseq := th.aseq + 1, acount := th.acount + 1,
    qseq := if e.form.isOrdered then th.qseq + 1 else th.qseq })

/-- An entry of a thread by its sequence number. -/
def Thread.entry? (th : Thread) (n : Nat) : Option AccEntry := th.acc.find? (fun e => e.seq.toNat == n)

/-- An entry changed. -/
def Thread.modEntry (th : Thread) (n : Nat) (f : AccEntry → AccEntry) : Thread :=
  { th with acc := th.acc.map (fun e => if e.seq.toNat == n then f e else e) }

/-- An entry freed (09 R226). -/
def Thread.dropEntry (th : Thread) (n : Nat) : Thread := { th with acc := th.acc.filter (fun e => !(e.seq.toNat == n)) }

/-- Registers of the thread's mode marked pending (02 R38); s0 never is. -/
def Thread.mark (th : Thread) (l : List RegName) : Thread :=
  { th with pend := th.pend ++ (l.filter (fun r => !(decide (r = .s 0)))).map (bankName th.mode) }

/-- Pending marks of registers of a mode cleared (02 R38). -/
def Thread.unmark (th : Thread) (m : Mode) (l : List RegName) : Thread :=
  { th with pend := th.pend.filter (fun r => !((l.map (bankName m)).contains r)) }

/-- Cores of a scope rectangle (08 R210). -/
def scopeRect (x : Word) : BitVec 32 := x.setWidth 32

/-- The pod scope (08 R210). -/
def podScope : Word := BitVec.allOnes 64

/-- A scope value whose layout is invalid, whoever gives it (08 R211, the first three cases). -/
def scopeLayoutBad (x : Word) : Bool :=
  !(bits x 40 24 == 0) || decide (bits x 16 8 < bits x 0 8) || decide (bits x 24 8 < bits x 8 8) ||
    decide (127 < bits x 16 8) || decide (127 < bits x 24 8) || (decide (144 ≤ bits x 32 8) && decide (bits x 32 8 < 255))

/-- The cores of a rectangle. -/
def rectCores (r : BitVec 32) : List Nat :=
  let x0 := r.toNat % 256
  let y0 := r.toNat / 2 ^ 8 % 256
  let x1 := r.toNat / 2 ^ 16 % 256
  let y1 := r.toNat / 2 ^ 24 % 256
  (List.range (y1 + 1 - y0)).flatMap (fun j => (List.range (x1 + 1 - x0)).map (fun i => (y0 + j) * 128 + (x0 + i)))

/-- The rectangle lies wholly in a context's partition (13 R355). -/
def Ctx.holdsRect (c : Ctx) (r : BitVec 32) : Bool :=
  c.inPartition (r.toNat / 2 ^ 8 % 256 * 128 + r.toNat % 256) &&
    c.inPartition (r.toNat / 2 ^ 24 % 256 * 128 + r.toNat / 2 ^ 16 % 256)

/-- A window grant names a core, whatever it permits (08 R211). -/
def Ctx.windowTo (c : Ctx) (own : Bool) (panel k : Nat) : Bool :=
  c.wins.any (fun w => inRect w.rect k && (w.panel == panel || (w.panel == 0xFF && own)))

/-- A scope value invalid for a context (08 R211). On a core with no owning context, which the spec does not speak of, every scope
but the pod scope is invalid (DESIGN CHOICE, log 25). -/
def State.scopeBad (s : State) (c : Option Ctx) (x : Word) : Bool :=
  if x = podScope then false else
  scopeLayoutBad x ||
    (match c with
     | none => true
     | some c =>
       (!(s.ownPanel (bits x 32 8)) && !(c.panels.contains (bits x 32 8))) ||
         (!(c.holdsRect (scopeRect x)) &&
           (rectCores (scopeRect x)).any (fun k =>
             !(c.inPartition k) && !(c.windowTo (s.ownPanel (bits x 32 8)) (bits x 32 8) k))))

/-- A core of this panel lies in a scope. -/
def State.inScope (s : State) (x : Word) (k : Nat) : Bool :=
  decide (x = podScope) || (s.ownPanel (bits x 32 8) && inRect (scopeRect x) k)

/-- The cores with any state, in index order. -/
def State.touched (s : State) : List Nat := s.cores.map Prod.fst

/-- The lowest mode that holds any right on a control register (02 R50 to R62, R64). -/
def lowestRight (sel : Nat) : Nat :=
  if 0x1000 ≤ sel then 2 else if 0x100 ≤ sel || sel = 0x011 then 1 else 0

/-- A selector of the readback range that 15 R409 leaves unassigned. -/
def readbackUnassigned (sel : Nat) : Bool := decide (0x1006 ≤ sel)

/-- The bundle checks of step 5: PRIVILEGED, and in firmware mode an unassigned readback selector (02 R35, R64, R65; 03 R74). -/
def privileged (i : Instr) (s : State) : Bool :=
  match i with
  | .kret | .xinv _ _ _ | .xinvCtx _ _ | .rlatch _ | .gstop _ | .gresume _ | .dbgstep _ => decide (s.src.mode = .user)
  | .getc _ sel => decide (s.src.mode.level < lowestRight sel.toNat) || readbackUnassigned sel.toNat
  | .putc _ sel => decide (s.src.mode.level < lowestRight sel.toNat) || readbackUnassigned sel.toNat
  | _ => false

end Sys2Proof.Machine
end

