-- ==== Sys2Proof/Machine/Formats.lean ====
section
/-! DEFINITION. Number formats, exact values, rounding, flags and conversions (05). Values are held exactly as
sign, integer and power of two. -/

namespace Sys2Proof.Machine

/-- A value read from a floating format: a NaN, quiet or signalling; an infinity; or (−1)^neg × m × 2^e. -/
inductive FNum where
  | nan (signalling : Bool)
  | inf (neg : Bool)
  | fin (neg : Bool) (m : Nat) (e : Int)
  deriving DecidableEq, Repr

/-- What the encodings with the highest exponent field hold (05 R112). -/
inductive FKind where
  | ieee | e4m3 | finite
  deriving DecidableEq, Repr

/-- A floating format: exponent and mantissa bits, bias, and place in a container (05 R112, R113). -/
structure FFmt where
  e    : Nat
  m    : Nat
  bias : Nat
  kind : FKind
  pad  : Nat
  deriving DecidableEq, Repr

/-- A rounding mode; SR carries its 32 random bits (05 R120, R123). -/
inductive Round where
  | rne | rz | ru | rd
  | sr (bits : Nat)
  deriving DecidableEq, Repr

/-- A result: its bits and the flags raised, in FPF order (05 R125). -/
structure FRes where
  bits : Nat
  fl   : BitVec 5
  deriving DecidableEq, Repr

/-- NV, the invalid-operation flag (02 R54). -/
def flNV : BitVec 5 := 1

/-- DZ, division by zero. -/
def flDZ : BitVec 5 := 2

/-- OF, overflow. -/
def flOF : BitVec 5 := 4

/-- UF, underflow. -/
def flUF : BitVec 5 := 8

/-- NX, inexact. -/
def flNX : BitVec 5 := 16

/-- FP64 (05 R112). -/
def fp64 : FFmt := { e := 11, m := 52, bias := 1023, kind := .ieee, pad := 0 }

/-- FP32. -/
def fp32 : FFmt := { e := 8, m := 23, bias := 127, kind := .ieee, pad := 0 }

/-- FP19 in its 32-bit container (05 R113). -/
def fp19 : FFmt := { e := 8, m := 10, bias := 127, kind := .ieee, pad := 13 }

/-- BF16. -/
def bf16 : FFmt := { e := 8, m := 7, bias := 127, kind := .ieee, pad := 0 }

/-- FP16. -/
def fp16 : FFmt := { e := 5, m := 10, bias := 15, kind := .ieee, pad := 0 }

/-- E4M3. -/
def e4m3 : FFmt := { e := 4, m := 3, bias := 7, kind := .e4m3, pad := 0 }

/-- E5M2. -/
def e5m2 : FFmt := { e := 5, m := 2, bias := 15, kind := .ieee, pad := 0 }

/-- E3M2. -/
def e3m2 : FFmt := { e := 3, m := 2, bias := 3, kind := .finite, pad := 0 }

/-- E2M3. -/
def e2m3 : FFmt := { e := 2, m := 3, bias := 1, kind := .finite, pad := 0 }

/-- E2M1. -/
def e2m1 : FFmt := { e := 2, m := 1, bias := 1, kind := .finite, pad := 0 }

/-- A number format that is not a block format: floating, integer, ternary or binary (05 R111, R114). -/
inductive NFmt where
  | flt (f : FFmt)
  | int (w : Nat) (signed : Bool)
  | tern
  | bin
  deriving DecidableEq, Repr

/-- The format of a code, the element format for a block code (05 R111, R117). -/
def nfmtOf (code : Nat) : NFmt :=
  match code with
  | 0 => .flt fp64 | 1 => .flt fp32 | 2 => .flt fp19 | 3 => .flt bf16 | 4 => .flt fp16
  | 5 => .flt e4m3 | 6 => .flt e5m2 | 7 => .flt e3m2 | 8 => .flt e2m3 | 9 => .flt e2m1
  | 10 => .flt e4m3 | 11 => .flt e5m2 | 12 => .flt e3m2 | 13 => .flt e2m3 | 14 => .flt e2m1
  | 15 => .int 8 true | 16 => .flt e2m1
  | 17 => .int 16 true | 18 => .int 8 true | 19 => .int 8 false | 20 => .int 4 true | 21 => .int 4 false
  | 22 => .tern | _ => .bin

/-- Element width in bits of a format code, containers included (05 R111). -/
def codeWidth (code : Nat) : Nat :=
  match code with
  | 0 => 64 | 1 => 32 | 2 => 32 | 3 => 16 | 4 => 16 | 5 => 8 | 6 => 8 | 7 => 6 | 8 => 6 | 9 => 4
  | 10 => 8 | 11 => 8 | 12 => 6 | 13 => 6 | 14 => 4 | 15 => 8 | 16 => 4 | 17 => 16 | 18 => 8 | 19 => 8
  | 20 => 4 | 21 => 4 | 22 => 2 | _ => 1

/-- Block size of a block code; 0 for others (05 R116). -/
def blockSize (code : Nat) : Nat := if code = 16 then 16 else if 10 ≤ code ∧ code ≤ 15 then 32 else 0

/-- The format of an element type (05 R111). -/
def elemFmt : ElemType → NFmt
  | .i8 => .int 8 true | .i16 => .int 16 true | .i32 => .int 32 true | .i64 => .int 64 true
  | .f16 => .flt fp16 | .bf16 => .flt bf16 | .f32 => .flt fp32 | .f64 => .flt fp64

/-- Size in bytes of an element type (02 R48). -/
def elemSize : ElemType → Nat
  | .i8 => 1 | .i16 => 2 | .i32 => 4 | .i64 => 8 | .f16 => 2 | .bf16 => 2 | .f32 => 4 | .f64 => 8

/-- Bits of a number: the position of its highest set bit plus one. -/
def bitLen (n : Nat) : Nat := if n = 0 then 0 else Nat.log2 n + 1

/-- Bits of a format's encoding, container included. -/
def FFmt.width (f : FFmt) : Nat := 1 + f.e + f.m + f.pad

/-- Whether FTZ and DAZ act on a format (05 R122): the formats of 16 bits and more. -/
def FFmt.wide (f : FFmt) : Bool := decide (15 ≤ f.e + f.m)

/-- The value of an encoding (05 R112, R113, R118). -/
def FFmt.read (f : FFmt) (x : Nat) : FNum :=
  let y := x / 2 ^ f.pad
  let mant := y % 2 ^ f.m
  let ex := y / 2 ^ f.m % 2 ^ f.e
  let neg := y / 2 ^ (f.m + f.e) % 2 = 1
  if f.kind = .ieee ∧ ex = 2 ^ f.e - 1 then
    (if mant = 0 then .inf neg else .nan (mant / 2 ^ (f.m - 1) == 0))
  else if f.kind = .e4m3 ∧ ex = 2 ^ f.e - 1 ∧ mant = 2 ^ f.m - 1 then .nan false
  else if ex = 0 then .fin neg mant (1 - (f.bias : Int) - f.m)
  else .fin neg (2 ^ f.m + mant) ((ex : Int) - f.bias - f.m)

/-- A subnormal value of a format is read as a zero of its sign under DAZ (05 R122). -/
def FFmt.readDaz (f : FFmt) (daz : Bool) (x : Nat) : FNum :=
  match f.read x with
  | .fin neg m e => if daz && f.wide && decide (m < 2 ^ f.m) then .fin neg 0 e else .fin neg m e
  | v => v

/-- An encoding from its sign, exponent field and mantissa field. -/
def FFmt.pack (f : FFmt) (neg : Bool) (ex mant : Nat) : Nat :=
  ((if neg then 2 ^ (f.m + f.e) else 0) + ex * 2 ^ f.m + mant) * 2 ^ f.pad

/-- The canonical NaN (05 R118). -/
def FFmt.canonNan (f : FFmt) : Nat :=
  match f.kind with
  | .e4m3 => 0x7F
  | _ => f.pack false (2 ^ f.e - 1) (2 ^ (f.m - 1))

/-- The infinity of a sign. -/
def FFmt.infBits (f : FFmt) (neg : Bool) : Nat := f.pack neg (2 ^ f.e - 1) 0

/-- The encoding of the largest finite magnitude (05 R112). -/
def FFmt.maxBits (f : FFmt) (neg : Bool) : Nat :=
  match f.kind with
  | .ieee => f.pack neg (2 ^ f.e - 2) (2 ^ f.m - 1)
  | .e4m3 => f.pack neg (2 ^ f.e - 1) (2 ^ f.m - 2)
  | .finite => f.pack neg (2 ^ f.e - 1) (2 ^ f.m - 1)

/-- The zero of a sign. -/
def FFmt.zeroBits (f : FFmt) (neg : Bool) : Nat := f.pack neg 0 0

/-- Whether a magnitude `lo` + `rem` / 2^`sh` (0 < rem < 2^sh or rem = 0) rounds up in magnitude (05 R120, R123). -/
def roundsUp (r : Round) (neg : Bool) (lo rem sh : Nat) : Bool :=
  match r with
  | .rne => decide (2 ^ sh < 2 * rem) || (decide (2 * rem = 2 ^ sh) && lo % 2 == 1)
  | .rz => false
  | .ru => !neg && decide (0 < rem)
  | .rd => neg && decide (0 < rem)
  | .sr b => decide (2 ^ 32 ≤ rem * 2 ^ 32 / 2 ^ sh + b)

/-- A magnitude m × 2^e in units of 2^q, rounded, and whether it was inexact. -/
def roundUnits (r : Round) (neg : Bool) (m : Nat) (e q : Int) : Nat × Bool :=
  if q ≤ e then (m * 2 ^ (e - q).toNat, false)
  else
    let sh := (q - e).toNat
    let lo := m / 2 ^ sh
    let rem := m % 2 ^ sh
    (if roundsUp r neg lo rem sh then lo + 1 else lo, decide (0 < rem))

/-- What an overflow writes (05 R121); `sat`: the destination has no infinity. -/
def FFmt.overflow (f : FFmt) (sat : Bool) (r : Round) (neg : Bool) : Nat :=
  if sat then f.maxBits neg else
  match r with
  | .rne => f.infBits neg
  | .rz => f.maxBits neg
  | .ru => if neg then f.maxBits neg else f.infBits neg
  | .rd => if neg then f.infBits neg else f.maxBits neg
  | .sr _ => f.infBits neg

/-- A magnitude m × 2^e rounded to a format, with overflow, underflow and flushing (05 R120 to R122). -/
def FFmt.roundFin (f : FFmt) (sat ftz : Bool) (r : Round) (neg : Bool) (m : Nat) (e : Int) : FRes :=
  if m = 0 then { bits := f.zeroBits neg, fl := 0 } else
  let emin : Int := 1 - (f.bias : Int)
  let q := max (e + bitLen m - 1 - f.m) (emin - f.m)
  let (n, nx) := roundUnits r neg m e q
  let tooBig :=
    match f.read (f.maxBits false) with
    | .fin _ lm le => if le ≤ q then decide (lm < n * 2 ^ (q - le).toNat) else decide (lm * 2 ^ (le - q).toNat < n)
    | _ => false
  if tooBig then { bits := f.overflow (sat || !(decide (f.kind = .ieee))) r neg, fl := flOF ||| flNX } else
  let inexact : BitVec 5 := if nx then flNX else 0
  if n = 0 then { bits := f.zeroBits neg, fl := inexact } else
  if n < 2 ^ f.m then
    (if ftz && f.wide then { bits := f.zeroBits neg, fl := flUF ||| flNX }
     else { bits := f.pack neg 0 n, fl := if nx then flUF ||| flNX else 0 })
  else if n = 2 ^ (f.m + 1) then { bits := f.pack neg (q + 1 + f.m + f.bias).toNat 0, fl := inexact }
  else { bits := f.pack neg (q + f.m + f.bias).toNat (n - 2 ^ f.m), fl := inexact }

/-- Whether a value is a NaN, and a signalling one. -/
def FNum.isNan : FNum → Bool
  | .nan _ => true
  | _ => false

/-- A signalling NaN. -/
def FNum.isSnan : FNum → Bool
  | .nan b => b
  | _ => false

/-- The sign of a value. -/
def FNum.sign : FNum → Bool
  | .nan _ => false
  | .inf b => b
  | .fin b _ _ => b

/-- A value with its sign turned. -/
def FNum.negate : FNum → FNum
  | .nan b => .nan b
  | .inf b => .inf (!b)
  | .fin b m e => .fin (!b) m e

/-- NV where an operand is a signalling NaN (05 R119). -/
def nvOf (l : List FNum) : BitVec 5 := if l.any FNum.isSnan then flNV else 0

/-- A value with its sign as an integer in units of 2^q, for q at most its exponent. -/
def signedUnits (neg : Bool) (m : Nat) (e q : Int) : Int := (if neg then -1 else 1) * ((m * 2 ^ (e - q).toNat : Nat) : Int)

/-- The exact sum of two finite values, zeros by the rule of 05 R119. -/
def addFin (r : Round) (n1 : Bool) (m1 : Nat) (e1 : Int) (n2 : Bool) (m2 : Nat) (e2 : Int) : Bool × Nat × Int :=
  if m1 = 0 && m2 = 0 then (if n1 == n2 then (n1, 0, 0) else (decide (r = .rd), 0, 0)) else
  let q := min e1 e2
  let t := signedUnits n1 m1 e1 q + signedUnits n2 m2 e2 q
  if t = 0 then (decide (r = .rd), 0, 0) else (decide (t < 0), t.natAbs, q)

/-- Addition rounded once (05 R119, R120). -/
def FFmt.add (f : FFmt) (ftz : Bool) (r : Round) (a b : FNum) : FRes :=
  match a, b with
  | .fin n1 m1 e1, .fin n2 m2 e2 =>
    let (n, m, e) := addFin r n1 m1 e1 n2 m2 e2
    f.roundFin false ftz r n m e
  | .inf n1, .inf n2 => if n1 == n2 then { bits := f.infBits n1, fl := 0 } else { bits := f.canonNan, fl := flNV }
  | .inf n1, .fin _ _ _ => { bits := f.infBits n1, fl := 0 }
  | .fin _ _ _, .inf n2 => { bits := f.infBits n2, fl := 0 }
  | a, b => { bits := f.canonNan, fl := nvOf [a, b] }

/-- Multiplication rounded once. -/
def FFmt.mul (f : FFmt) (ftz : Bool) (r : Round) (a b : FNum) : FRes :=
  match a, b with
  | .fin n1 m1 e1, .fin n2 m2 e2 => f.roundFin false ftz r (xor n1 n2) (m1 * m2) (e1 + e2)
  | .inf n1, .inf n2 => { bits := f.infBits (xor n1 n2), fl := 0 }
  | .inf n1, .fin n2 m2 _ =>
    if m2 = 0 then { bits := f.canonNan, fl := flNV } else { bits := f.infBits (xor n1 n2), fl := 0 }
  | .fin n1 m1 _, .inf n2 =>
    if m1 = 0 then { bits := f.canonNan, fl := flNV } else { bits := f.infBits (xor n1 n2), fl := 0 }
  | a, b => { bits := f.canonNan, fl := nvOf [a, b] }

/-- Fused multiply-add a × b + c rounded once (05 R119): a product 0 × ∞ is invalid whatever c is, unless an input is a
quiet NaN only. -/
def FFmt.fma (f : FFmt) (ftz : Bool) (r : Round) (a b c : FNum) : FRes :=
  let zeroInf := match a, b with
    | .inf _, .fin _ 0 _ => true
    | .fin _ 0 _, .inf _ => true
    | _, _ => false
  if zeroInf then { bits := f.canonNan, fl := flNV } else
  if a.isNan || b.isNan || c.isNan then { bits := f.canonNan, fl := nvOf [a, b, c] } else
  match a, b with
  | .fin n1 m1 e1, .fin n2 m2 e2 => f.add ftz r (.fin (xor n1 n2) (m1 * m2) (e1 + e2)) c
  | a, b => f.add ftz r (.inf (xor a.sign b.sign)) c

/-- Extra quotient bits that make the rounding of a quotient certain, stochastic rounding included. -/
def quotBits : Nat := 160

/-- A quotient of magnitudes as m × 2^e with a last bit that is set when it is not exact. -/
def quotient (m1 : Nat) (e1 : Int) (m2 : Nat) (e2 : Int) : Nat × Int :=
  let s := quotBits + bitLen m2
  let n := m1 * 2 ^ s
  (n / m2 * 2 + (if n % m2 = 0 then 0 else 1), e1 - e2 - s - 1)

/-- Division rounded once; a finite nonzero value by zero raises DZ (05 R119, R125). -/
def FFmt.div (f : FFmt) (ftz : Bool) (r : Round) (a b : FNum) : FRes :=
  match a, b with
  | .fin n1 m1 e1, .fin n2 m2 e2 =>
    if m2 = 0 then
      (if m1 = 0 then { bits := f.canonNan, fl := flNV } else { bits := f.infBits (xor n1 n2), fl := flDZ })
    else
      let (m, e) := quotient m1 e1 m2 e2
      f.roundFin false ftz r (xor n1 n2) m e
  | .inf _, .inf _ => { bits := f.canonNan, fl := flNV }
  | .inf n1, .fin n2 _ _ => { bits := f.infBits (xor n1 n2), fl := 0 }
  | .fin n1 _ _, .inf n2 => { bits := f.zeroBits (xor n1 n2), fl := 0 }
  | a, b => { bits := f.canonNan, fl := nvOf [a, b] }

/-- The integer square root, one bit at a time from bit `n - 1` down. -/
def isqrtFrom (x acc : Nat) : Nat → Nat
  | 0 => acc
  | n + 1 => if (acc + 2 ^ n) * (acc + 2 ^ n) ≤ x then isqrtFrom x (acc + 2 ^ n) n else isqrtFrom x acc n

/-- The square root of a magnitude as m × 2^e with a last bit that is set when it is not exact. -/
def sqrtMag (m : Nat) (e : Int) : Nat × Int :=
  let m1 := if e % 2 = 0 then m else 2 * m
  let e1 := if e % 2 = 0 then e else e - 1
  let s : Nat := 64
  let x := m1 * 2 ^ (2 * s)
  let y := isqrtFrom x 0 (bitLen x / 2 + 1)
  (y * 2 + (if y * y = x then 0 else 1), e1 / 2 - s - 1)

/-- Square root rounded once (05 R119). -/
def FFmt.sqrt (f : FFmt) (ftz : Bool) (r : Round) (a : FNum) : FRes :=
  match a with
  | .fin n m e =>
    if m = 0 then { bits := f.zeroBits n, fl := 0 } else
    if n then { bits := f.canonNan, fl := flNV } else
    let (y, e1) := sqrtMag m e
    f.roundFin false ftz r false y e1
  | .inf n => if n then { bits := f.canonNan, fl := flNV } else { bits := f.infBits false, fl := 0 }
  | .nan b => { bits := f.canonNan, fl := if b then flNV else 0 }

/-- The order of two values that are not NaNs: −1, 0 or 1; the zeros are equal. -/
def FNum.order (a b : FNum) : Int :=
  match a, b with
  | .fin n1 m1 e1, .fin n2 m2 e2 =>
    let q := min e1 e2
    let t := signedUnits n1 m1 e1 q - signedUnits n2 m2 e2 q
    if t < 0 then -1 else if t = 0 then 0 else 1
  | .inf n1, .inf n2 => if n1 == n2 then 0 else if n1 then -1 else 1
  | .inf n1, _ => if n1 then -1 else 1
  | _, .inf n2 => if n2 then 1 else -1
  | _, _ => 0

/-- A magnitude rounded to an integer with its sign, and whether it was inexact. -/
def roundInt (r : Round) (neg : Bool) (m : Nat) (e : Int) : Int × Bool :=
  let (n, nx) := roundUnits r neg m e 0
  ((if neg then -1 else 1) * (n : Int), nx)

/-- A value to convert: floating or integer (05 R127). -/
inductive NVal where
  | num (x : FNum)
  | int (x : Int)
  deriving DecidableEq, Repr

/-- The two's-complement or unsigned reading of the low `w` bits of a number (05 R114). -/
def intOf (w : Nat) (signed : Bool) (x : Nat) : Int :=
  let y := x % 2 ^ w
  if signed && decide (2 ^ (w - 1) ≤ y) then (y : Int) - ((2 ^ w : Nat) : Int) else y

/-- The low `w` bits of an integer. -/
def intBits (w : Nat) (x : Int) : Nat := (x % 2 ^ w).toNat

/-- The value of an element in a format; the reserved TERN2 pattern reads as 0 (05 R112, R114). -/
def NFmt.read (f : NFmt) (daz : Bool) (x : Nat) : NVal :=
  match f with
  | .flt f => .num (f.readDaz daz x)
  | .int w s => .int (intOf w s x)
  | .tern => .int (match x % 4 with | 1 => 1 | 3 => -1 | _ => 0)
  | .bin => .int (if x % 2 = 1 then 1 else -1)

/-- The ends of an integer format's range. -/
def intRange (w : Nat) (signed : Bool) : Int × Int :=
  if signed then (-((2 ^ (w - 1) : Nat) : Int), ((2 ^ (w - 1) : Nat) : Int) - 1) else (0, ((2 ^ w : Nat) : Int) - 1)

/-- An integer brought into a range. -/
def clampInt (lo hi x : Int) : Int := if x < lo then lo else if hi < x then hi else x

/-- The pattern of −1, 0 or 1 in TERN2. -/
def ternBits (x : Int) : Nat := if x = 0 then 0 else if 0 < x then 1 else 3

/-- A floating value rounded to an integer range: NV outside it, NX if inexact within it (05 R127). -/
def toIntRange (r : Round) (lo hi : Int) (x : FNum) : Int × BitVec 5 :=
  match x with
  | .nan _ => (0, flNV)
  | .inf n => (if n then lo else hi, flNV)
  | .fin n m e =>
    let (v, nx) := roundInt r n m e
    if v < lo then (lo, flNV) else if hi < v then (hi, flNV) else (v, if nx then flNX else 0)

/-- The conversion of a floating value to a floating format (05 R127). -/
def convertFlt (f : FFmt) (sat ftz : Bool) (r : Round) (x : FNum) : FRes :=
  match x with
  | .fin n m e => f.roundFin sat ftz r n m e
  | .inf n =>
    match f.kind with
    | .ieee => { bits := f.infBits n, fl := 0 }
    | .e4m3 => { bits := 0x7F, fl := flNV }
    | .finite => { bits := f.maxBits n, fl := flNV }
  | .nan b =>
    match f.kind with
    | .finite => { bits := f.zeroBits false, fl := flNV }
    | _ => { bits := f.canonNan, fl := if b then flNV else 0 }

/-- The conversion of one value to a format that is not a block format (05 R127). -/
def convert (f : NFmt) (ftz : Bool) (r : Round) (v : NVal) : FRes :=
  match f, v with
  | .flt f, .num x => convertFlt f false ftz r x
  | .flt f, .int x => f.roundFin false ftz r (decide (x < 0)) x.natAbs 0
  | .int w s, .num x =>
    let (y, fl) := toIntRange r (intRange w s).1 (intRange w s).2 x
    { bits := intBits w y, fl := fl }
  | .int w s, .int x => { bits := intBits w (clampInt (intRange w s).1 (intRange w s).2 x), fl := 0 }
  | .tern, .num x =>
    let (y, fl) := toIntRange r (-1) 1 x
    { bits := ternBits y, fl := fl }
  | .tern, .int x => { bits := ternBits (clampInt (-1) 1 x), fl := 0 }
  | .bin, .num x => { bits := if x.sign then 0 else 1, fl := if x.isNan then flNV else 0 }
  | .bin, .int x => { bits := if x < 0 then 0 else 1, fl := 0 }

/-- The scale of a block from its byte: a positive power of two, or an E4M3 value (05 R117). -/
def scaleOf (code byte : Nat) : FNum :=
  if code = 16 then e4m3.read byte
  else if byte = 255 then .nan false else .fin false 1 ((byte : Int) - 127)

/-- The value X × P of an element of a block (05 R117): a NaN scale makes it a quiet NaN. -/
def blockValue (code scale x : Nat) : FNum :=
  match scaleOf code scale with
  | .fin ns ms es =>
    if code = 15 then
      let k := intOf 8 true x
      .fin (xor ns (decide (k < 0))) (k.natAbs * ms) (es - 6)
    else
      match (nfmtOf code) with
      | .flt f =>
        match f.read x with
        | .fin n m e => .fin (xor n ns) (m * ms) (e + es)
        | .inf n => .inf (xor n ns)
        | .nan b => .nan b
      | _ => .nan false
  | _ => .nan false

/-- A source value of a block conversion as a finite value, or none for a NaN or infinity (05 R128). -/
def finiteOf (v : NVal) : Option (Bool × Nat × Int) :=
  match v with
  | .int x => some (decide (x < 0), x.natAbs, 0)
  | .num (.fin n m e) => some (n, m, e)
  | .num _ => none

/-- The larger of two magnitudes. -/
def maxMag (a b : Nat × Int) : Nat × Int :=
  let q := min a.2 b.2
  if a.1 * 2 ^ (a.2 - q).toNat < b.1 * 2 ^ (b.2 - q).toNat then b else a

/-- emax of an MX element format (05 R128). -/
def emaxOf (code : Nat) : Int :=
  match code with
  | 10 => 8 | 11 => 15 | 12 => 4 | 13 => 2 | 14 => 2 | _ => 0

/-- The scale byte chosen for a block whose largest magnitude is m × 2^e (05 R128). -/
def chooseScale (code m : Nat) (e : Int) : Nat :=
  if code = 16 then
    (if m = 0 then 0 else
     let (q, eq) := quotient m e 6 0
     (e4m3.roundFin true false .ru false q eq).bits)
  else if m = 0 then 0
  else (max 0 (min 254 (e + bitLen m - 1 - emaxOf code + 127))).toNat

/-- One element of a block rounded under its scale (05 R128). -/
def blockElement (code scale : Nat) (r : Round) (n : Bool) (m : Nat) (e : Int) : FRes :=
  if code = 15 then
    let (k, nx) := roundInt r n m (e - ((scale : Int) - 133))
    if k < -128 then { bits := 0x80, fl := flOF ||| flNX }
    else if 127 < k then { bits := 0x7F, fl := flOF ||| flNX }
    else { bits := intBits 8 k, fl := if nx then flNX else 0 }
  else
    match nfmtOf code with
    | .flt f =>
      if code = 16 then
        (match e4m3.read scale with
         | .fin _ sm se =>
           if sm = 0 then { bits := 0, fl := 0 } else
           let (q, eq) := quotient m e sm se
           f.roundFin true false r n q eq
         | _ => { bits := 0, fl := 0 })
      else f.roundFin true false r n m (e - ((scale : Int) - 127))
    | _ => { bits := 0, fl := 0 }

/-- The conversion of a block: its scale byte and its elements; a NaN or infinite source makes a NaN block and is charged
NV (05 R128). `rounds` gives each element its mode. -/
def convertBlock (code : Nat) (l : List (NVal × Round)) : Nat × List FRes :=
  if l.any (fun x => (finiteOf x.1).isNone) then
    (if code = 16 then 0x7F else 0xFF, l.map (fun x => { bits := 0, fl := if (finiteOf x.1).isNone then flNV else 0 }))
  else
    let mags := l.map (fun x => match finiteOf x.1 with | some (_, m, e) => (m, e) | none => (0, 0))
    let a := mags.foldl maxMag (0, 0)
    let scale := chooseScale code a.1 a.2
    (scale, l.map (fun x => match finiteOf x.1 with
      | some (n, m, e) => blockElement code scale x.2 n m e
      | none => { bits := 0, fl := 0 }))

/-- The fixed mixing function of stochastic rounding (05 R123). -/
def mix (z : Word) : Word :=
  let z := z ^^^ (z >>> 32)
  let z := z * 0xD6E8FEB86659FD93
  let z := z ^^^ (z >>> 29)
  let z := z * 0xA3B195F3C87E4D29
  z ^^^ (z >>> 32)

/-- The 32 random bits of an element (05 R123). -/
def srBits (pc rngk srseq : Word) (i : Nat) : Nat :=
  let c := BitVec.ofNat 64 (bits pc 3 53 * 128 + i)
  (mix (mix (c ^^^ rngk) ^^^ srseq)).toNat / 2 ^ 32

/-- The rounding mode of a code: FPM.RM and the modes of VCVT (02 R54, 03 R80). -/
def roundOf (n : Nat) : Round := if n = 0 then .rne else if n = 1 then .rz else if n = 2 then .ru else .rd

end Sys2Proof.Machine
end

