-- ==== Sys2Proof/Machine/Flags.lean ====
section
/-! DEFINITION. The floating-point flags of FPF and their trap (02 R54, 05 R125, R126). -/

namespace Sys2Proof.Machine

/-- FPM.RM (02 R54). -/
def fpmRound (fpm : Word) : Round := roundOf (bits fpm 0 2)

/-- FPM.FTZ. -/
def fpmFtz (fpm : Word) : Bool := bit fpm 2

/-- FPM.DAZ. -/
def fpmDaz (fpm : Word) : Bool := bit fpm 3

/-- FPM.EN, in FPF order. -/
def fpmEn (fpm : Word) : BitVec 5 := BitVec.ofNat 5 (bits fpm 4 5)

/-- The OR of the flags of a list of results. -/
def orFlags (l : List FRes) : BitVec 5 := l.foldl (fun a r => a ||| r.fl) 0

/-- The lowest index of a result that raised an enabled flag, counted from `i` (05 R126). -/
def lowestEnabled (en : BitVec 5) : Nat → List FRes → Nat
  | i, [] => i
  | i, r :: l => if r.fl &&& en = 0 then lowestEnabled en (i + 1) l else i

/-- KVAL of FP_TRAP (05 R126). -/
def fpTrapVal (fl : BitVec 5) (index : Nat) : Word := BitVec.ofNat 64 (fl.toNat + index % 128 * 2 ^ 8)

/-- FPF takes the flags of a bundle; the flags of slot B are kept beside it for a PUTC of slot A (02 R37). -/
def State.raiseFlags (s : State) (fl : BitVec 5) : State :=
  { (s.modTh (fun th => { th with fpf := th.fpf ||| fl.setWidth 64 })) with
    cur := { s.cur with flags := s.cur.flags ||| fl } }

/-- A form that may raise flags: it raises FP_TRAP when an enabled one is raised, and else has its effect and leaves the
flags in FPF (05 R126). `l` are the results of its elements by index; an inactive element raises nothing. -/
def fpPlan (fpm : Word) (l : List FRes) (f : State → State) : Plan :=
  let fl := orFlags l
  if fl &&& fpmEn fpm = 0 then .go (fun t => (f t).raiseFlags fl)
  else .trap 35 (fpTrapVal fl (lowestEnabled (fpmEn fpm) 0 l))

end Sys2Proof.Machine
end

