-- ==== Sys2Proof/Machine/Vector.lean ====
section
/-! DEFINITION. The vector forms of slot B but for streams and special functions (06 R129 to R141). -/

namespace Sys2Proof.Machine

/-- Elements of a type in a vector register (02 R48). -/
def elemCount (ty : ElemType) : Nat := 128 / elemSize ty

/-- Bits of an element of a type. -/
def elemBits (ty : ElemType) : Nat := 8 * elemSize ty

/-- Element `i` of a register, of `w` bits (02 R48, R73). -/
def elemAt (w : Nat) (v : Vec) (i : Nat) : Nat := v.toNat / 2 ^ (w * i) % 2 ^ w

/-- A list of elements of `w` bits from element 0 up, packed (02 R48, 05 R115). -/
def packElems (w : Nat) : List Nat → Nat
  | [] => 0
  | x :: r => x % 2 ^ w + 2 ^ w * packElems w r

/-- Whether element `i` of a type is active (02 R48, R73). -/
def activeElem (q : Mask) (ty : ElemType) (i : Nat) : Bool := q.getLsbD (i * elemSize ty)

/-- The results of a form by element: an inactive element keeps its old bits and raises nothing (06 R130). -/
def mapActive (q : Mask) (ty : ElemType) (old : Vec) (f : Nat → FRes) : List FRes :=
  (List.range (elemCount ty)).map (fun i =>
    if activeElem q ty i then f i else { bits := elemAt (elemBits ty) old i, fl := 0 })

/-- The register of a list of results. -/
def vecOf (ty : ElemType) (l : List FRes) : Vec := BitVec.ofNat 1024 (packElems (elemBits ty) (l.map FRes.bits))

/-- An element-wise form of two sources and the old destination (06 R133): slot B. -/
def runElems (f : Word → Nat → Nat → Nat → FRes) (reads : List RegName) (vd va vb : BitVec 5) (q : BitVec 3) (ty : ElemType)
    (s : State) : Host.Outcome State Fault Refusal :=
  runSlot 1 (reads ++ [rnq q]) [rnv vd] (fun s =>
    let l := mapActive (s.rq q) ty (s.rv vd) (fun i =>
      f s.src.fpm (elemAt (elemBits ty) (s.rv va) i) (elemAt (elemBits ty) (s.rv vb) i) (elemAt (elemBits ty) (s.rv vd) i))
    fpPlan s.src.fpm l (fun t => t.wv vd (vecOf ty l))) s

/-- An integer result: no flag (06 R133). -/
def intRes (w : Nat) (x : Int) : FRes := { bits := intBits w x, fl := 0 }

/-- An integer result brought into its range: the saturating variants (06 R133). -/
def satRes (w : Nat) (signed : Bool) (x : Int) : FRes := intRes w (clampInt (intRange w signed).1 (intRange w signed).2 x)

/-- VADD, VSUB and VMUL on integers: variants 0 and 1 wrap, 2 saturates signed, 3 unsigned (06 R133). -/
def intArith (op : Int → Int → Int) (w v x y : Nat) : FRes :=
  if v < 2 then intRes w (op (intOf w true x) (intOf w true y))
  else satRes w (v == 2) (op (intOf w (v == 2) x) (intOf w (v == 2) y))

/-- The floating format of a floating type; FP64 for an integer type, which no floating form has. -/
def fmtOfElem (ty : ElemType) : FFmt :=
  match ty with
  | .f16 => fp16 | .bf16 => bf16 | .f32 => fp32 | .f64 => fp64 | .i8 | .i16 | .i32 | .i64 => fp64

/-- A floating operand under FPM.DAZ. -/
def fread (ty : ElemType) (fpm : Word) (x : Nat) : FNum := (fmtOfElem ty).readDaz (fpmDaz fpm) x

/-- VADD by element (06 R133, R134). -/
def vaddElem (ty : ElemType) (v : Nat) (fpm : Word) (x y _z : Nat) : FRes :=
  if ty.isInt then intArith (fun a b => a + b) (elemBits ty) v x y
  else (fmtOfElem ty).add (fpmFtz fpm) (fpmRound fpm) (fread ty fpm x) (fread ty fpm y)

/-- VSUB by element: x + (−y), a NaN kept as it is. -/
def vsubElem (ty : ElemType) (v : Nat) (fpm : Word) (x y _z : Nat) : FRes :=
  if ty.isInt then intArith (fun a b => a - b) (elemBits ty) v x y
  else (fmtOfElem ty).add (fpmFtz fpm) (fpmRound fpm) (fread ty fpm x) (fread ty fpm y).negate

/-- VMUL by element. -/
def vmulElem (ty : ElemType) (v : Nat) (fpm : Word) (x y _z : Nat) : FRes :=
  if ty.isInt then intArith (fun a b => a * b) (elemBits ty) v x y
  else (fmtOfElem ty).mul (fpmFtz fpm) (fpmRound fpm) (fread ty fpm x) (fread ty fpm y)

/-- VFMA by element: x × y + z. -/
def vfmaElem (ty : ElemType) (fpm : Word) (x y z : Nat) : FRes :=
  if ty.isInt then intRes (elemBits ty) ((x * y + z : Nat) : Int)
  else (fmtOfElem ty).fma (fpmFtz fpm) (fpmRound fpm) (fread ty fpm x) (fread ty fpm y) (fread ty fpm z)

/-- The smaller or larger of two floating values: a NaN gives the canonical NaN, and −0 is less than +0 (06 R134). -/
def minMaxFlt (f : FFmt) (ftz larger : Bool) (a b : FNum) : FRes :=
  if a.isNan || b.isNan then { bits := f.canonNan, fl := nvOf [a, b] } else
  let o := a.order b
  let aFirst := if o = 0 then (if larger then !a.sign else a.sign) else if larger then decide (0 < o) else decide (o < 0)
  convertFlt f false ftz .rne (if aFirst then a else b)

/-- VMIN and VMAX by element. -/
def minMaxElem (larger : Bool) (ty : ElemType) (v : Nat) (fpm : Word) (x y _z : Nat) : FRes :=
  if ty.isInt then
    let a := intOf (elemBits ty) (v == 0) x
    let b := intOf (elemBits ty) (v == 0) y
    intRes (elemBits ty) (if larger then max a b else min a b)
  else minMaxFlt (fmtOfElem ty) (fpmFtz fpm) larger (fread ty fpm x) (fread ty fpm y)

/-- VDIV by element. -/
def vdivElem (ty : ElemType) (v : Nat) (fpm : Word) (x y _z : Nat) : FRes :=
  if ty.isInt then
    (if y = 0 then intRes (elemBits ty) (-1)
     else intRes (elemBits ty) ((intOf (elemBits ty) (v == 0) x).tdiv (intOf (elemBits ty) (v == 0) y)))
  else (fmtOfElem ty).div (fpmFtz fpm) (fpmRound fpm) (fread ty fpm x) (fread ty fpm y)

/-- A floating value whose sign is set, as VABS and VNEG write it (06 R134). -/
def withSign (f : FFmt) (ftz : Bool) (neg : Bool) (a : FNum) : FRes :=
  match a with
  | .nan b => { bits := f.canonNan, fl := if b then flNV else 0 }
  | .inf _ => { bits := f.infBits neg, fl := 0 }
  | .fin _ m e => f.roundFin false ftz .rne neg m e

/-- VABS by element. -/
def vabsElem (ty : ElemType) (v : Nat) (fpm : Word) (x _y _z : Nat) : FRes :=
  if ty.isInt then
    let a := ((intOf (elemBits ty) true x).natAbs : Int)
    if v = 2 then satRes (elemBits ty) true a else intRes (elemBits ty) a
  else withSign (fmtOfElem ty) (fpmFtz fpm) false (fread ty fpm x)

/-- VNEG by element. -/
def vnegElem (ty : ElemType) (v : Nat) (fpm : Word) (x _y _z : Nat) : FRes :=
  if ty.isInt then
    let a := -(intOf (elemBits ty) true x)
    if v = 2 then satRes (elemBits ty) true a else intRes (elemBits ty) a
  else withSign (fmtOfElem ty) (fpmFtz fpm) (!(fread ty fpm x).sign) (fread ty fpm x)

/-- VSHL by element. -/
def vshlElem (ty : ElemType) (_fpm : Word) (x y _z : Nat) : FRes :=
  intRes (elemBits ty) ((x * 2 ^ (y % elemBits ty) : Nat) : Int)

/-- VSHR by element. -/
def vshrElem (ty : ElemType) (v : Nat) (_fpm : Word) (x y _z : Nat) : FRes :=
  intRes (elemBits ty) (intOf (elemBits ty) (v == 0) x / ((2 ^ (y % elemBits ty) : Nat) : Int))

/-- VSCALE by element: x × 2^k, zeros, infinities and NaNs as 06 R134 gives. -/
def vscaleElem (ty : ElemType) (fpm : Word) (x y _z : Nat) : FRes :=
  match fread ty fpm x with
  | .fin n m e =>
    if m = 0 then { bits := (fmtOfElem ty).zeroBits n, fl := 0 }
    else
      -- beyond any exponent of the format the outcome no longer changes, so k is brought into reach
      let k := clampInt (-5000) 5000 (intOf (elemBits ty) true y)
      (fmtOfElem ty).roundFin false (fpmFtz fpm) (fpmRound fpm) n m (e + k)
  | v => convertFlt (fmtOfElem ty) false (fpmFtz fpm) .rne v

/-- VADD (06 R133, R134). -/
def execVadd (vd va vb : BitVec 5) (q : BitVec 3) (ty : ElemType) (v : BitVec 4) (s : State) : Host.Outcome State Fault Refusal :=
  runElems (vaddElem ty v.toNat) [rnv va, rnv vb] vd va vb q ty s

/-- VSUB. -/
def execVsub (vd va vb : BitVec 5) (q : BitVec 3) (ty : ElemType) (v : BitVec 4) (s : State) : Host.Outcome State Fault Refusal :=
  runElems (vsubElem ty v.toNat) [rnv va, rnv vb] vd va vb q ty s

/-- VMUL. -/
def execVmul (vd va vb : BitVec 5) (q : BitVec 3) (ty : ElemType) (v : BitVec 4) (s : State) : Host.Outcome State Fault Refusal :=
  runElems (vmulElem ty v.toNat) [rnv va, rnv vb] vd va vb q ty s

/-- VFMA. -/
def execVfma (vd va vb : BitVec 5) (q : BitVec 3) (ty : ElemType) (s : State) : Host.Outcome State Fault Refusal :=
  runElems (vfmaElem ty) [rnv va, rnv vb] vd va vb q ty s

/-- VMIN. -/
def execVmin (vd va vb : BitVec 5) (q : BitVec 3) (ty : ElemType) (v : BitVec 4) (s : State) : Host.Outcome State Fault Refusal :=
  runElems (minMaxElem false ty v.toNat) [rnv va, rnv vb] vd va vb q ty s

/-- VMAX. -/
def execVmax (vd va vb : BitVec 5) (q : BitVec 3) (ty : ElemType) (v : BitVec 4) (s : State) : Host.Outcome State Fault Refusal :=
  runElems (minMaxElem true ty v.toNat) [rnv va, rnv vb] vd va vb q ty s

/-- VABS. -/
def execVabs (vd va : BitVec 5) (q : BitVec 3) (ty : ElemType) (v : BitVec 4) (s : State) : Host.Outcome State Fault Refusal :=
  runElems (vabsElem ty v.toNat) [rnv va] vd va va q ty s

/-- VNEG. -/
def execVneg (vd va : BitVec 5) (q : BitVec 3) (ty : ElemType) (v : BitVec 4) (s : State) : Host.Outcome State Fault Refusal :=
  runElems (vnegElem ty v.toNat) [rnv va] vd va va q ty s

/-- VAND. -/
def execVand (vd va vb : BitVec 5) (q : BitVec 3) (ty : ElemType) (s : State) : Host.Outcome State Fault Refusal :=
  runElems (fun _ x y _ => { bits := Nat.land x y, fl := 0 }) [rnv va, rnv vb] vd va vb q ty s

/-- VOR. -/
def execVor (vd va vb : BitVec 5) (q : BitVec 3) (ty : ElemType) (s : State) : Host.Outcome State Fault Refusal :=
  runElems (fun _ x y _ => { bits := Nat.lor x y, fl := 0 }) [rnv va, rnv vb] vd va vb q ty s

/-- VXOR. -/
def execVxor (vd va vb : BitVec 5) (q : BitVec 3) (ty : ElemType) (s : State) : Host.Outcome State Fault Refusal :=
  runElems (fun _ x y _ => { bits := Nat.xor x y, fl := 0 }) [rnv va, rnv vb] vd va vb q ty s

/-- VSHL. -/
def execVshl (vd va vb : BitVec 5) (q : BitVec 3) (ty : ElemType) (s : State) : Host.Outcome State Fault Refusal :=
  runElems (vshlElem ty) [rnv va, rnv vb] vd va vb q ty s

/-- VSHR. -/
def execVshr (vd va vb : BitVec 5) (q : BitVec 3) (ty : ElemType) (v : BitVec 4) (s : State) : Host.Outcome State Fault Refusal :=
  runElems (vshrElem ty v.toNat) [rnv va, rnv vb] vd va vb q ty s

/-- VSCALE. -/
def execVscale (vd va vb : BitVec 5) (q : BitVec 3) (ty : ElemType) (s : State) : Host.Outcome State Fault Refusal :=
  runElems (vscaleElem ty) [rnv va, rnv vb] vd va vb q ty s

/-- VDIV. -/
def execVdiv (vd va vb : BitVec 5) (q : BitVec 3) (ty : ElemType) (v : BitVec 4) (s : State) : Host.Outcome State Fault Refusal :=
  runElems (vdivElem ty v.toNat) [rnv va, rnv vb] vd va vb q ty s

/-- VSQRT. -/
def execVsqrt (vd va : BitVec 5) (q : BitVec 3) (ty : ElemType) (s : State) : Host.Outcome State Fault Refusal :=
  runElems (fun fpm x _ _ => (fmtOfElem ty).sqrt (fpmFtz fpm) (fpmRound fpm) (fread ty fpm x)) [rnv va] vd va va q ty s

/-- A comparison by element: its truth and flags (06 R135). -/
def cmpElem (ty : ElemType) (v : Nat) (fpm : Word) (x y : Nat) : Bool × BitVec 5 :=
  if ty.isInt then
    let a := intOf (elemBits ty) (v < 10) x
    let b := intOf (elemBits ty) (v < 10) y
    (match v % 10 with
     | 0 => if v = 0 then decide (a = b) else decide (a < b)
     | 1 => if v = 1 then !(decide (a = b)) else decide (a ≤ b)
     | 2 => if v = 2 then decide (a < b) else decide (b < a)
     | 3 => if v = 3 then decide (a ≤ b) else decide (b ≤ a)
     | 4 => decide (b < a)
     | _ => decide (b ≤ a), 0)
  else
    let a := fread ty fpm x
    let b := fread ty fpm y
    let un := a.isNan || b.isNan
    let sig := nvOf [a, b]
    let o := a.order b
    match v with
    | 0 => (!un && decide (o = 0), sig)
    | 1 => (un || !(decide (o = 0)), sig)
    | 2 => (!un && decide (o < 0), if un then flNV else 0)
    | 3 => (!un && decide (o ≤ 0), if un then flNV else 0)
    | 4 => (!un && decide (0 < o), if un then flNV else 0)
    | 5 => (!un && decide (0 ≤ o), if un then flNV else 0)
    | 6 => (un, sig)
    | _ => (!un, sig)

/-- VCMP (06 R135): every bit of the mask is written, each element's truth in all its byte bits. -/
def execVcmp (qd : BitVec 3) (va vb : BitVec 5) (q : BitVec 3) (ty : ElemType) (v : BitVec 4) (s : State) :
    Host.Outcome State Fault Refusal :=
  runSlot 1 [rnv va, rnv vb, rnq q] [rnq qd] (fun s =>
    let l := (List.range (elemCount ty)).map (fun i =>
      if activeElem (s.rq q) ty i then
        let (c, fl) := cmpElem ty v.toNat s.src.fpm (elemAt (elemBits ty) (s.rv va) i) (elemAt (elemBits ty) (s.rv vb) i)
        { bits := if c then 2 ^ elemSize ty - 1 else 0, fl := fl : FRes }
      else { bits := 0, fl := 0 })
    fpPlan s.src.fpm l (fun t => t.wq qd (BitVec.ofNat 128 (packElems (elemSize ty) (l.map FRes.bits))))) s

/-- A movement form that writes every element, raising no flag (06 R132). -/
def runMove (reads : List RegName) (vd : BitVec 5) (ty : ElemType) (f : State → Nat → Nat) (s : State) :
    Host.Outcome State Fault Refusal :=
  runSlot 1 reads [rnv vd] (fun s =>
    .go (fun t => t.wv vd (BitVec.ofNat 1024 (packElems (elemBits ty) ((List.range (elemCount ty)).map (f s)))))) s

/-- VSEL (06 R136). -/
def execVsel (vd va vb : BitVec 5) (q : BitVec 3) (ty : ElemType) (s : State) : Host.Outcome State Fault Refusal :=
  runSlot 1 [rnv va, rnv vb, rnq q] [rnv vd] (fun s =>
    .go (fun t => (t.wv vd (BitVec.ofNat 1024 (packElems (elemBits ty) ((List.range (elemCount ty)).map (fun i =>
      elemAt (elemBits ty) (if activeElem (s.rq q) ty i then s.rv va else s.rv vb) i))))).cleanRegs [] [rnv vd])) s

/-- A movement form under a mask: an inactive element keeps its old value (06 R130, R137). -/
def runMoveMasked (reads : List RegName) (vd : BitVec 5) (q : BitVec 3) (ty : ElemType) (f : State → Nat → Nat) (s : State) :
    Host.Outcome State Fault Refusal :=
  runMove (reads ++ [rnq q]) vd ty (fun s i => if activeElem (s.rq q) ty i then f s i else elemAt (elemBits ty) (s.rv vd) i) s

/-- VMOV (06 R137). -/
def execVmov (vd va : BitVec 5) (q : BitVec 3) (ty : ElemType) (s : State) : Host.Outcome State Fault Refusal :=
  runMoveMasked [rnv va] vd q ty (fun s i => elemAt (elemBits ty) (s.rv va) i) s

/-- VBCS (06 R137). -/
def execVbcs (vd sa : BitVec 5) (q : BitVec 3) (ty : ElemType) (s : State) : Host.Outcome State Fault Refusal :=
  runMoveMasked [.s sa.toNat] vd q ty (fun s _ => (s.rs (sa.setWidth 6)).toNat % 2 ^ elemBits ty) s

/-- VPERM (06 R137). -/
def execVperm (vd va vb : BitVec 5) (q : BitVec 3) (ty : ElemType) (s : State) : Host.Outcome State Fault Refusal :=
  runMoveMasked [rnv va, rnv vb] vd q ty (fun s i =>
    elemAt (elemBits ty) (s.rv va) (elemAt (elemBits ty) (s.rv vb) i % elemCount ty)) s

/-- VIOTA (06 R137): the number of active elements below. -/
def execViota (vd : BitVec 5) (q : BitVec 3) (ty : ElemType) (s : State) : Host.Outcome State Fault Refusal :=
  runMoveMasked [] vd q ty (fun s i => ((List.range i).filter (fun j => activeElem (s.rq q) ty j)).length % 2 ^ elemBits ty) s

/-- VEXT (06 R137): the scalar result of one element. -/
def execVext (sd va sb : BitVec 5) (q : BitVec 3) (ty : ElemType) (v : BitVec 4) (s : State) : Host.Outcome State Fault Refusal :=
  runSlot 1 [rnv va, .s sb.toNat, rnq q] [.s sd.toNat] (fun s =>
    let k := (s.rs (sb.setWidth 6)).toNat % elemCount ty
    let e := elemAt (elemBits ty) (s.rv va) k
    let x : Word := if activeElem (s.rq q) ty k then
        (if v = 0 then BitVec.ofInt 64 (intOf (elemBits ty) true e) else BitVec.ofNat 64 e) else 0
    .go (fun t => t.ws (sd.setWidth 6) x)) s

/-- Elements a VCVT handles (06 R139). -/
def cvtCount (ty : ElemType) (code : Nat) : Nat :=
  1024 / max (elemBits ty) (max (codeWidth code) (if isBlockCode code then 16 else 1))

/-- The mode of a VCVT element: its variant, FPM.RM, or SR with the element's bits (03 R80, 05 R123). -/
def cvtRound (th : Thread) (rm i : Nat) : Round :=
  if rm = 4 then .sr (srBits th.pc th.rngk th.srseq i) else if rm = 5 then fpmRound th.fpm else roundOf rm

/-- The element results of a VCVT into a format that is not a block format, or out of any format (06 R140). -/
def cvtPlain (th : Thread) (x old : Vec) (q : Mask) (ty : ElemType) (code : Nat) (v : BitVec 4) : List FRes :=
  let rm := v.toNat % 8
  (List.range (cvtCount ty code)).map (fun i =>
    if v.toNat < 8 then
      (if activeElem q ty i then
        convert (nfmtOf code) (fpmFtz th.fpm) (cvtRound th rm i)
          ((elemFmt ty).read (fpmDaz th.fpm) (elemAt (elemBits ty) x i))
       else { bits := elemAt (codeWidth code) old i, fl := 0 })
    else
      (if activeElem q ty i then
        convert (elemFmt ty) (fpmFtz th.fpm) (cvtRound th rm i)
          (if isBlockCode code then
            .num (blockValue code (x.toNat / 2 ^ (8 * (127 - i / blockSize code)) % 256) (elemAt (codeWidth code) x i))
           else (nfmtOf code).read (fpmDaz th.fpm) (elemAt (codeWidth code) x i))
       else { bits := elemAt (elemBits ty) old i, fl := 0 }))

/-- A list cut into blocks of `n`, at most `fuel` of them. -/
def chunksOf {α : Type} (n : Nat) : Nat → List α → List (List α)
  | 0, _ => []
  | fuel + 1, l => if l.isEmpty then [] else l.take n :: chunksOf n fuel (l.drop n)

/-- The blocks of a VCVT into a block format: each scale with its elements (05 R128, 06 R139). -/
def cvtBlocks (th : Thread) (x : Vec) (ty : ElemType) (code : Nat) (v : BitVec 4) : List (Nat × List FRes) :=
  (chunksOf (blockSize code) 8 ((List.range (cvtCount ty code)).map (fun i =>
    ((elemFmt ty).read (fpmDaz th.fpm) (elemAt (elemBits ty) x i), cvtRound th (v.toNat % 8) i)))).map (convertBlock code)

/-- Scale bytes of a register from byte 127 down (06 R139). -/
def scalesFrom127 (l : List Nat) : Nat := packElems 8 (List.replicate (128 - l.length) 0 ++ l.reverse)

/-- VCVT (06 R138 to R140): a block format admits no mask, a field check that comes before every operand cause (02 R35 step 4); SRSEQ
advances by one under SR (05 R124). -/
def execVcvt (vd va : BitVec 5) (fmt : BitVec 5) (q : BitVec 3) (ty : ElemType) (v : BitVec 4) (s : State) :
    Host.Outcome State Fault Refusal :=
  runChecked (fun s => if isBlockCode fmt.toNat && decide (q ≠ 0) then some (3, s.cur.bundle) else none)
    1 [rnv va, rnq q] [rnv vd] (fun s =>
    let code := fmt.toNat
    let step : State → State := fun t => if v.toNat % 8 = 4 then t.modTh (fun th => { th with srseq := th.srseq + 1 }) else t
    if v.toNat < 8 && isBlockCode code then
      let bl := cvtBlocks s.src (s.rv va) ty code v
      let l := bl.flatMap Prod.snd
      let x := packElems (codeWidth code) (l.map FRes.bits) + scalesFrom127 (bl.map Prod.fst)
      fpPlan s.src.fpm l (fun t => step (t.wv vd (BitVec.ofNat 1024 x)))
    else
      let l := cvtPlain s.src (s.rv va) (s.rv vd) (s.rq q) ty code v
      let w := if v.toNat < 8 then codeWidth code else elemBits ty
      fpPlan s.src.fpm l (fun t => step (t.wv vd (BitVec.ofNat 1024 (packElems w (l.map FRes.bits)))))) s

/-- One level of the reduction tree: pairs combined, an absent child passing the other on (06 R141). -/
def redLevel (comb : Nat → Nat → FRes) : List (Option Nat) → List (Option Nat) × BitVec 5
  | some x :: some y :: r =>
    let t := redLevel comb r
    (some (comb x y).bits :: t.1, (comb x y).fl ||| t.2)
  | none :: y :: r => let t := redLevel comb r; (y :: t.1, t.2)
  | x :: none :: r => let t := redLevel comb r; (x :: t.1, t.2)
  | [x] => ([x], 0)
  | [] => ([], 0)

/-- The reduction tree of `n` levels (06 R141). -/
def redTree (comb : Nat → Nat → FRes) : Nat → List (Option Nat) × BitVec 5 → List (Option Nat) × BitVec 5
  | 0, l => l
  | n + 1, l => let t := redLevel comb l.1; redTree comb n (t.1, l.2 ||| t.2)

/-- Comb of VRED (06 R141). -/
def redComb (ty : ElemType) (v : Nat) (fpm : Word) (x y : Nat) : FRes :=
  match v with
  | 0 => vaddElem ty 0 fpm x y 0
  | 1 => minMaxElem false ty 0 fpm x y 0
  | 2 => minMaxElem true ty 0 fpm x y 0
  | 3 => { bits := Nat.land x y, fl := 0 }
  | 4 => { bits := Nat.lor x y, fl := 0 }
  | 5 => { bits := Nat.xor x y, fl := 0 }
  | 6 => minMaxElem false ty 1 fpm x y 0
  | _ => minMaxElem true ty 1 fpm x y 0

/-- Identity of VRED (06 R141). -/
def redIdentity (ty : ElemType) (v : Nat) : Nat :=
  let w := elemBits ty
  match v with
  | 1 => if ty.isInt then 2 ^ (w - 1) - 1 else (fmtOfElem ty).infBits false
  | 2 => if ty.isInt then 2 ^ (w - 1) else (fmtOfElem ty).infBits true
  | 3 => 2 ^ w - 1
  | 6 => 2 ^ w - 1
  | _ => 0

/-- The value that reaches the root, written as the result of an operation for a floating type (06 R141). -/
def redRoot (ty : ElemType) (fpm : Word) (x : Nat) : FRes :=
  if ty.isInt then { bits := x, fl := 0 } else convertFlt (fmtOfElem ty) false (fpmFtz fpm) .rne ((fmtOfElem ty).read x)

/-- A leaf under DAZ: a subnormal becomes a zero of its sign (06 R141). -/
def redLeaf (ty : ElemType) (fpm : Word) (x : Nat) : Nat :=
  if ty.isInt then x else
  match fread ty fpm x with
  | .fin n 0 _ => (fmtOfElem ty).zeroBits n
  | _ => x

/-- The result of VRED over the active elements (06 R141): DAZ applies to the leaves. -/
def redResult (ty : ElemType) (v : Nat) (fpm : Word) (q : Mask) (x : Vec) : FRes :=
  let leaves := (List.range (elemCount ty)).map (fun i => if activeElem q ty i then some (redLeaf ty fpm (elemAt (elemBits ty) x i)) else none)
  let t := redTree (redComb ty v (setBits fpm 3 1 0)) 7 (leaves, 0)
  match t.1 with
  | some r :: _ => { bits := (redRoot ty fpm r).bits, fl := t.2 ||| (redRoot ty fpm r).fl }
  | _ => { bits := redIdentity ty v, fl := t.2 }

/-- VRED (06 R141): every element is written, element 0 with the result. -/
def execVred (vd va : BitVec 5) (q : BitVec 3) (ty : ElemType) (v : BitVec 4) (s : State) : Host.Outcome State Fault Refusal :=
  runSlot 1 [rnv va, rnq q] [rnv vd] (fun s =>
    let r := redResult ty v.toNat s.src.fpm (s.rq q) (s.rv va)
    fpPlan s.src.fpm [r] (fun t => t.wv vd (vecOf ty [r]))) s

end Sys2Proof.Machine
end

