-- ==== Sys2Proof/Machine/Access.lean ====
section
/-! DEFINITION. How an access leaves a thread, is performed, held and completed (09 R221 to R227), with the loads, the
stores and the vector accesses. -/

namespace Sys2Proof.Machine

/-- The state key of a target core: a core of this panel, or a core of a peer panel, which has only its scratchpad words
and full/empty bits (log 8). -/
def State.targetCore (s : State) (p k : Nat) : Nat := if s.ownPanel p then k else 16384 * (p + 1) + k

/-- A channel is calibrating: its accesses are held (15 R420). -/
def State.calibrating (s : State) (p : Nat) : Bool :=
  decide (p < 2 ^ 64) && (match AMap.get? s.calib (channelOf p) with
    | some (start, len) => decide (s.time.toNat < start + len)
    | none => false)

/-- A core of this panel is saved, by the context of core `k` or by the one that grants it a window to that core: what core `k` sends
there is held (14 R398). -/
def State.savedFor (s : State) (k t : Nat) : Bool :=
  decide (t < 16384) && (match s.ctxOfCore k with
    | some c => c.savedCore t || c.wins.any (fun w => inRect w.rect t && (match s.ctx? w.tctx with
        | some x => x.savedCore t
        | none => false))
    | none => false)

/-- The target core of an access of core `k` is saved: the access is held at the requester without a cause (14 R398). -/
def State.savedTarget (s : State) (k : Nat) (a : Word) : Bool :=
  match s.scratchOf k a with
  | some (p, t, _) => s.ownPanel p && s.savedFor k t
  | none => false

/-- An access of core `k` waits at its requester without a cause: its target core is saved (14 R398), the weight store
refreshes and the cluster's L1 does not hold the line (08 R200), the host owns its line (08 R204), its LPDDR6 channel calibrates
(15 R420), or it is host memory and no host port is up (15 R424). -/
def State.waitsOutside (s : State) (k : Nat) (a : Word) : Bool :=
  match s.scratchOf k a with
  | some _ => s.savedTarget k a
  | none =>
    if isContextVa a then
      (match s.ctxOfCore k with
       | some c => (s.hostHas c a).isSome || (match s.leafOf c a with
           | .leaf e n => (match s.leafPhys c a e n with | some p => s.calibrating p || (p / 2 ^ 64 == 2 && !(s.ports.toList.any id)) | none => false)
           | .fault => false)
       | none => false)
    else vaRegion a == 0xA && s.refreshOpen && (match s.ctxOfCore k with
      | some c => decide ((s.cluster (clusterOfCore k)).lineState c.id (lineOf a) = .i)
      | none => true)

/-- An access that leaves the core can lack a response (15 R408). -/
def isRemote (a : Word) : Bool := !(vaRegion a == 0x8)

/-- The event that performs an entry (09 R221, R226). -/
def AccEntry.event (e : AccEntry) (k t : Nat) : Instr :=
  match e.form with
  | .load _ _ | .loadPair | .vload => .loadResultArrival k t e.seq.toNat
  | .store | .vstore | .fe | .read | .clean _ => .accessCompletion k t e.seq.toNat
  | .sto => .orderedInject k t
  | .msg _ _ ord => if ord then .orderedInject k t else .msgPlace k t

/-- An entry is sent: its event waits, with its time-out when it leaves the core. -/
def State.sendEntry (s : State) (k t : Nat) (e : AccEntry) : State :=
  let s := s.post (e.event k t)
  if e.pieces.any (fun p => isRemote p.addr) then s.post (.remoteTimeout k t e.seq.toNat) else s

/-- A new entry of the issuing thread taken and sent (09 R221, R225). -/
def State.takeEntry (s : State) (e : AccEntry) : State := (s.addEntry e).sendEntry s.cur.core (s.cur.thr % 8) e

/-- The address of the first byte of an entry that has not been performed (09 R224). -/
def AccEntry.restAddr (e : AccEntry) : Word :=
  match e.pieces[e.done]? with
  | some p => p.addr
  | none => e.addr

/-- The oldest held item of a thread: its cause and address (09 R223). -/
def Thread.oldestHeld (th : Thread) : Option (Nat × Word) :=
  let l := (th.acc.filterMap (fun e => e.held.map (fun c => (e.ord, c, e.restAddr)))) ++
    (match th.latch with
     | some l => (match l.cause with | some c => [(l.ord, c, l.addr)] | none => [])
     | none => [])
  (l.foldl (fun (b : Option (Nat × Nat × Word)) x =>
    match b with
    | none => some x
    | some y => if x.1 < y.1 then some x else some y) none).map (fun x => x.2)

/-- A thread is parked by a held access, and the report goes to the core supervisor, or to firmware for a thread in
supervisor mode (09 R223; 14 R376, R377). -/
def State.holdThread (s : State) (k t cause : Nat) (isLatch : Bool) : State :=
  let th := s.thread k t
  let s := s.modThread k t (fun th => { th with held := some cause })
  match th.mode with
  | .user =>
    (s.modThread k t (fun th =>
      match th.oldestHeld with
      | some (c, a) => { th with kcause := BitVec.ofNat 64 (3 * 64 + c), kval := a, kepc := th.pc }
      | none => th)).report k cause (BitVec.ofNat 64 (t % 8 + if isLatch then 8 else 0))
  | .supervisor => s.fwReport (dieOfCore k) cause (BitVec.ofNat 64 (t % 8 + k * 2 ^ 3))
  | .firmware => s.dieFails (dieOfCore k) 13

/-- Register `n` of the copy a mode has (14 R375). -/
def Thread.writeIn (th : Thread) (m : Mode) (n : Nat) (x : Word) : Thread :=
  { ({ th with mode := m }.writeS (BitVec.ofNat 6 n) x) with mode := th.mode }

/-- The low bits of a vector as a word. -/
def wordOf (v : Vec) (i : Nat) : Word := BitVec.ofNat 64 (elemAt64 v i)
where elemAt64 (v : Vec) (i : Nat) : Nat := v.toNat / 2 ^ (64 * i) % 2 ^ 64

/-- The result of a load: `n` bytes, sign-extended where the form says so (09 R230). -/
def loadValue (n : Nat) (signed : Bool) (v : Vec) : Word :=
  let x := v.toNat % 2 ^ (8 * n)
  if signed && decide (2 ^ (8 * n - 1) ≤ x) then BitVec.ofNat 64 (x + (2 ^ 64 - 2 ^ (8 * n))) else BitVec.ofNat 64 x

/-- The registers a load entry writes. -/
def AccEntry.dests (e : AccEntry) : List RegName :=
  match e.form with
  | .load _ _ => [.s e.d]
  | .loadPair => [.s e.d, .s (e.d + 1)]
  | .vload => [.v e.d]
  | .store | .vstore | .sto | .fe | .read | .msg _ _ _ | .clean _ => []

/-- A load's value reaches its register, which stops being pending (09 R226, 02 R38). -/
def Thread.arrive (th : Thread) (e : AccEntry) : Thread :=
  (match e.form with
   | .load n signed => th.writeIn e.mode e.d (loadValue n signed e.data)
   | .loadPair => (th.writeIn e.mode e.d (wordOf e.data 0)).writeIn e.mode (e.d + 1) (wordOf e.data 1)
   | .vload => th.writeV (BitVec.ofNat 5 e.d) e.data
   | .store | .vstore | .sto | .fe | .read | .msg _ _ _ | .clean _ => th).unmark e.mode e.dests

/-- The outcome of performing pieces: the state, the data, how many were performed, and the cause that stopped them. -/
structure Performed where
  state : State
  data  : Vec
  done  : Nat
  cause : Option Nat

/-- Pieces of a load performed in address order (08 R208, 09 R224). -/
def loadPieces (k t : Nat) (st : Stamp) (m : Mode) : List Piece → State → Vec → Nat → Performed
  | [], s, v, n => { state := s, data := v, done := n, cause := none }
  | p :: r, s, v, n =>
    match s.placeN k m .load p.addr p.size with
    | .error c => { state := s, data := v, done := n, cause := some c }
    | .ok a =>
      loadPieces k t st m r (((s.cacheFor k p.addr).viaL1 k .load p.addr a).noteMem k t (tid k t) st .read p.addr a p.size |>.observe k t a p.size)
        (v ||| BitVec.ofNat 1024 (s.rdFor (clusterOfCore k) a p.size * 2 ^ (8 * p.off))) (n + 1)

/-- Host reach of an access of a thread that writes, while the host must answer for its line (09 R226, R229). -/
def State.hostReach (s : State) (k t epoch p : Nat) : State :=
  if s.hostOutstanding p then s.modThread k t (fun th => { th with hosts := th.hosts ++ [(epoch, p / 128)] }) else s

/-- A store reaches a physical place: its bytes, and host reach when the host must answer (09 R226, R229). -/
def State.storeAt (s : State) (k t epoch : Nat) (va : Word) (p n x : Nat) : State :=
  (((s.wrWake p n x).cacheFor k va).viaL1 k .store va p).hostReach k t epoch p

/-- The clusters that a schedule makes late observers of a store of context memory see it later than its own cluster and the others
(08 R209; log 3): `old` is what stood there. -/
def State.makeLate (s : State) (k t seq : Nat) (va : Word) (p n old : Nat) : State :=
  let cls := s.lag.filter (fun c => !(c == clusterOfCore k))
  if cls.isEmpty || !(isContextVa va) then s
  else { s with late := s.late ++ [{ place := p, size := n, old := old, clusters := cls, core := k, thr := t % 8, seq := seq }] }

/-- The stores of an entry that some clusters do not see yet. -/
def State.lateOf (s : State) (k t seq : Nat) : List Late := s.late.filter (fun l => l.core == k && l.thr == t % 8 && l.seq == seq)

/-- The stores of an entry are performed towards every cluster, and those that watch their lines are woken (08 R205, 11 R319). -/
def State.settleLate (s : State) (k t seq : Nat) : State :=
  let s' := { s with late := s.late.filter (fun l => !(l.core == k && l.thr == t % 8 && l.seq == seq)) }
  (s.lateOf k t seq).foldl (fun s l => s.wakeWatchers l.place) s'

/-- A store that a load of a core has read, and that has not been performed towards every cluster (09 R226). -/
def State.readsLate (s : State) (k : Nat) (e : AccEntry) : Bool :=
  !s.late.isEmpty && e.pieces.any (fun p => match s.bytePlace k p.addr with
    | some a => s.late.any (fun l => !(l.clusters.contains (clusterOfCore k)) && decide (l.place < a + p.size) &&
        decide (a < l.place + l.size))
    | none => false)

/-- Pieces of a store performed in address order (08 R208, 09 R224). -/
def storePieces (k t epoch seq : Nat) (st : Stamp) (m : Mode) (v : Vec) : List Piece → State → Nat → Performed
  | [], s, n => { state := s, data := v, done := n, cause := none }
  | p :: r, s, n =>
    match s.place k m .store p.addr with
    | .error c => { state := s, data := v, done := n, cause := some c }
    | .ok a =>
      storePieces k t epoch seq st m v r
        ((((s.storeAt k t epoch p.addr a p.size (v.toNat / 2 ^ (8 * p.off) % 2 ^ (8 * p.size))).cleanPiece a p.size p.off
          (2 ^ (8 * p.size) - 1) true).makeLate k t seq p.addr a p.size (s.rd a p.size)).noteMem k t (tid k t) st .write
          p.addr a p.size) (n + 1)

/-- The pieces of an entry performed at one time: all, or one where a schedule says so (08 R208; log 3). -/
def State.nextPieces (s : State) (e : AccEntry) : List Piece :=
  if s.piecewise then (e.pieces.drop e.done).take 1 else e.pieces.drop e.done

/-- The entry waits at the core or at its requester. -/
def State.entryWaits (s : State) (k t : Nat) (e : AccEntry) : Bool :=
  s.mustWait k t e.ord e.epoch e.slots e.isStore e.cover || (s.nextPieces e).any (fun p => s.waitsOutside k p.addr)

/-- The lines of an entry's next pieces asked back from a host that owns them (08 R204). -/
def State.callFor (s : State) (k : Nat) (e : AccEntry) : State := (s.nextPieces e).foldl (fun s p => s.callBack k p.addr) s

/-- LOAD_RESULT_ARRIVAL: a load is performed and its value arrives (02 R38, 09 R226). A cause holds it. -/
def execLoadResultArrival (core thr seq : Nat) (s : State) : Host.Outcome State Fault Refusal :=
  match (s.thread core thr).entry? seq with
  | none => happened s
  | some e =>
    if e.arrived || e.held.isSome || e.dests.isEmpty then happened s else
    if s.entryWaits core thr e then notYet (s.callFor core e) else
    let r := loadPieces core thr e.stamp e.mode (s.nextPieces e) s e.data e.done
    let e' := { e with data := r.data, done := r.done, sent := true }
    match r.cause with
    | some c =>
      happened ((r.state.modThread core thr (fun th => th.modEntry seq (fun _ => e'))).post (.accessHeld core thr seq c))
    | none =>
      if r.done < e.pieces.length then
        happened ((r.state.modThread core thr (fun th => th.modEntry seq (fun _ => e'))).post (e.event core thr))
      else
        happened ((r.state.modThread core thr (fun th => (th.arrive e').modEntry seq (fun _ => { e' with arrived := true }))).post
          (.accessCompletion core thr seq))

/-- A role field of a channel that names no thread yet, or this one (11 R315, R316). -/
def roleOk (role me : Nat) : Bool := decide (role < 2 ^ 31) || role == me

/-- The name of a thread in a role word (11 R315). -/
def roleName (s : State) (k t : Nat) : Nat := t % 8 + k * 2 ^ 3 + s.panel.toNat * 2 ^ 17 + 2 ^ 31

/-- CHSEND or CHRECV performed at its channel in one operation (11 R316): the role check, the wait, and the transfer. The
first word of the answer is 1 for CHANNEL_ROLE. R316 makes the check in the operation that is performed and also at each try: a try
whose role check and wait both fail raises CHANNEL_ROLE at once (DESIGN CHOICE, log 25). -/
def State.channelDo (s : State) (send : Bool) (me p k off : Nat) (x : Word) : Option (State × List Word) :=
  let tc := s.targetCore p k
  let w := off / 8
  let full := (s.core tc).isFull w
  let a := physScratch p k off
  let role := s.rd (a + (if send then 8 else 12)) 4
  if !(roleOk role me) then some (s, [1]) else
  if full == send then none else
  let s := s.wr (a + (if send then 8 else 12)) 4 me
  if send then some ((((s.wr a 8 x.toNat).cleanScratch a 8 (2 ^ 64 - 1)).modCore tc (fun c => c.setFull w true)).post (.feWaitTry tc w), [0])
  else some ((s.modCore tc (fun c => c.setFull w false)).post (.feWaitTry tc w), [0, s.rdw a])

/-- An access of a full/empty form of a thread on its word in one bank cycle (09 R232), or of a channel form (11 R316):
whether it may be performed, and the state and result then. -/
def State.feDo (s : State) (op fn : BitVec 7) (me p k off : Nat) (x : Word) : Option (State × List Word) :=
  let tc := s.targetCore p k
  let w := off / 8
  let full := (s.core tc).isFull w
  let a := physScratch p k off
  let put (b : Bool) (s : State) : State :=
    if full == b then s else (s.modCore tc (fun c => c.setFull w b)).post (.feWaitTry tc w)
  if op = 0x3A then (if full then some (s, [s.rdw a]) else none)
  else if op = 0x3B then (if full then some (put false s, [s.rdw a]) else none)
  else if op = 0x3C then some (put true ((s.wr a 8 x.toNat).cleanScratch a 8 (2 ^ 64 - 1)), [])
  else if op = 0x59 then s.channelDo true me p k off x
  else if op = 0x5A then s.channelDo false me p k off x
  else if op = 0x3D then (if full then none else some (put true ((s.wr a 8 x.toNat).cleanScratch a 8 (2 ^ 64 - 1)), []))
  else if fn = 0 then some (s, [flag full])
  else some (put (decide (fn = 1)) s, [])

/-- A thread's parked bundle has what it waited for (09 R233). -/
def State.grantTo (s : State) (k t : Nat) (l : List Word) : State := s.modThread k t (fun th => { th with grant := some l })

/-- The kind of a full/empty access for its causes: LDF, LDFE, FEQRY and CHRECV read (09 R232, 11 R316). -/
def AccEntry.feKind (e : AccEntry) : AccKind :=
  if e.op == 0x3A || e.op == 0x3B || e.op == 0x5A || (e.op == 0x3E && e.fn == 0) then .load else .store

/-- What a full/empty or channel access means for the conflict detector and for the order of the threads: STFF, STEF and
CHSEND release the word, LDF, LDFE and CHRECV acquire it; LDFE and CHRECV consume, STEF and CHSEND produce, FEQRY reads
(08 R218, 12 R341). -/
def State.feOrder (s : State) (k t : Nat) (e : AccEntry) (p : Nat) : State :=
  let note := fun (s : State) kind => s.noteAt k t (tid k t) e.stamp kind (p / 8) e.addr
  if e.op = 0x3A then s.acquire k t (p / 8)
  else if e.op = 0x3B || e.op = 0x5A then (note s .consume).acquire k t (p / 8)
  else if e.op = 0x3C then s.release k t (p / 8)
  else if e.op = 0x3D || e.op = 0x59 then (note s .produce).release k t (p / 8)
  else if e.fn = 0 then note s .read
  else s

/-- A full/empty request tried at its word. STFF, STEF and CHSEND release the thread's earlier accesses to that scratchpad, which are
performed first (08 R218). A request whose wait fails joins the owning core's list of 256, or is returned
when the list is full (09 R233). While the other slot of its bundle would park nothing is tried (02 R36). -/
def State.feTry (s : State) (core thr : Nat) (e : AccEntry) : Host.Outcome State Fault Refusal :=
  if s.isBlocked core thr then notYet s else
  match s.scratchOf core e.addr with
  | none => happened s
  | some (p, k, off) =>
    if (e.op == 0x3C || e.op == 0x3D || e.op == 0x59) && s.scratchLeft core thr e.ord (p, k) then notYet s else
    let bad := fun (w : Nat) => s.ownPanel p && (s.core k).poison.contains (.scratch w)
    if ((e.op == 0x3A || e.op == 0x3B || e.op == 0x5A) && bad (off / 8)) || ((e.op == 0x59 || e.op == 0x5A) && bad (off / 8 + 1)) then
      happened (s.post (.accessHeld core thr e.seq.toNat 51)) else
    match s.feDo e.op e.fn (roleName s core thr) p k off (wordOf e.data 0) with
    | some (s', l) => happened (((((s'.wakeWatchers (physScratch p k off))).feOrder core thr e (physScratch p k off)).modThread core thr (fun th => th.dropEntry e.seq.toNat)).grantTo core thr l)
    | none =>
      let tc := s.targetCore p k
      if (s.core tc).felist.length < 256 then
        happened (s.modCore tc (fun c => { c with felist := c.felist ++ [(core, thr % 8, off / 8)] }))
      else happened ((s.modThread core thr (fun th => { th with parkT := s.clock })).post (.feRequestResend core thr))

/-- CLEAN's effect over its range (09 R248). -/
def State.cleanRange (s : State) (k : Nat) (inv : Bool) (e : AccEntry) : State :=
  match s.ctxOfCore k, e.pieces with
  | some c, p :: _ => (s.linesIn c p.addr.toNat (p.addr.toNat + p.size)).foldl (fun s l => s.cleanLine inv l.1 l.2) s
  | _, _ => s

/-! ### Ownership requests at a home (08 R197) -/

/-- The rank of a port at a home in this cycle: the order of its eight ports advances by one each cycle (08 R197). `who` is a
cluster, or 1024 and more for a host port. -/
def State.portRank (s : State) (home who : Nat) : Nat := ((Config.homePort home who).toNat + 8 - s.clock % 8) % 8

/-- A store of a cluster needs ownership of the line of a place: the cluster holds it neither M nor E (08 R202 rule 3). -/
def State.needsOwner (s : State) (k : Nat) (va : Word) : Bool :=
  isContextVa va && (match s.ctxOfCore k, s.bytePlace k va with
    | some c, some p =>
      let a := s.aliasOf c va p
      (match (s.cluster (clusterOfCore k)).lineState a.1 a.2 with | .m | .e => false | .o | .s | .i => true)
    | _, _ => false)

/-- The physical lines that a store entry would take ownership of now, if it may be performed (09 R224, R245). -/
def State.ownerLines (s : State) (k t : Nat) (e : AccEntry) : List Nat :=
  match e.form with
  | .store | .vstore =>
    if e.held.isSome || s.entryWaits k t e then [] else
    (s.nextPieces e).filterMap (fun p => if s.needsOwner k p.addr then (s.bytePlace k p.addr).map (fun a => a / 128) else none)
  | .load _ _ | .loadPair | .vload | .sto | .fe | .read | .msg _ _ _ | .clean _ => []

/-- The requester whose waiting event asks for ownership of a physical line at its home, if it does: a cluster, or a host's port
(08 R197, R204). -/
def State.seeker (s : State) (line : Nat) (e : Event) : Option Nat :=
  match e.what with
  | .homeOwnershipRequest cl id va =>
    (match s.ctx? id with
     | some c => if (s.placeOf c va).map (fun p => p / 128) = some line then some cl else none
     | none => none)
  | .accessCompletion k t n =>
    (match (s.thread k t).entry? n with
     | some x => if (s.ownerLines k t x).contains line then some (clusterOfCore k) else none
     | none => none)
  | .memWr => if (s.hdmAt e.input).map (fun x => x.2 / 128) = some line then some (1024 + e.input.port % 4) else none
  | _ => none

/-- Another request for ownership of a line waits whose port comes first in this cycle (08 R197). -/
def State.losesPort (s : State) (home who line : Nat) : Bool :=
  s.agenda.any (fun e => match s.seeker line e with
    | some x => !(x == who) && decide (s.portRank home x < s.portRank home who)
    | none => false)

/-- A store loses the port order for a line of its next pieces, and waits (08 R197). -/
def State.storeLoses (s : State) (k : Nat) (e : AccEntry) : Bool :=
  match s.ctxOfCore k with
  | some c => (s.nextPieces e).any (fun p => match s.bytePlace k p.addr with
      | some a => s.needsOwner k p.addr && s.losesPort (c.homeOf p.addr) (clusterOfCore k) (a / 128)
      | none => false)
  | none => false

/-- ACCESS_COMPLETION: an entry is performed towards every observer and is freed (09 R226). A load is freed once its value
has arrived, and the write it read has been performed towards every cluster; a store is performed here, and a cause holds it, and
it is freed once every cluster sees it; stores that need ownership of a line are served in the order of the home's ports (08 R197); a
full/empty form is tried at its word. -/
def execAccessCompletion (core thr seq : Nat) (s : State) : Host.Outcome State Fault Refusal :=
  match (s.thread core thr).entry? seq with
  | none => happened s
  | some e =>
    if e.held.isSome then happened s else
    match e.form with
    | .load _ _ | .loadPair | .vload =>
      if e.arrived && !(s.readsLate core e) then happened (s.modThread core thr (fun th => th.dropEntry seq)) else notYet s
    | .store | .vstore =>
      if e.done = e.pieces.length then happened ((s.settleLate core thr seq).modThread core thr (fun th => th.dropEntry seq)) else
      if s.entryWaits core thr e then notYet (s.callFor core e) else
      if s.storeLoses core e then notYet s else
      let r := storePieces core thr e.epoch seq e.stamp e.mode e.data (s.nextPieces e) s e.done
      let s' := r.state
      match r.cause with
      | some c =>
        happened (((s'.settleLate core thr seq).modThread core thr (fun th => th.modEntry seq (fun e => { e with done := r.done, sent := true }))).post
          (.accessHeld core thr seq c))
      | none =>
        if r.done < e.pieces.length || !(s'.lateOf core thr seq).isEmpty then
          happened ((s'.modThread core thr (fun th => th.modEntry seq (fun e => { e with done := r.done, sent := true }))).post
            (e.event core thr))
        else happened (s'.modThread core thr (fun th => th.dropEntry seq))
    | .fe => if s.entryWaits core thr e then notYet s else s.feTry core thr e
    | .read =>
      if e.arrived then (if s.readsLate core e then notYet s else happened (s.modThread core thr (fun th => th.dropEntry seq))) else
      if s.entryWaits core thr e then notYet (s.callFor core e) else
      let r := loadPieces core thr e.stamp e.mode (e.pieces.drop e.done) s e.data e.done
      (match r.cause with
       | some c => happened (r.state.post (.accessHeld core thr seq c))
       | none =>
         let s' := r.state.grantTo core thr ((List.range 16).map (wordOf r.data))
         if s'.readsLate core e then
           happened ((s'.modThread core thr (fun th => th.modEntry seq (fun e => { e with done := r.done, sent := true, arrived := true }))).post
             (e.event core thr))
         else happened (s'.modThread core thr (fun th => th.dropEntry seq)))
    | .clean inv =>
      if s.mustWait core thr e.ord e.epoch e.slots true e.cover then notYet s else
      happened ((s.cleanRange core inv e).modThread core thr (fun th => th.dropEntry seq))
    | .sto | .msg _ _ _ => happened s

/-- The cause an entry meets at its next piece now, if any. -/
def State.causeNow (s : State) (k : Nat) (e : AccEntry) : Option Nat :=
  let kind : AccKind := match e.form with
    | .load _ _ | .loadPair | .vload | .read => .load
    | .fe => e.feKind
    | .store | .vstore | .sto | .msg _ _ _ | .clean _ => .store
  let n := match e.pieces[e.done]? with | some p => p.size | none => 1
  match s.placeN k e.mode kind e.restAddr n with
  | .error c => some c
  | .ok _ => none

/-- The atomic in a thread's latch by its sequence number. -/
def Thread.latch? (th : Thread) (seq : Nat) : Option Latch :=
  match th.latch with
  | some l => if l.seq.toNat == seq then some l else none
  | none => none

/-- An atomic of the ordered class, by its fn [6] or by deterministic mode (09 R238, 12 R338). -/
def State.latchOrdered (s : State) (k : Nat) (l : Latch) : Bool := l.fn.getLsbD 6 || s.detAt k

/-- The event that sends an atomic: ordered-class ones are injected (09 R238). -/
def State.latchEvent (s : State) (k t : Nat) (l : Latch) : Instr :=
  if s.latchOrdered k l then .orderedInject k t else .nearMemoryAtomic k t

/-- A held access that met a poisoned scratchpad word is logged (15 R414). -/
def State.logHeld (s : State) (k cause : Nat) (a : Word) : State :=
  if cause != 51 then s else
  match s.scratchOf k a with
  | some (p, t, off) => if s.ownPanel p then s.logScratch t off else s
  | none => s

/-- An access of core `k` has met a poisoned sector of context memory through a leaf that is not quarantined: firmware is to quarantine its
pages (15 R404). -/
def State.meetSector (s : State) (k : Nat) (a : Word) : State :=
  match s.ctxOfCore k with
  | none => s
  | some c =>
    if !(isContextVa a) then s else
    match s.leafOf c a with
    | .fault => s
    | .leaf e n =>
      match s.leafPhys c a e n with
      | none => s
      | some p =>
        if bit e 7 || !(s.isPoisoned p) then s else
        let back := (p / 2 ^ 64 + 1) % 4
        let off := p % 2 ^ 64
        s.postIn .pageQuarantine { Input.none with
          ok := true, port := back, unit := if back = 0 then off / 2 ^ 32 else 0, code := if back = 0 then off % 2 ^ 32 else off }

/-- What a cause of an access says of its sector. -/
def State.metAt (s : State) (k cause : Nat) (a : Word) : State := if cause = 15 then s.meetSector k a else s

/-- ACCESS_HELD: a cause of 09 R223 found after retirement holds the access, its thread parks, and the report is made. A
cause that no longer stands when the hold would be made sends the access again. -/
def execAccessHeld (core thr seq cause : Nat) (s : State) : Host.Outcome State Fault Refusal :=
  match (s.thread core thr).entry? seq with
  | some e =>
    if e.held.isSome || e.arrived || decide (e.done = e.pieces.length) then happened s else
    if cause == 47 || s.causeNow core e == some cause then
      happened ((((s.logHeld core cause e.restAddr).metAt core cause e.restAddr).modThread core thr (fun th => th.modEntry seq (fun e => { e with held := some cause, key := none }))).holdThread
        core thr cause false)
    else happened (s.post (e.event core thr))
  | none =>
    match (s.thread core thr).latch? seq with
    | none => happened s
    | some l =>
      if l.cause.isSome then happened s else
      if cause == 47 || (match s.placeN core l.mode .atomic l.addr l.size with | .error c => c == cause | .ok _ => false) then
        happened ((((s.logHeld core cause l.addr).metAt core cause l.addr).modThread core thr (fun th => { th with latch := some { l with cause := some cause, key := none } })).holdThread
          core thr cause true)
      else happened (s.post (s.latchEvent core thr l))

/-- REMOTE_TIMEOUT: no response has come within RTO ticks of the requester's time since the access was sent (09 R223, 15 R408).
Time-outs do not run while the requester's die has lost time sync nor while the access waits at its requester, an ordered operation
not yet injected among them (10 R275), and an access that has been performed or whose value has arrived has its response. -/
def execRemoteTimeout (core thr seq : Nat) (s : State) : Host.Outcome State Fault Refusal :=
  let th := s.thread core thr
  let due := fun (since : Nat) => (s.cdie (dieOfCore core)).sync && decide (s.rto.toNat ≤ 2 * (s.clock - since))
  match th.entry? seq with
  | some e =>
    if e.held.isSome || e.arrived || decide (e.done = e.pieces.length) then happened s else
    if (e.pieces.drop e.done).any (fun p => s.savedTarget core p.addr) || (e.form.isOrdered && e.key.isNone) ||
        (e.key.isNone && s.mustWait core thr e.ord e.epoch e.slots e.isStore e.cover) then
      notYet (s.modThread core thr (fun th => th.modEntry seq (fun e => { e with since := s.clock })))
    else if due e.since then happened (s.post (.accessHeld core thr seq 47))
    else notYet s
  | none =>
    match th.latch? seq with
    | none => happened s
    | some l =>
      if l.cause.isSome then happened s else
      if s.savedTarget core l.addr || (s.latchOrdered core l && l.key.isNone) || (!l.sent && l.key.isNone && s.mustWait core thr l.ord l.epoch l.slots true l.cover) then
        notYet (s.modThread core thr (fun th => { th with latch := some { l with since := s.clock } }))
      else if due l.since then
        happened ((s.modThread core thr (fun th => { th with latch := some { l with sent := true } })).post (.accessHeld core thr seq 47))
      else notYet s

/-- A memory form of slot A that takes an access-table entry: its issue checks, the wait for a free entry, its effect
(09 R221, R222). -/
def entryPlan (check : Option (Nat × Word)) (f : State → State) (s : State) : Plan :=
  match check with
  | some (c, v) => .trap c v
  | none => if s.src.accFull then .park .accessTable else .go f

/-- A scalar load (09 R230). -/
def runLoad (op size : Nat) (signed : Bool) (d b : BitVec 6) (o : BitVec 13) (s : State) : Host.Outcome State Fault Refusal :=
  runSlot 0 [rn b] [rn d] (fun s =>
    let a := addrM (s.rs b) o size
    entryPlan (s.issueCheck .load 9 false a size none)
      (fun t => (t.takeEntry (t.newEntry (.load size signed) op 0 d.toNat a (piecesOf a size) 0)).modTh (fun th => th.mark [rn d])) s) s

/-- A scalar store: its data is captured at retirement (09 R230). -/
def runStore (op size : Nat) (d b : BitVec 6) (o : BitVec 13) (s : State) : Host.Outcome State Fault Refusal :=
  runSlot 0 [rn b, rn d] [] (fun s =>
    let a := addrM (s.rs b) o size
    entryPlan (s.issueCheck .store 10 false a size none)
      (fun t => t.takeEntry (t.newEntry .store op 0 d.toNat a (piecesOf a size) ((s.rs d).setWidth 1024))) s) s

/-- LDB (09 R230). -/
def execLdb (d b : BitVec 6) (o : BitVec 13) (s : State) : Host.Outcome State Fault Refusal := runLoad 0x28 1 true d b o s

/-- LDBU. -/
def execLdbu (d b : BitVec 6) (o : BitVec 13) (s : State) : Host.Outcome State Fault Refusal := runLoad 0x29 1 false d b o s

/-- LDH. -/
def execLdh (d b : BitVec 6) (o : BitVec 13) (s : State) : Host.Outcome State Fault Refusal := runLoad 0x2A 2 true d b o s

/-- LDHU. -/
def execLdhu (d b : BitVec 6) (o : BitVec 13) (s : State) : Host.Outcome State Fault Refusal := runLoad 0x2B 2 false d b o s

/-- LDW. -/
def execLdw (d b : BitVec 6) (o : BitVec 13) (s : State) : Host.Outcome State Fault Refusal := runLoad 0x2C 4 true d b o s

/-- LDWU. -/
def execLdwu (d b : BitVec 6) (o : BitVec 13) (s : State) : Host.Outcome State Fault Refusal := runLoad 0x2D 4 false d b o s

/-- LDD. -/
def execLdd (d b : BitVec 6) (o : BitVec 13) (s : State) : Host.Outcome State Fault Refusal := runLoad 0x2E 8 false d b o s

/-- The register after an even one of a pair. -/
def rnNext (d : BitVec 6) : RegName := .s (d.toNat + 1)

/-- LDQ: the pair d, d+1 in one 16-byte access. -/
def execLdq (d b : BitVec 6) (o : BitVec 13) (s : State) : Host.Outcome State Fault Refusal :=
  runSlot 0 [rn b] [rn d, rnNext d] (fun s =>
    let a := addrM (s.rs b) o 16
    entryPlan (s.issueCheck .load 9 false a 16 none)
      (fun t => (t.takeEntry (t.newEntry .loadPair 0x2F 0 d.toNat a (piecesOf a 16) 0)).modTh
        (fun th => th.mark [rn d, rnNext d])) s) s

/-- STB. -/
def execStb (d b : BitVec 6) (o : BitVec 13) (s : State) : Host.Outcome State Fault Refusal := runStore 0x30 1 d b o s

/-- STH. -/
def execSth (d b : BitVec 6) (o : BitVec 13) (s : State) : Host.Outcome State Fault Refusal := runStore 0x31 2 d b o s

/-- STW. -/
def execStw (d b : BitVec 6) (o : BitVec 13) (s : State) : Host.Outcome State Fault Refusal := runStore 0x32 4 d b o s

/-- STD. -/
def execStd (d b : BitVec 6) (o : BitVec 13) (s : State) : Host.Outcome State Fault Refusal := runStore 0x33 8 d b o s

/-- STQ: the pair d, d+1 in one 16-byte access. -/
def execStq (d b : BitVec 6) (o : BitVec 13) (s : State) : Host.Outcome State Fault Refusal :=
  runSlot 0 [rn b, rn d, rnNext d] [] (fun s =>
    let a := addrM (s.rs b) o 16
    entryPlan (s.issueCheck .store 10 false a 16 none)
      (fun t => t.takeEntry (t.newEntry .store 0x34 0 d.toNat a (piecesOf a 16)
        (BitVec.ofNat 1024 ((s.rs d).toNat + (s.rs (d + 1)).toNat * 2 ^ 64)))) s) s

/-- VLD: 128 bytes (09 R231). -/
def execVld (d : BitVec 5) (b : BitVec 6) (o : BitVec 13) (s : State) : Host.Outcome State Fault Refusal :=
  runSlot 0 [rn b] [rnv d] (fun s =>
    let a := addrM (s.rs b) o 128
    entryPlan (s.issueCheck .load 9 false a 128 none)
      (fun t => (t.takeEntry (t.newEntry .vload 0x35 0 d.toNat a (piecesOf a 128) 0)).modTh (fun th => th.mark [rnv d])) s) s

/-- VST. -/
def execVst (d : BitVec 5) (b : BitVec 6) (o : BitVec 13) (s : State) : Host.Outcome State Fault Refusal :=
  runSlot 0 [rn b, rnv d] [] (fun s =>
    let a := addrM (s.rs b) o 128
    entryPlan (s.issueCheck .store 10 false a 128 none)
      (fun t => t.takeEntry (t.newEntry .vstore 0x36 0 d.toNat a (piecesOf a 128) (s.rv d))) s) s

/-- The addresses of the elements of a strided access (09 R231). -/
def strided (base stride : Word) (size : Nat) : List Word :=
  (List.range (128 / size)).map (fun i => base + BitVec.ofNat 64 i * stride)

/-- The addresses of the elements of an indexed access: base plus z times each signed z-byte index (09 R231). -/
def indexed (base : Word) (v : Vec) (size : Nat) : List Word :=
  (List.range (128 / size)).map (fun i =>
    base + BitVec.ofNat 64 size * BitVec.signExtend 64 (BitVec.ofNat (8 * size) (v.toNat / 2 ^ (8 * size * i))))

/-- The pieces of a list of elements, in increasing index (08 R208, 09 R231). -/
def elementPieces (size : Nat) (l : List Word) : List Piece :=
  (l.zip (List.range l.length)).flatMap (fun x => (piecesOf x.1 size).map (fun p => { p with off := p.off + x.2 * size }))

/-- The issue checks of the elements in increasing index, each element an access of its own: the first failing one decides
(09 R231, R222). -/
def State.elementsCheck (s : State) (kind : AccKind) (fmt size : Nat) (l : List Word) : Option (Nat × Word) :=
  l.findSome? (fun a => s.issueCheck kind fmt false a size none)

/-- VLDX in either mode. -/
def runVldx (reads : List RegName) (fn : Nat) (base : State → Word) (offs : State → Vec) (addrs : State → List Word) (d : BitVec 5) (z : BitVec 2) (s : State) :
    Host.Outcome State Fault Refusal :=
  runSlot 0 reads [rnv d] (fun s =>
    let size := 2 ^ z.toNat
    let l := addrs s
    entryPlan (s.elementsCheck .load 9 size l)
      (fun t => (t.takeEntry { t.newEntry .vload 0x37 fn d.toNat (base s) (elementPieces size l) 0 with
          offs := offs s, slots := s.src.tagsEach (l.map (fun a => (a, size))) }).modTh
        (fun th => th.mark [rnv d])) s) s

/-- VSTX in either mode. -/
def runVstx (reads : List RegName) (fn : Nat) (base : State → Word) (offs : State → Vec) (addrs : State → List Word) (d : BitVec 5) (z : BitVec 2) (s : State) :
    Host.Outcome State Fault Refusal :=
  runSlot 0 (reads ++ [rnv d]) [] (fun s =>
    let size := 2 ^ z.toNat
    let l := addrs s
    entryPlan (s.elementsCheck .store 10 size l)
      (fun t => t.takeEntry { t.newEntry .vstore 0x38 fn d.toNat (base s) (elementPieces size l) (s.rv d) with
          offs := offs s, slots := s.src.tagsEach (l.map (fun a => (a, size))) }) s) s

/-- VLDX, strided (09 R231). -/
def execVldx (d : BitVec 5) (a b : BitVec 6) (z : BitVec 2) (s : State) : Host.Outcome State Fault Refusal :=
  runVldx [rn a, rn b] (2 * z.toNat) (fun s => s.rs a) (fun s => (s.rs b).setWidth 1024) (fun s => strided (s.rs a) (s.rs b) (2 ^ z.toNat)) d z s

/-- VLDX, indexed. -/
def execVldxIx (d : BitVec 5) (a : BitVec 6) (b : BitVec 5) (z : BitVec 2) (s : State) : Host.Outcome State Fault Refusal :=
  runVldx [rn a, rnv b] (2 * z.toNat + 1) (fun s => s.rs a) (fun s => s.rv b) (fun s => indexed (s.rs a) (s.rv b) (2 ^ z.toNat)) d z s

/-- VSTX, strided. -/
def execVstx (d : BitVec 5) (a b : BitVec 6) (z : BitVec 2) (s : State) : Host.Outcome State Fault Refusal :=
  runVstx [rn a, rn b] (2 * z.toNat) (fun s => s.rs a) (fun s => (s.rs b).setWidth 1024) (fun s => strided (s.rs a) (s.rs b) (2 ^ z.toNat)) d z s

/-- VSTX, indexed. -/
def execVstxIx (d : BitVec 5) (a : BitVec 6) (b : BitVec 5) (z : BitVec 2) (s : State) : Host.Outcome State Fault Refusal :=
  runVstx [rn a, rnv b] (2 * z.toNat + 1) (fun s => s.rs a) (fun s => s.rv b) (fun s => indexed (s.rs a) (s.rv b) (2 ^ z.toNat)) d z s

/-- The region check of a full/empty form: scratchpad regions only (09 R232). -/
def feRegion (cause : Nat) (a : Word) : Option (Nat × Word) :=
  match vaRegion a with
  | 0x8 | 0x9 | 0xB => none
  | _ => some (cause, a)

/-- A full/empty form: it parks until it has been performed, and then retires with its result (09 R232, R233). For a misaligned
address in a region that is no scratchpad the spec names two causes: the model raises LOAD_FAULT or STORE_FAULT, in the order of R222
(DESIGN CHOICE, log 25). -/
def runFe (op fn : Nat) (reads writes : List RegName) (kind : AccKind) (addr data : State → Word)
    (put : List Word → State → State) (s : State) : Host.Outcome State Fault Refusal :=
  runSlot 0 reads writes (fun s =>
    match s.src.grant with
    | some l => .go (put l)
    | none =>
      let a := addr s
      match (if formatBad a then some (formatCause kind, a) else
          match feRegion (formatCause kind) a with
          | some c => some c
          | none => s.issueCheck kind (formatCause kind) true a 8 none) with
      | some (c, v) => .trap c v
      | none =>
        if s.src.accFull then .park .accessTable else
        .join (.feWord a) (fun t => t.takeEntry (t.newEntry .fe op fn 0 a (piecesOf a 8) ((data s).setWidth 1024)))) s

/-- The first word of a result into a scalar register. -/
def putFirst (d : BitVec 6) (l : List Word) (t : State) : State := t.ws d (l.headD 0)

/-- LDF (09 R232). -/
def execLdf (d b : BitVec 6) (o : BitVec 13) (s : State) : Host.Outcome State Fault Refusal :=
  runFe 0x3A 0 [rn b] [rn d] .load (fun s => addrM (s.rs b) o 8) (fun _ => 0) (putFirst d) s

/-- LDFE. -/
def execLdfe (d b : BitVec 6) (o : BitVec 13) (s : State) : Host.Outcome State Fault Refusal :=
  runFe 0x3B 0 [rn b] [rn d] .load (fun s => addrM (s.rs b) o 8) (fun _ => 0) (putFirst d) s

/-- STFF. -/
def execStff (d b : BitVec 6) (o : BitVec 13) (s : State) : Host.Outcome State Fault Refusal :=
  runFe 0x3C 0 [rn b, rn d] [] .store (fun s => addrM (s.rs b) o 8) (fun s => s.rs d) (fun _ t => t) s

/-- STEF. -/
def execStef (d b : BitVec 6) (o : BitVec 13) (s : State) : Host.Outcome State Fault Refusal :=
  runFe 0x3D 0 [rn b, rn d] [] .store (fun s => addrM (s.rs b) o 8) (fun s => s.rs d) (fun _ t => t) s

/-- FEQRY. -/
def execFeqry (d a : BitVec 6) (s : State) : Host.Outcome State Fault Refusal :=
  runFe 0x3E 0 [rn a] [rn d] .load (fun s => s.rs a) (fun _ => 0) (putFirst d) s

/-- FESET. -/
def execFeset (a : BitVec 6) (s : State) : Host.Outcome State Fault Refusal :=
  runFe 0x3E 1 [rn a] [] .store (fun s => s.rs a) (fun _ => 0) (fun _ t => t) s

/-- FECLR. -/
def execFeclr (a : BitVec 6) (s : State) : Host.Outcome State Fault Refusal :=
  runFe 0x3E 2 [rn a] [] .store (fun s => s.rs a) (fun _ => 0) (fun _ t => t) s

/-- FE_WAIT_TRY: the waiting requests of a word are tried in arrival order, one per bank cycle (09 R233). -/
def execFeWaitTry (core word : Nat) (s : State) : Host.Outcome State Fault Refusal :=
  let ready := fun (r : Nat × Nat × Nat) => r.2.2 == word &&
    (match (s.thread r.1 r.2.1).acc.find? (fun e => decide (e.form = AccForm.fe)) with
     | some e =>
       (match s.scratchOf r.1 e.addr with
        | some (p, k, off) => (s.feDo e.op e.fn (roleName s r.1 r.2.1) p k off 0).isSome
        | none => false)
     | none => true)
  match (s.core core).felist.find? (fun r => ready r && !(s.isBlocked r.1 r.2.1)) with
  | none => if (s.core core).felist.any ready then notYet s else happened s
  | some r =>
    let s := s.modCore core (fun c => { c with felist := c.felist.erase r })
    match (s.thread r.1 r.2.1).acc.find? (fun e => decide (e.form = AccForm.fe)) with
    | some e => (s.post (.feWaitTry core word)).feTry r.1 r.2.1 e
    | none => happened (s.post (.feWaitTry core word))

/-- FE_REQUEST_RESEND: a request that a full wait list returned is sent again after 64 cycles (09 R233). -/
def execFeRequestResend (core thr : Nat) (s : State) : Host.Outcome State Fault Refusal :=
  match (s.thread core thr).acc.find? (fun e => decide (e.form = AccForm.fe)) with
  | none => happened s
  | some e => if s.clock < (s.thread core thr).parkT + 64 then notYet s else happened (s.post (e.event core thr))

/-- CHSEND and CHRECV (11 R316): a parked request is tried again each time the data word changes; CHANNEL_ROLE is precise. -/
def runChannel (op : Nat) (reads writes : List RegName) (kind : AccKind) (addr data : State → Word)
    (put : List Word → State → State) (s : State) : Host.Outcome State Fault Refusal :=
  runSlot 0 reads writes (fun s =>
    let a := addr s
    match s.src.grant with
    | some (x :: l) => if x = 1 then .trap 31 a else .go (put l)
    | _ =>
      match (if formatBad a then some (formatCause kind, a) else
          match feRegion (formatCause kind) a with
          | some c => some c
          | none => s.issueCheck kind (formatCause kind) true a 16 none) with
      | some (c, v) => .trap c v
      | none =>
        if s.src.accFull then .park .accessTable else
        .join (.channel a) (fun t => t.takeEntry (t.newEntry .fe op 0 0 a (piecesOf a 16) ((data s).setWidth 1024)))) s

/-- CHSEND (11 R316). -/
def execChsend (a b : BitVec 6) (s : State) : Host.Outcome State Fault Refusal :=
  runChannel 0x59 [rn a, rn b] [] .store (fun s => s.rs a) (fun s => s.rs b) (fun _ t => t) s

/-- CHRECV (11 R316). -/
def execChrecv (d a : BitVec 6) (s : State) : Host.Outcome State Fault Refusal :=
  runChannel 0x5A [rn a] [rn d] .load (fun s => s.rs a) (fun _ => 0) (putFirst d) s

/-- STO (09 R234): an ordered-class store of an aligned word; its bundle retires at issue. -/
def execSto (d b : BitVec 6) (o : BitVec 13) (s : State) : Host.Outcome State Fault Refusal :=
  runSlot 0 [rn b, rn d] [] (fun s =>
    let a := addrM (s.rs b) o 8
    entryPlan (s.issueCheck .store 10 true a 8 none)
      (fun t => t.takeEntry (t.newEntry .sto 0x39 0 d.toNat a (piecesOf a 8) ((s.rs d).setWidth 1024))) s) s

/-- A 32-bit or 64-bit float of an atomic's operation, rounded under RNE, with no flag and no DAZ or FTZ (09 R236). -/
def amoFloat (f : FFmt) (op : AmoOp) (m o : Nat) : Nat :=
  match op with
  | .fmin => (minMaxFlt f false false (f.read m) (f.read o)).bits
  | .fmax => (minMaxFlt f false true (f.read m) (f.read o)).bits
  | _ => (f.add false .rne (f.read m) (f.read o)).bits

/-- The new word of AMO and RUPD from the old word and the operand, both of `w` bits (09 R236). -/
def amoNew (op : AmoOp) (w m o : Nat) : Nat :=
  match op with
  | .add => (m + o) % 2 ^ w
  | .and => Nat.land m o
  | .or => Nat.lor m o
  | .xor => Nat.xor m o
  | .min => if intOf w true o < intOf w true m then o else m
  | .max => if intOf w true m < intOf w true o then o else m
  | .minu => min m o
  | .maxu => max m o
  | .swap => o
  | .fadd | .fmin | .fmax => amoFloat (if w = 32 then fp32 else fp64) op m o
  | .bfadd => amoFloat bf16 .fadd (m % 2 ^ 16) (o % 2 ^ 16) + 2 ^ 16 * amoFloat bf16 .fadd (m / 2 ^ 16) (o / 2 ^ 16)

/-- The operation of a latched AMO or RUPD, by its fn [4:0] (03 R76). -/
def amoOpOf (n : Nat) : AmoOp :=
  match n with
  | 0 => .add | 1 => .and | 2 => .or | 3 => .xor | 4 => .min | 5 => .max | 6 => .minu | 7 => .maxu | 8 => .swap
  | 9 => .fadd | 10 => .fmin | 11 => .fmax | _ => .bfadd

/-- The fn [4:0] of an operation. -/
def amoCode : AmoOp → Nat
  | .add => 0 | .and => 1 | .or => 2 | .xor => 3 | .min => 4 | .max => 5 | .minu => 6 | .maxu => 7 | .swap => 8
  | .fadd => 9 | .fmin => 10 | .fmax => 11 | .bfadd => 12

/-- The new word of a latched atomic from the old one (09 R236, R237). -/
def Latch.newWord (l : Latch) (old : Nat) : Nat :=
  if l.op = 0x41 then (if old = l.expected.toNat % 2 ^ (8 * l.size) then l.operand.toNat % 2 ^ (8 * l.size) else old)
  else amoNew (amoOpOf (l.fn.toNat % 32)) (8 * l.size) old (l.operand.toNat % 2 ^ (8 * l.size))

/-- The atomic of a latch performed at its executing agent in one step (09 R235): the old word is its answer. -/
def State.atomicAt (s : State) (k t : Nat) (l : Latch) (p : Nat) : State :=
  let old := s.rd p l.size
  let s := ((s.wrWake p l.size (l.newWord old)).cacheFor k l.addr).viaL1 k .atomic l.addr p
  ((s.hostReach k t l.epoch p).modThread k t (fun th =>
    { th with latch := some { l with sent := true, answer := some (BitVec.ofNat 128 old) } })).post (.atomicAnswer k t)

/-- NEAR_MEMORY_ATOMIC: the executing agent performs the atomic, or refuses it before any effect (09 R235, R240). One it
has already performed is answered again (R225). -/
def execNearMemoryAtomic (core thr : Nat) (s : State) : Host.Outcome State Fault Refusal :=
  match (s.thread core thr).latch with
  | none => happened s
  | some l =>
    if l.cause.isSome || s.latchOrdered core l then happened s else
    if l.answer.isSome then happened (s.post (.atomicAnswer core thr)) else
    if s.mustWait core thr l.ord l.epoch l.slots true l.cover || s.waitsOutside core l.addr then notYet (s.callBack core l.addr) else
    match s.placeN core l.mode .atomic l.addr l.size with
    | .error c =>
      happened ((s.modThread core thr (fun th => { th with latch := some { l with sent := true } })).post
        (.accessHeld core thr l.seq.toNat c))
    | .ok p => happened (s.atomicAt core thr l p)

/-- The registers an atomic writes: AMO and CAS their d, CAS.Q the pair (09 R236, R237). -/
def Latch.dests (l : Latch) : List RegName :=
  if l.op = 0x42 then [] else
  if l.op = 0x41 && l.fn.toNat % 4 = 2 then [rn l.d, rnNext l.d] else [rn l.d]

/-- The answer of an atomic into its registers: a W word sign-extended (09 R236, R237). -/
def Thread.takeAnswer (th : Thread) (l : Latch) (x : BitVec 128) : Thread :=
  let lo : Word := x.setWidth 64
  (if l.op = 0x42 then th else
   if l.op = 0x41 && l.fn.toNat % 4 = 2 then
     (th.writeIn l.mode l.d.toNat lo).writeIn l.mode (l.d.toNat + 1) ((x >>> 64).setWidth 64)
   else th.writeIn l.mode l.d.toNat (if l.size = 4 then sx32 lo else lo)).unmark l.mode l.dests

/-- ATOMIC_ANSWER: the answer arrives, its register stops being pending and the latch clears (09 R240). -/
def execAtomicAnswer (core thr : Nat) (s : State) : Host.Outcome State Fault Refusal :=
  match (s.thread core thr).latch with
  | none => happened s
  | some l =>
    match l.cause, l.answer with
    | none, some x => happened (s.modThread core thr (fun th => { (th.takeAnswer l x) with latch := none }))
    | _, _ => happened s

/-- An atomic form: its checks, the wait for the latch, and its capture (09 R222, R235, R239). -/
def runAtomic (op fn size : Nat) (d a : BitVec 6) (reads writes : List RegName) (operand expected : State → Nat) (s : State) :
    Host.Outcome State Fault Refusal :=
  runSlot 0 reads writes (fun s =>
    let x := s.rs a
    match s.issueCheck .atomic 10 true x size none with
    | some (c, v) => .trap c v
    | none =>
      if s.src.latch.isSome then .park .latchBusy else
      .go (fun t =>
        let l : Latch :=
          { sent := false, armed := false, op := BitVec.ofNat 7 op, fn := BitVec.ofNat 7 fn, d := d, addr := x,
            operand := BitVec.ofNat 128 (operand s), expected := BitVec.ofNat 128 (expected s), seq := t.th.aseq, cause := none,
            answer := none, mode := s.src.mode, ord := t.th.acount, since := t.clock, slots := s.src.tags [(x, size)],
            epoch := t.th.epoch, spawn := t.th.spawns, key := none, req := t.reqNo }
        let t := t.modTh (fun th =>
          { th.mark writes with
              latch := some l, aseq := th.aseq + 1, acount := th.acount + 1,
              qseq := if t.latchOrdered s.cur.core l then th.qseq + 1 else th.qseq })
        let t := t.post (t.latchEvent s.cur.core (s.cur.thr % 8) l)
        if isRemote x then t.post (.remoteTimeout s.cur.core (s.cur.thr % 8) l.seq.toNat) else t)) s

/-- The fn of an AMO or RUPD (03 R76). -/
def amoFn (ord dbl : Bool) (op : AmoOp) : Nat := (if ord then 64 else 0) + (if dbl then 32 else 0) + amoCode op

/-- AMO (09 R236). -/
def execAmo (d a b : BitVec 6) (ord dbl : Bool) (op : AmoOp) (s : State) : Host.Outcome State Fault Refusal :=
  runAtomic 0x40 (amoFn ord dbl op) (if dbl then 8 else 4) d a [rn a, rn b] [rn d] (fun s => (s.rs b).toNat) (fun _ => 0) s

/-- RUPD: AMO without a result (09 R236). -/
def execRupd (a b : BitVec 6) (ord dbl : Bool) (op : AmoOp) (s : State) : Host.Outcome State Fault Refusal :=
  runAtomic 0x42 (amoFn ord dbl op) (if dbl then 8 else 4) 0 a [rn a, rn b] [] (fun s => (s.rs b).toNat) (fun _ => 0) s

/-- CAS (09 R237). -/
def execCas (d a b : BitVec 6) (ord : Bool) (z : CasWidth) (s : State) : Host.Outcome State Fault Refusal :=
  let o := if ord then 64 else 0
  match z with
  | .w => runAtomic 0x41 o 4 d a [rn a, rn b, rn d] [rn d] (fun s => (s.rs b).toNat) (fun s => (s.rs d).toNat) s
  | .d => runAtomic 0x41 (o + 1) 8 d a [rn a, rn b, rn d] [rn d] (fun s => (s.rs b).toNat) (fun s => (s.rs d).toNat) s
  | .q => runAtomic 0x41 (o + 2) 16 d a [rn a, rn b, rnNext b, rn d, rnNext d] [rn d, rnNext d]
      (fun s => (s.rs b).toNat + (s.rs (b + 1)).toNat * 2 ^ 64) (fun s => (s.rs d).toNat + (s.rs (d + 1)).toNat * 2 ^ 64) s

/-- CLEAN (09 R248): an empty range raises no format cause. Its block lists the format check as its only one, so its range never
raises WATCHPOINT (DESIGN CHOICE, log 25). -/
def execClean (a b : BitVec 6) (inv : Bool) (s : State) : Host.Outcome State Fault Refusal :=
  runSlot 0 [rn a, rn b] [] (fun s =>
    let lo := s.rs a
    let hi := s.rs b
    let check := if hi ≤ lo then none else if formatBad lo then some (10, lo) else
      if formatBad (hi - 1) then some (10, hi - 1) else none
    entryPlan check
      (fun t => t.takeEntry (t.newEntry (.clean inv) 0x4C (if inv then 1 else 0) 0 lo
        [{ addr := lo, size := (hi.toNat - lo.toNat), off := 0 }] 0)) s) s

/-- A prefetch that its line keeps waiting stands as a request at the home. -/
def State.askHome (s : State) (k : Nat) (own : Bool) (va : Word) : State :=
  match s.ctxOfCore k with
  | some c => s.post (if own then .homeOwnershipRequest (clusterOfCore k) c.id va else .homeReadRequest (clusterOfCore k) c.id va)
  | none => s

/-- PREF (09 R249): the line, of context memory or of the weight store, is brought towards the L1 where its translation and rights
allow; nothing is raised. Where the line waits outside the core, or the host must first give it up, the request stands at its home
(08 R200, R202, R204). -/
def execPref (hint : Bool) (b : BitVec 6) (o : BitVec 13) (s : State) : Host.Outcome State Fault Refusal :=
  runSlot 0 [rn b] [] (fun s =>
    let a := addrM (s.rs b) o 128
    let kind : AccKind := if hint then .store else .load
    .go (fun t =>
      if formatBad a || (s.accessCheck kind 0 false a 1 none).isSome || (t.scratchOf s.cur.core a).isSome then t else
      match t.place s.cur.core s.src.mode kind a with
      | .ok p =>
        if t.isPoisoned p then t
        else if t.waitsOutside s.cur.core a || (hint && t.hostShares s.cur.core a) then t.askHome s.cur.core hint a
        else (t.cacheFor s.cur.core a).viaL1 s.cur.core kind a p
      | .error _ => t)) s

/-- FENCEI (09 R247): the thread's buffered bundles are discarded, and it parks until its earlier stores have completed. -/
def execFencei (s : State) : Host.Outcome State Fault Refusal :=
  runSlot 0 [] [] (fun s =>
    if s.src.acc.any (fun e => e.isStore) || s.src.latch.isSome then .park .earlierStores
    else .go (fun t => t.modTh (fun th => { th with ibuf := [] }))) s

/-- An uncompleted entry, latch or copy command of the issuing thread is tagged with a slot (09 R228). -/
def State.slotBusy (s : State) (n : Nat) : Bool :=
  s.src.acc.any (fun e => e.slots.contains n) || (match s.src.latch with | some l => l.slots.contains n | none => false) ||
    s.own.copies.any (fun c => c.thr == s.cur.thr % 8 && c.slots.contains n)

/-- RTSET (09 R228). -/
def execRtset (a b : BitVec 6) (slot : BitVec 4) (s : State) : Host.Outcome State Fault Refusal :=
  runSlot 0 [rn a, rn b] [] (fun s =>
    if slot = 0 then .trap 3 s.cur.bundle else
    if s.slotBusy slot.toNat then .park .rangeBusy else
    if s.rs b < s.rs a then .trap 34 (s.rs a) else
    .go (fun t => t.modTh (fun th => th.setRange slot
      { used := true, desc := none, base := s.rs a, limit := s.rs b,
        cover := [(s.rs a, (s.rs b).toNat - (s.rs a).toNat)] }))) s

end Sys2Proof.Machine
end

