-- ==== Sys2Proof/Machine/Matrix.lean ====
section
/-! DEFINITION. Tiles and the matrix engine (07 R150 to R184): the tile file, shapes and checks, group sums to the bit,
the queue, gangs, and drain handlers. -/

namespace Sys2Proof.Machine

/-- TSH.FMT (02 R56). -/
def tshFmt (x : Word) : Nat := bits x 0 5

/-- TSH.ROWS. -/
def tshRows (x : Word) : Nat := bits x 5 6

/-- TSH.COLS. -/
def tshCols (x : Word) : Nat := bits x 11 9

/-- Elements per row of a shape: 2·COLS for TERN2, 4·COLS for BIN1 (07 R151). -/
def tshElems (x : Word) : Nat := if tshFmt x = 22 then 2 * tshCols x else if tshFmt x = 23 then 4 * tshCols x else tshCols x

/-- The column limit of a format (07 R151). -/
def colLimit (code : Nat) : Nat :=
  match codeWidth code with
  | 64 => 16 | 32 => 32 | 16 => 64 | 8 => 128 | 6 => 160 | _ => 256

/-- k_g of a format (07 R151). -/
def kgOf (code : Nat) : Nat :=
  match code with
  | 0 => 4
  | 1 => 8
  | 2 => 16
  | c => match codeWidth c with
    | 16 => 16 | 8 => 32 | 6 => 32 | _ => 64

/-- The TSH register of a tile of the core. -/
def Core.shape (c : Core) (t : Nat) : Word := c.tsh[t % 32]'(Nat.mod_lt _ (by decide))

/-- A tile row as a number, byte 0 least significant (07 R150). -/
def Core.tileRow (c : Core) (t r : Nat) : Nat := readBytes c.tiles (t % 32 * 4096 + r % 32 * 128) 128

/-- A tile row written whole (07 R164). -/
def Core.setTileRow (c : Core) (t r x : Nat) : Core :=
  { c with tiles := writeBytes c.tiles (t % 32 * 4096 + r % 32 * 128) 128 x }

/-- The poison of a tile row cleared by a write of all of it (15 R402). -/
def Core.cleanRow (c : Core) (t r : Nat) : Core := { c with poison := c.poison.filter (fun p => !(decide (p = .tileRow t r))) }

/-- The accumulator word width for an accumulator FMT (07 R153). -/
def accWidth (fmt : Nat) : Nat := if fmt = 0 then 64 else 32

/-- The operands of a matrix operation: accumulator, A (or halo), B, flags (07 R166 to R174). -/
structure MatSpec where
  d : Nat
  a : Nat
  b : Nat
  f : MFlags
  deriving DecidableEq, Repr

/-- The operands of a matrix form. -/
def matSpec (i : Instr) : MatSpec :=
  match i with
  | .mma d a b f | .mmaw d a b f => ⟨d.toNat, a.toNat, b.toNat, f⟩
  | .mmas d a b _ f => ⟨d.toNat, a.toNat, b.toNat, f⟩
  | .mmag d a b _ f => ⟨d.toNat, a.toNat, b.toNat, f⟩
  | .mmal _ d a b f => ⟨d.toNat, a.toNat, b.toNat, f⟩
  | _ => ⟨0, 0, 0, ⟨false, false, false⟩⟩

/-- The op of a matrix form as R182 records it. -/
def matOpCode (i : Instr) : Nat :=
  match i with
  | .mma .. => 0x28 | .mmas .. => 0x29 | .mmag .. => 0x2A | .mmaw .. => 0x2B | _ => 0x4A

/-- The wait and signal of an operation, if it has them. -/
def matCmd (i : Instr) : Option EngCmd := match i with | .mmal e _ _ _ _ => some e | _ => none

/-- The stream of an MMAS. -/
def matStream (i : Instr) : Option (BitVec 3) := match i with | .mmas _ _ _ w _ => some w | _ => none

/-- An operation reads a B tile of its own core: every one but a gang's non-leader. -/
def MatOp.ownB (o : MatOp) (k : Nat) : Bool := o.leader == k

/-- The tiles an operation names as operands, scale tiles included (07 R152, R162). -/
def MatOp.reads (o : MatOp) (k : Nat) : List Nat :=
  let m := matSpec o.instr
  let one := fun (t : Nat) (sh : Word) => if isBlockCode (tshFmt sh) then [t, t + 1] else [t]
  one m.a o.tsha ++ (if o.ownB k then one m.b o.tshb else [])

/-- Mark W of a tile (07 R162). -/
def Core.isW (c : Core) (t : Nat) : Bool :=
  c.mq.any (fun o => (matSpec o.instr).d == t) || c.drains.any (fun d => d.tile == t)

/-- Mark read-busy of a tile (07 R162). -/
def Core.isBusy (c : Core) (k t : Nat) : Bool := c.mq.any (fun o => (o.reads k).contains t)

/-- KVAL of TILE_SHAPE (07 R154). -/
def tileShapeVal (tile reason : Nat) : Word := BitVec.ofNat 64 (tile + reason * 2 ^ 8)

/-- Reasons 1 to 3 of a tile (07 R154); `acc` for an accumulator. -/
def shapeReason (acc : Bool) (sh : Word) : Option Nat :=
  if 24 ≤ tshFmt sh then some 1 else
  if tshRows sh = 0 || 32 < tshRows sh then some 2 else
  let lim := if acc then (if tshFmt sh = 0 then 16 else if tshFmt sh = 1 then 32 else 512) else colLimit (tshFmt sh)
  if (acc && 1 < tshFmt sh) then none else
  if tshCols sh = 0 || lim < tshCols sh then some 3 else none

/-- A check of a shape as a trap. -/
def shapeTrap (acc : Bool) (t : Nat) (sh : Word) : Option (Nat × Word) := (shapeReason acc sh).map (fun r => (17, tileShapeVal t r))

/-- The class of a format: 0 FP64, 1 the floating formats, 2 the integer ones, 3 BIN1 (07 R155). -/
def pairClass (code : Nat) : Nat := if code = 0 then 0 else if code ≤ 16 then 1 else if code ≤ 22 then 2 else 3

/-- FORMAT_PAIR (07 R155). -/
def pairTrap (fa fb : Nat) : Option (Nat × Word) :=
  if pairClass fa = pairClass fb then none else some (18, BitVec.ofNat 64 (fa + fb * 2 ^ 8))

/-- The accumulator FMT that a pair asks for (07 R155). -/
def accFmtOf (fa : Nat) : Nat := if fa = 0 then 0 else 1

/-- The first entry of a list equal to an earlier one. -/
def firstRepeat : List Nat → List Nat → Option Nat
  | _, [] => none
  | seen, x :: r => if seen.contains x then some x else firstRepeat (seen ++ [x]) r

/-- A tile with its scale tile. -/
def withScale (t : Nat) (sh : Word) : List Nat := if isBlockCode (tshFmt sh) then [t, t + 1] else [t]

/-- Reason 9 (07 R154, R461). -/
def overlapTrap (d a : Nat) (sa : Word) (b : Option (Nat × Word)) : Option (Nat × Word) :=
  (firstRepeat [] (d :: withScale a sa ++ (match b with
    | some (b, sb) => if b = a then [] else withScale b sb
    | none => []))).map (fun t => (17, tileShapeVal t 9))

/-- A check, if its condition holds. -/
def failIf (c : Bool) (tile reason : Nat) : Option (Nat × Word) := if c then some (17, tileShapeVal tile reason) else none

/-- The first of a list of checks that fails. -/
def firstFail (l : List (Option (Nat × Word))) : Option (Nat × Word) := l.findSome? id

/-- Reason 7: a block-format operand in an odd tile. -/
def oddBlock (t : Nat) (sh : Word) : Option (Nat × Word) := failIf (isBlockCode (tshFmt sh) && t % 2 == 1) t 7

/-- The issue checks of MMA and MMAL (07 R166). -/
def checkMma (c : Core) (m : MatSpec) : Option (Nat × Word) :=
  let sd := c.shape m.d
  let sa := c.shape m.a
  let sb := c.shape m.b
  firstFail [shapeTrap true m.d sd, shapeTrap false m.a sa, shapeTrap false m.b sb, pairTrap (tshFmt sa) (tshFmt sb),
    failIf (tshFmt sd != accFmtOf (tshFmt sa)) m.d 4, failIf (tshRows sd != tshRows sa || tshCols sd != tshRows sb) m.d 5,
    failIf (tshElems sa != tshElems sb) m.b 6, oddBlock m.a sa, oddBlock m.b sb, overlapTrap m.d m.a sa (some (m.b, sb))]

/-- k_g of a pair (07 R156). -/
def pairKg (fa fb : Nat) : Nat := min (kgOf fa) (kgOf fb)

/-- The issue checks of MMAS: those of MMA with its own extents (07 R167, R461), then the stream. -/
def checkMmas (c : Core) (th : Thread) (m : MatSpec) (w : BitVec 3) : Option (Nat × Word) :=
  let sd := c.shape m.d
  let sa := c.shape m.a
  let sb := c.shape m.b
  let kg := pairKg (tshFmt sa) (tshFmt sb)
  let st := th.stream w
  firstFail [shapeTrap true m.d sd, shapeTrap false m.a sa, shapeTrap false m.b sb, pairTrap (tshFmt sa) (tshFmt sb),
    failIf (tshFmt sd != accFmtOf (tshFmt sa)) m.d 4, failIf (tshRows sd != tshRows sa || tshCols sd != tshRows sb) m.d 5,
    failIf (tshElems sa % kg != 0) m.a 6, failIf (tshElems sb % kg != 0 || decide (tshElems sb < tshElems sa)) m.b 6,
    oddBlock m.a sa, oddBlock m.b sb, overlapTrap m.d m.a sa (some (m.b, sb)),
    if !st.bound || st.writing then some (21, BitVec.ofNat 64 (w.toNat + if st.bound then 8 else 0)) else none]

/-- TWIN.OFFt (02 R57). -/
def twinOff (x : Word) (t : Nat) : Nat := bits x (8 * t) 5

/-- The issue checks of MMAW (07 R174). -/
def checkMmaw (c : Core) (th : Thread) (m : MatSpec) : Option (Nat × Word) :=
  let sd := c.shape m.d
  let sa := c.shape m.a
  let sb := c.shape m.b
  let cc := tshElems sa
  let t := tshElems sb / cc
  firstFail [shapeTrap true m.d sd, shapeTrap false m.a sa, shapeTrap false m.b sb, pairTrap (tshFmt sa) (tshFmt sb),
    failIf (tshFmt sd != accFmtOf (tshFmt sa)) m.d 4, failIf (tshCols sd != tshRows sb) m.d 5,
    failIf (isBlockCode (tshFmt sa) && cc % blockSize (tshFmt sa) != 0) m.a 6,
    failIf (tshElems sb % cc != 0 || t == 0 || decide (4 < t)) m.b 6, oddBlock m.a sa, oddBlock m.b sb,
    failIf ((List.range t).any (fun x => decide (tshRows sa < tshRows sd + twinOff th.twin x))) m.a 8,
    overlapTrap m.d m.a sa (some (m.b, sb))]

/-- The issue checks of a member of a gang (07 R171): only the leader checks B and the pair. -/
def checkMmag (c : Core) (leader : Bool) (m : MatSpec) : Option (Nat × Word) :=
  if leader then checkMma c m else
  let sd := c.shape m.d
  let sa := c.shape m.a
  firstFail [shapeTrap true m.d sd, shapeTrap false m.a sa, failIf (tshFmt sd != accFmtOf (tshFmt sa)) m.d 4,
    failIf (tshRows sd != tshRows sa) m.d 5, oddBlock m.a sa, overlapTrap m.d m.a sa none]

/-- The queue is full: accepted operations, of which a drained one keeps its entry until its rows are released, and entries held at
the gang barrier (07 R161, R171, R176; 14 R393). -/
def Core.mqFull (c : Core) : Bool := decide (8 ≤ c.mq.length + c.drains.length + c.gang.length)

/-- A new operation of a core's engine (07 R151, R161). -/
def newMatOp (c : Core) (th : Thread) (k t : Nat) (i : Instr) : MatOp :=
  let m := matSpec i
  { instr := i, tshd := c.shape m.d, tsha := c.shape m.a, tshb := c.shape m.b, twin := th.twin, thr := t % 8, seq := c.mseq,
    groups := 0, entry := 0, dense := 0, ga := 0, gb := 0, waitMet := false, started := false, gang := [],
    leader := k, jseq := c.mseq, epoch := th.epoch, ord := th.acount, stamp := Stamp.none }

/-- An operation accepted (07 R161). -/
def State.acceptOp (s : State) (k : Nat) (o : MatOp) : State :=
  let th := s.thread k o.thr
  let o := { o with stamp := if s.detAt k then { ivl := s.clock + 1, q := s.quantumAt k, bno := th.retired, seen := th.clock k o.thr }
                             else Stamp.none }
  (s.modCore k (fun c => { c with mq := c.mq ++ [o], mseq := c.mseq + 1 })).postOnce (.matrixOpStart k)

/-- A slot B or long matrix form: its checks, the wait for the queue, its acceptance (07 R166). -/
def runMatrix (slot : Nat) (i : Instr) (check : State → Option (Nat × Word)) (s : State) : Host.Outcome State Fault Refusal :=
  runSlot slot [] [] (fun s =>
    match check s with
    | some (c, v) => .trap c v
    | none =>
      if s.own.mqFull then .park .queueFull
      else .go (fun t => t.acceptOp s.cur.core (newMatOp s.own s.src s.cur.core s.cur.thr i))) s

/-- MMA (07 R166). -/
def execMma (d a b : BitVec 5) (f : MFlags) (s : State) : Host.Outcome State Fault Refusal :=
  runMatrix 1 (.mma d a b f) (fun s => checkMma s.own (matSpec (.mma d a b f))) s

/-- MMAL: its engine wait is looked at when it stands at the head of the queue (07 R166). -/
def execMmal (e : EngCmd) (d a b : BitVec 5) (f : MFlags) (s : State) : Host.Outcome State Fault Refusal :=
  runMatrix 2 (.mmal e d a b f) (fun s => checkMma s.own (matSpec (.mmal e d a b f))) s

/-- MMAS (07 R167). -/
def execMmas (d a b : BitVec 5) (w : BitVec 3) (f : MFlags) (s : State) : Host.Outcome State Fault Refusal :=
  runMatrix 1 (.mmas d a b w f) (fun s => checkMmas s.own s.src (matSpec (.mmas d a b w f)) w) s

/-- MMAW (07 R174). -/
def execMmaw (d a b : BitVec 5) (f : MFlags) (s : State) : Host.Outcome State Fault Refusal :=
  runMatrix 1 (.mmaw d a b f) (fun s => checkMmaw s.own s.src (matSpec (.mmaw d a b f))) s

/-- The position of a core in its core row (07 R170). -/
def gangPos (k : Nat) : Nat := coreInCluster k % 4

/-- The cores of a gang of a size that a core belongs to (07 R170). -/
def gangCores (k : Nat) (four : Bool) : List Nat :=
  if four then (List.range 4).map (fun p => k / 4 * 4 + p) else (List.range 2).map (fun p => k / 2 * 2 + p)

/-- The leader of a core's gang. -/
def gangLeader (k : Nat) (four : Bool) : Nat := if four then k / 4 * 4 else k / 2 * 2

/-- MMAG (07 R171): a member that passes its checks arrives at the wired barrier and stays parked until it completes. -/
def execMmag (d a b : BitVec 5) (four : Bool) (f : MFlags) (s : State) : Host.Outcome State Fault Refusal :=
  runSlot 1 [] [] (fun s =>
    if s.src.grantB then .go (fun t => t) else
    let k := s.cur.core
    let i : Instr := .mmag d a b four f
    match checkMmag s.own (gangLeader k four == k) (matSpec i) with
    | some (c, v) => .trap c v
    | none =>
      if s.own.mqFull then .park .queueFull else
      .join .gang (fun t => (t.modOwn (fun c => { c with gang := c.gang ++ [
        { thr := s.cur.thr % 8, instr := i, fmtA := tshFmt (c.shape a.toNat), elemsA := tshElems (c.shape a.toNat),
          cols := tshCols (c.shape d.toNat), rowsB := tshRows (c.shape b.toNat), seen := false }] })).post
        (.mmagBarrierComplete k (s.cur.thr % 8)))) s

/-- The arrival of thread t of a core at its gang barrier. -/
def Core.arrival? (c : Core) (t : Nat) : Option GangArr := c.gang.find? (fun g => g.thr == t % 8)

/-- The gang size of an arrival: four or two. -/
def GangArr.four (g : GangArr) : Bool := match g.instr with | .mmag _ _ _ x _ => x | _ => false

/-- The first difference between two arrivals of one core row, by position (07 R172). -/
def gangDiff (p : Nat) (x : GangArr) (q : Nat) (y : GangArr) : Option Nat :=
  let fx := (matSpec x.instr).f
  let fy := (matSpec y.instr).f
  let lead := if x.four then 0 else p / 2 * 2
  if x.four != y.four then some 1
  else if fx.rz != fy.rz || fx.sat != fy.sat then some 2
  else if x.fmtA != y.fmtA then some 3
  else if x.elemsA != y.elemsA then some 4
  else if (p == lead && y.cols != x.rowsB) || (q == lead && x.cols != y.rowsB) then some 5
  else none

/-- Two positions would share a gang under either one's size (07 R172). -/
def sharesGang (p : Nat) (x : GangArr) (q : Nat) (y : GangArr) : Bool := x.four || y.four || p / 2 == q / 2

/-- The arrivals of thread t on a core row that the barrier has seen, by position. -/
def State.rowArrivals (s : State) (k t : Nat) : List (Nat × GangArr) :=
  (List.range 4).filterMap (fun p => match (s.core (k / 4 * 4 + p)).arrival? t with
    | some g => if g.seen then some (p, g) else none
    | none => none)

/-- The barrier sees the arrival of a thread (07 R172). -/
def Core.seeArrival (c : Core) (t : Nat) : Core :=
  { c with gang := c.gang.map (fun g => if g.thr == t % 8 then { g with seen := true } else g) }

/-- An arrival taken off its barrier. -/
def Core.dropArrival (c : Core) (t : Nat) : Core := { c with gang := c.gang.filter (fun g => !(g.thr == t % 8)) }

/-- MMAG_BARRIER_COMPLETE (07 R171 to R173): the barrier sees one arrival after the other, and compares each with those it has
seen; arrivals that disagree raise GANG_MISMATCH; when every member has arrived, all bundles retire and the joint operation is
accepted on every member. -/
def execMmagBarrierComplete (core thr : Nat) (s : State) : Host.Outcome State Fault Refusal :=
  match (s.core core).arrival? thr with
  | none => happened s
  | some me =>
    let s := s.modCore core (fun c => c.seeArrival thr)
    let row := core / 4 * 4
    let l := s.rowArrivals core thr
    let p := gangPos core
    let near := l.filter (fun x => !(x.1 == p) && sharesGang p me x.1 x.2)
    let diffs := near.filterMap (fun x => gangDiff p me x.1 x.2)
    match diffs with
    | d :: r =>
      let all := l.filter (fun x => x.1 == p || near.any (fun y => y.1 == x.1) || near.any (fun y => sharesGang y.1 y.2 x.1 x.2))
      let v := BitVec.ofNat 64 ((all.map (fun x => 2 ^ x.1)).sum + (r.foldl min d) * 2 ^ 8)
      happened (all.foldl (fun s x =>
        let k := row + x.1
        ((s.modCore k (fun c => c.dropArrival thr)).trapEntry k thr 19 1 v (s.thread k thr).pc)) s)
    | [] =>
      let mem := gangCores core me.four
      if !(mem.all (fun k => ((s.core k).arrival? thr).any (fun g => g.seen))) then happened s else
      let lead := gangLeader core me.four
      let lt := (s.core lead).shape (match (s.core lead).arrival? thr with | some g => (matSpec g.instr).b | none => 0)
      happened (mem.foldl (fun (t : State) k =>
        match (s.core k).arrival? thr with
        | some g =>
          let o := { newMatOp (s.core k) (s.thread k thr) k thr g.instr with
                      tshb := lt, gang := mem, leader := lead, jseq := (s.core lead).mseq }
          ((t.modCore k (fun c => c.dropArrival thr)).acceptOp k o).modThread k thr (fun th => { th with grantB := true })
        | none => t) s)

/-- The value of an element of a tile row (05 R112, R114, R117): `row` the row's bits, `scales` those of the scale tile's row. -/
def tileVal (code row scales c : Nat) : NVal :=
  let w := codeWidth code
  let x := row / 2 ^ (w * c) % 2 ^ w
  if isBlockCode code then .num (blockValue code (scales / 2 ^ (8 * (127 - c / blockSize code)) % 256) x)
  else (nfmtOf code).read false x

/-- The values of a row of an operand, columns `lo` to `lo + n - 1`. -/
def Core.rowVals (c : Core) (t : Nat) (code r lo n : Nat) : List NVal :=
  let row := c.tileRow t r
  let sc := if isBlockCode code then c.tileRow (t + 1) r else 0
  (List.range n).map (fun j => tileVal code row sc (lo + j))

/-- The product of two floating values, exact (07 R157). -/
def mulExact (a b : FNum) : FNum :=
  match a, b with
  | .nan _, _ => .nan false
  | _, .nan _ => .nan false
  | .inf n, .inf m => .inf (xor n m)
  | .inf n, .fin k m _ => if m = 0 then .nan false else .inf (xor n k)
  | .fin k m _, .inf n => if m = 0 then .nan false else .inf (xor n k)
  | .fin n a x, .fin m b y => .fin (xor n m) (a * b) (x + y)

/-- A value as a floating one: integers never meet here. -/
def NVal.asFlt : NVal → FNum
  | .num x => x
  | .int i => .fin (decide (i < 0)) i.natAbs 0

/-- A value as an integer. -/
def NVal.asInt : NVal → Int
  | .int i => i
  | .num _ => 0

/-- A product is an exact zero. -/
def isZero : FNum → Bool
  | .fin _ 0 _ => true
  | _ => false

/-- The sum of the finite values of a list in units of 2^q. -/
def sumUnits (q : Int) : List FNum → Int
  | [] => 0
  | .fin n m e :: r => (if m = 0 then 0 else signedUnits n m e q) + sumUnits q r
  | _ :: r => sumUnits q r

/-- The least exponent of the nonzero finite values of a list. -/
def minExp (l : List FNum) : Int :=
  (l.filterMap (fun x => match x with | .fin _ m e => if m = 0 then none else some e | _ => none)).foldl min 0

/-- The exact sum of products (07 R158). -/
def sumExact (l : List FNum) : FNum :=
  if l.any FNum.isNan then .nan false else
  let p := l.any (fun x => match x with | .inf false => true | _ => false)
  let n := l.any (fun x => match x with | .inf true => true | _ => false)
  if p && n then .nan false else if p then .inf false else if n then .inf true else
  let q := minExp l
  let t := sumUnits q l
  .fin (decide (t < 0)) t.natAbs q

/-- Acc of a floating pair (07 R158). -/
def accFloat (f : FFmt) (rz sat : Bool) (x : Nat) (sum : FNum) : Nat :=
  match sumExact [f.read x, sum] with
  | .nan _ => f.canonNan
  | .inf n => f.infBits n
  | .fin n m e => if m = 0 then f.zeroBits false else (f.roundFin sat false (if rz then .rz else .rne) n m e).bits

/-- Acc of an integer pair (07 R159). -/
def accInt (sat : Bool) (x : Nat) (sum : Int) : Nat :=
  let y := intOf 32 true x + sum
  intBits 32 (if sat then clampInt (-(2 ^ 31)) (2 ^ 31 - 1) y else y)

/-- One accumulator word after a group (07 R157 to R159). -/
def accWord (fa : Nat) (f : MFlags) (x : Nat) (va vb : List NVal) : Nat :=
  if pairClass fa < 2 then
    let p := (va.zip vb).map (fun y => mulExact y.1.asFlt y.2.asFlt)
    if p.all isZero then x else accFloat (if fa = 0 then fp64 else fp32) f.rz f.sat x (sumExact p)
  else
    let p := (va.zip vb).map (fun y => y.1.asInt * y.2.asInt)
    if p.all (fun y => y == 0) then x else accInt f.sat x p.sum

/-- Words of a row of `w` bits with the first ones replaced by those of a list. -/
def putWords (w row : Nat) (l : List Nat) : Nat := packElems w l + row / 2 ^ (w * l.length) * 2 ^ (w * l.length)

/-- The window row and column of an MMAW element, or the plain ones (07 R174). -/
def MatOp.rowOf (o : MatOp) (i col : Nat) : Nat :=
  match o.instr with
  | .mmaw .. => i + twinOff o.twin (col / tshElems o.tsha)
  | _ => i

/-- Values of A of an operation, row i, columns `lo` to `lo + n - 1` of its K extent. -/
def MatOp.valsA (o : MatOp) (c : Core) (i lo n : Nat) : List NVal :=
  let t := (matSpec o.instr).a
  match o.instr with
  | .mmaw .. =>
    (List.range n).flatMap (fun j =>
      c.rowVals t (tshFmt o.tsha) (o.rowOf i (lo + j)) ((lo + j) % tshElems o.tsha) 1)
  | _ => c.rowVals t (tshFmt o.tsha) i lo n

/-- Rows of the accumulator: A's ROWS, or for MMAW the accumulator's (07 R157, R174). -/
def MatOp.rows (o : MatOp) : Nat := match o.instr with | .mmaw .. => tshRows o.tshd | _ => tshRows o.tsha

/-- The K extent: elements per row of A, or for MMAW of B (07 R156, R174). -/
def MatOp.extent (o : MatOp) : Nat := match o.instr with | .mmaw .. => tshElems o.tshb | _ => tshElems o.tsha

/-- k_g of an operation. -/
def MatOp.kg (o : MatOp) : Nat := pairKg (tshFmt o.tsha) (tshFmt o.tshb)

/-- G of an operation (07 R156). -/
def MatOp.groupCount (o : MatOp) : Nat := (o.extent + o.kg - 1) / o.kg

/-- K-group ga of A with group gb of B applied to the accumulator of core `c`; B stands in core `cb` (07 R157, R173). -/
def applyGroup (c cb : Core) (o : MatOp) (ga gb : Nat) : Core :=
  let m := matSpec o.instr
  let w := accWidth (tshFmt o.tshd)
  let n := min o.kg (o.extent - ga * o.kg)
  let bs := (List.range (tshRows o.tshb)).map (fun j => cb.rowVals m.b (tshFmt o.tshb) j (gb * o.kg) n)
  (List.range o.rows).foldl (fun (c' : Core) i =>
    let row := c.tileRow m.d i
    let va := o.valsA c i (ga * o.kg) n
    c'.setTileRow m.d i (putWords w row ((bs.zip (List.range bs.length)).map (fun x =>
      accWord (tshFmt o.tsha) m.f (row / 2 ^ (w * x.2) % 2 ^ w) va x.1)))) c

/-- A report of a halted engine waits for a place in the report queue, the copy engine's or the matrix engine's: the engine stays
halted (14 R376). The KVAL of the matrix engine's reports names its op in [27:21] (07 R182). -/
def Core.reportWaits (c : Core) (copy : Bool) : Bool :=
  c.repWait.any (fun r => if copy then [23, 24, 53].contains r.1 || (r.1 == 50 && bits r.2 21 7 == 0)
    else r.1 == 20 || ([50, 52].contains r.1 && !(bits r.2 21 7 == 0)))

/-- The engine of a core is halted by a fault, or because its report waits (07 R182; 14 R376). -/
def Core.mFaulted (c : Core) : Bool := c.mfault || c.reportWaits false

/-- The engine of a core is halted: by a fault, or by a stop that found no K-group running when it took effect (07 R182, R184; 14
R388; 20 R456). -/
def State.matHalted (s : State) (k : Nat) : Bool := (s.core k).mFaulted || (s.stopStands k && !(s.core k).runGroup)

/-- The head operation of a core's engine. -/
def Core.headOp? (c : Core) : Option MatOp := c.mq.head?

/-- The members of an operation: its own core, or its gang (07 R173). -/
def MatOp.members (o : MatOp) (k : Nat) : List Nat := if o.gang.isEmpty then [k] else o.gang

/-- Every member's head operation is this joint one, and no member is halted (07 R173, R184). -/
def State.opReady (s : State) (k : Nat) (o : MatOp) : Bool :=
  (o.members k).all (fun m =>
    !(s.matHalted m) && (match (s.core m).headOp? with
      | some x => x.leader == o.leader && x.jseq == o.jseq && x.gang == o.gang
      | none => false))

/-- The head operation of a core changed. -/
def Core.modHead (c : Core) (f : MatOp → MatOp) : Core :=
  { c with mq := match c.mq with | o :: r => f o :: r | [] => [] }

/-- A semaphore of a core. -/
def Core.sem (c : Core) (n : BitVec 8) : BitVec 16 := c.sems[n.toNat]'n.isLt

/-- The wait of an engine command is met (02 R45). -/
def Core.waitMet (c : Core) (e : EngCmd) : Bool := decide (e.wthr.toNat ≤ (c.sem e.wsem).toNat)

/-- A drained tile of a core that its head operation names still waits for rows (07 R176). -/
def Core.drainHolds (c : Core) (k : Nat) : Bool :=
  match c.headOp? with
  | some o => c.drains.any (fun d => ((matSpec o.instr).d :: o.reads k).contains d.tile)
  | none => false

/-- Where the walk of an MMAS stands in the head record of its stream (07 R168, R184); 0 for another form. -/
def State.entryPos (s : State) (k : Nat) (o : MatOp) : Nat :=
  match matStream o.instr with
  | some n => ((s.thread k o.thr).stream n).entry
  | none => 0

/-- A fence with fn [3] holds a later operation of its thread from being performed before the accesses that it releases, as it holds
stores (08 R220: DEDUCED, since 09 R245 says of fn [3] that it holds nothing later, and R220 that the engine's accesses follow a
FENCE.REL with it; log 25). -/
def State.fenceHoldsMatrix (s : State) (k : Nat) (o : MatOp) : Bool :=
  match (s.thread k o.thr).fence with
  | none => false
  | some f => f.m && decide (f.epoch < o.epoch) && s.fenceHoldsStores k o.thr f

/-- The head operation of a core waits for earlier accesses of its thread: those to the own scratchpad, and those before a fence that
covers matrix operations (08 R220). -/
def State.headWaits (s : State) (k : Nat) : Bool :=
  match (s.core k).headOp? with
  | some o => s.scratchLeft k o.thr o.ord (ownKey, k) || s.fenceHoldsMatrix k o
  | none => false

/-- No K-group of an operation's members runs any more. -/
def State.endGroup (s : State) (l : List Nat) : State := l.foldl (fun s m => s.modCore m (fun c => { c with runGroup := false })) s

/-- MATRIX_OP_START: the head operation starts once its wait is met, its threads' earlier accesses to the own scratchpad have been
performed, no drained tile that it names on any member still waits for rows, and in a gang every member's queue has come to it
(07 R166, R173, R176, R181; 08 R220). -/
def execMatrixOpStart (core : Nat) (s : State) : Host.Outcome State Fault Refusal :=
  match (s.core core).headOp? with
  | none => happened s
  | some o =>
    if o.started then happened s else
    if !(s.opReady core o) || (o.members core).any (fun m => (s.core m).drainHolds m || s.headWaits m) then notYet s else
    if !(match matCmd o.instr with | some e => (s.core core).waitMet e | none => true) then notYet s else
    happened (((o.members core).foldl (fun s m =>
      let got := match matCmd o.instr, s.ctxOfCore m with
        | some e, some z => if z.det && e.wthr != 0 then z.clock (semObj m e.wsem.toNat) else []
        | _, _ => []
      s.modCore m (fun c => c.modHead (fun o =>
        { o with started := true, waitMet := true, entry := s.entryPos m o, stamp := { o.stamp with seen := joinClocks o.stamp.seen got } }))) s).postOnce (.matrixGroupComplete o.leader))

/-- KVAL of a matrix engine fault (07 R182). -/
def matFaultVal (o : MatOp) (detail : Nat) : Word :=
  BitVec.ofNat 64 (o.groups % 2 ^ 16 + (matSpec o.instr).d * 2 ^ 16 + matOpCode o.instr * 2 ^ 21 + detail * 2 ^ 28 +
    (match matStream o.instr with | some w => w.toNat | none => 0) * 2 ^ 32 + o.thr * 2 ^ 35)

/-- The matrix engine of a core halts with a fault (07 R182). -/
def State.matFault (s : State) (k cause : Nat) (o : MatOp) (detail : Nat) : State :=
  ((s.modCore k (fun c => { c with mfault := true, mfaultT := s.clock + 1 })).endGroup (o.members k)).report k cause
    (matFaultVal o detail)

/-- The halo rows that a K-group of an MMAW reads, or the rows of A (07 R157, R174). -/
def MatOp.rowsA (o : MatOp) (ga : Nat) : List Nat :=
  match o.instr with
  | .mmaw .. => ((List.range (min o.kg (o.extent - ga * o.kg))).flatMap (fun j =>
      (List.range o.rows).map (fun i => o.rowOf i (ga * o.kg + j)))).eraseDups
  | _ => List.range (tshRows o.tsha)

/-- The group of A that an operation comes to next: an MMAS counts them apart (07 R168). -/
def MatOp.nextGroup (o : MatOp) : Nat := match matStream o.instr with | some _ => o.ga | none => o.groups

/-- The tile rows that the next K-group of an operation reads on a core: of the accumulator, of A and of B, with their scale tiles
(07 R152, R157). -/
def MatOp.groupRows (o : MatOp) (k : Nat) : List (Nat × Nat) :=
  let m := matSpec o.instr
  (List.range o.rows).map (fun r => (m.d, r)) ++
    (withScale m.a o.tsha).flatMap (fun t => (o.rowsA o.nextGroup).map (fun r => (t, r))) ++
    (if o.ownB k then (withScale m.b o.tshb).flatMap (fun t => (List.range (tshRows o.tshb)).map (fun r => (t, r))) else [])

/-- A poisoned row that the next K-group of an operation reads on a core (15 R402). -/
def Core.tilePoison (c : Core) (o : MatOp) (k : Nat) : Option (Nat × Nat) :=
  if c.poison.isEmpty then none else (o.groupRows k).find? (fun x => c.poison.contains (.tileRow x.1 x.2))

/-- The tile rows of the head operation of a core noted for the conflict detector: its inputs read, its accumulator
written (12 R341). -/
def State.noteGroup (s : State) (k : Nat) : State :=
  match (s.core k).headOp? with
  | none => s
  | some o =>
    let who := matrixWho k
    let rows := fun (s : State) kind t => (List.range 32).foldl (fun s r => s.noteTile k o.thr who o.stamp kind t r) s
    rows ((o.reads k).foldl (fun s t => rows s .read t) s) .write (matSpec o.instr).d

/-- One group applied on every member. -/
def State.groupStep (s : State) (core : Nat) (o : MatOp) (ga gb : Nat) : State :=
  let s := if s.detAt core then (o.members core).foldl (fun s m => s.noteGroup m) s else s
  (o.members core).foldl (fun s m =>
    s.modCore m (fun c =>
      match c.headOp? with
      | some x => (applyGroup c (s.core x.leader) x ga gb).modHead (fun x => { x with groups := x.groups + 1 })
      | none => c)) s

/-- Whether record `i` of a stream exists (10 R265). -/
def Stream.hasRecord (w : Stream) (i : Nat) : Bool := bits w.shape 32 32 == 0 || decide (i < bits w.shape 32 32)

/-- A record of a stream that has been asked for. -/
def Stream.record? (w : Stream) (i : Nat) : Option StreamRec := if i < w.first then none else w.recs[i - w.first]?

/-- Records that nothing waits for any more leave a reading stream's buffer. -/
def Stream.tidy (w : Stream) : Stream :=
  let low := (w.pops.map (fun p => p.record)).foldl min w.head
  { w with recs := w.recs.drop (low - w.first), first := max w.first (min low (w.first + w.recs.length)) }

/-- The next skip entry of an MMAS walk taken: entry e of the head record, and the head moves on at the end of a record
(07 R168). -/
def Stream.nextEntry (w : Stream) : Stream :=
  if w.entry + 1 < 64 then { w with entry := w.entry + 1 } else ({ w with entry := 0, head := w.head + 1 }).tidy

/-- A stream of a thread changed. -/
def State.modStream (s : State) (k t : Nat) (n : BitVec 3) (f : Stream → Stream) : State :=
  s.modThread k t (fun th => th.setStream n (f (th.stream n)))

/-- The first member of an operation with a poisoned row in its next K-group: its core, its operation and the row. -/
def State.poisonedMember (s : State) (core : Nat) (o : MatOp) : Option (Nat × MatOp × Nat × Nat) :=
  (o.members core).findSome? (fun m => match (s.core m).headOp? with
    | some x => ((s.core m).tilePoison x m).map (fun r => (m, x, r.1, r.2))
    | none => none)

/-- Group `ga` of A with group `gb` of B applied on every member, or the halt of the member that holds an uncorrectable row of it
(07 R157, R173, R182; 15 R402); `f` moves the head on. A stop that found the group running takes effect after it (07 R184;
20 R456), except that an operation with no group left completes in the same cycle (07 R181). -/
def State.runGroupAt (s : State) (core : Nat) (o : MatOp) (ga gb : Nat) (f : MatOp → MatOp) (last : Bool) : State :=
  match s.poisonedMember core o with
  | some (m, x, t, r) => (s.logRow m t r).matFault m 50 x 0
  | none =>
    let s := (s.groupStep core o ga gb).modCore core (fun c => c.modHead f)
    (if last then s else s.endGroup (o.members core)).postOnce (.matrixGroupComplete core)

/-- One move of an MMAS walk: a dense group of the entry under way applied, or that entry finished; the walk ends between entries
(07 R168). A dense group past the last one of B is not applied: the fault that the entry meets is taken before it (07 R182; log 21). -/
def State.sparseStep (s : State) (core : Nat) (o : MatOp) (n : BitVec 3) : Host.Outcome State Fault Refusal :=
  let w := (s.thread core o.thr).stream n
  let gA := o.groupCount
  let gB := tshElems o.tshb / o.kg
  if o.dense = 0 && decide (gB ≤ o.gb) then
    (if o.ga = gA then happened (s.postOnce (.matrixOpComplete core)) else happened (s.matFault core 20 o 3))
  else if !(w.hasRecord w.head) then happened (s.matFault core 20 o 4)
  else
    match w.record? w.head with
    | none => notYet ((s.endGroup (o.members core)).postOnce (.streamRefill core o.thr n.toNat))
    | some r =>
      if !r.arrived then notYet (s.endGroup (o.members core)) else
      let e := r.data.toNat / 2 ^ (16 * w.entry) % 2 ^ 16
      if e = 0 then happened (s.matFault core 20 o 1)
      else if o.dense < e % 256 then
        (if o.ga = gA then happened (s.matFault core 20 o 3)
         else if gB ≤ o.gb then happened (s.matFault core 20 o (if gA < o.ga + (e % 256 - o.dense) then 3 else 2))
         else happened (s.runGroupAt core o o.ga o.gb (fun o => { o with ga := o.ga + 1, gb := o.gb + 1, dense := o.dense + 1 })
           (o.ga + 1 == gA)))
      else if gB < o.gb + e / 256 then happened (s.matFault core 20 o 2)
      else
        happened ((((s.modStream core o.thr n Stream.nextEntry).modCore core (fun c => c.modHead (fun o =>
          { o with gb := o.gb + e / 256, dense := 0, entry := w.nextEntry.entry }))).postOnce (.streamRefill core o.thr n.toNat)).postOnce
            (.matrixGroupComplete core))

/-- Every group of an operation is applied, and the walk of an MMAS has ended (07 R168, R181). -/
def MatOp.finished (o : MatOp) : Bool :=
  match matStream o.instr with
  | some _ => o.dense == 0 && decide (tshElems o.tshb / o.kg ≤ o.gb) && o.ga == o.groupCount
  | none => decide (o.groupCount ≤ o.groups)

/-- The member of an operation whose engine has failed: the core that the event's operand names, if it is one, else its own. -/
def State.failedMember (s : State) (core : Nat) (o : MatOp) : Nat × MatOp :=
  match (o.members core).find? (fun m => m == s.input.unit), (s.core s.input.unit).headOp? with
  | some m, some x => (m, x)
  | _, _ => (core, o)

/-- MATRIX_GROUP_COMPLETE: one K-group is summed exactly and added, on every member of a gang alike (07 R157, R168, R173). An
uncorrectable row that the group reads halts the member that holds it, and so does a failure of the engine itself, which the event's
operand reports (07 R182; log 20). -/
def execMatrixGroupComplete (core : Nat) (s : State) : Host.Outcome State Fault Refusal :=
  match (s.core core).headOp? with
  | none => happened s
  | some o =>
    if !o.started then happened s else
    if !(s.opReady core o) then notYet s else
    if !s.input.ok then happened (s.matFault (s.failedMember core o).1 52 (s.failedMember core o).2 0) else
    match matStream o.instr with
    | some n => s.sparseStep core o n
    | none =>
      if o.groupCount ≤ o.groups then happened (s.postOnce (.matrixOpComplete core)) else
      happened (s.runGroupAt core o o.groups o.groups (fun o => o) (decide (o.groupCount ≤ o.groups + 1)))

/-- A signal of an engine goes to the semaphore file (02 R45, 11 R318). -/
def State.signal (s : State) (k : Nat) (e : EngCmd) : State :=
  if e.sinc = 0 then s else
  (s.modCore k (fun c => { c with signals := c.signals ++ [(e.ssem.toNat, e.sinc.toNat)] })).postOnce (.semaphoreUpdate k)

/-- MATRIX_OP_COMPLETE: the operation leaves the queue and its marks clear, or with DRAIN its rows are offered (07 R162,
R176, R181). -/
def execMatrixOpComplete (core : Nat) (s : State) : Host.Outcome State Fault Refusal :=
  match (s.core core).headOp? with
  | none => happened s
  | some o =>
    if !o.started || !o.finished then happened s else
    if !(s.opReady core o) then notYet s else
    happened ((o.members core).foldl (fun s m =>
      match (s.core m).headOp? with
      | none => s
      | some x =>
        let s := s.modCore m (fun c => { c with mq := c.mq.tail, runGroup := false })
        let s := if (matSpec x.instr).f.drain then
            (s.modCore m (fun c => { c with missing := false, drains := c.drains ++ [
              { op := x, tile := (matSpec x.instr).d, rows := x.rows, seq := x.seq, offered := 0, waiting := [], out := [], rel := [],
                cmd := matCmd x.instr }] })).postOnce (.drainRowOffer m)
          else match matCmd x.instr with
            | some e => (s.releaseClock m (semObj m e.ssem.toNat) (AMap.set x.stamp.seen (matrixWho m) x.stamp.ivl)).signal m e
            | none => s
        s.postOnce (.matrixOpStart m)) s)

/-- The row a thread holds, with its drained operation (07 R178). -/
def Core.granted? (c : Core) (t : Nat) : Option (DrainRows × Nat) :=
  c.drains.findSome? (fun d => (d.out.find? (fun x => x.2 == t % 8)).map (fun x => (d, x.1)))

/-- A row descriptor (07 R177). -/
def rowDesc (d : DrainRows) (r : Nat) : Word :=
  BitVec.ofNat 64 (d.tile + r * 2 ^ 5 + (if r + 1 = d.rows then 2 ^ 10 else 0) + d.seq.toNat * 2 ^ 16)

/-- A row of a tile is granted to a thread (07 R163). -/
def Core.rowGranted (c : Core) (t tile row : Nat) : Bool :=
  match c.granted? t with
  | some (d, r) => d.tile == tile && r == row
  | none => false

/-- A row granted to a thread parked in DRNWAIT (07 R176, R178). -/
def State.grantRow (s : State) (core t : Nat) (d : DrainRows) : State :=
  (s.modCore core (fun c => { c with
    drnList := c.drnList.filter (fun x => !(x == t)), missing := false,
    drains := c.drains.map (fun x => if x = d then { x with offered := x.offered + 1, out := x.out ++ [(x.offered, t)] } else x) })).grantTo
      core t [rowDesc d d.offered]

/-- The oldest drained operation of a core with rows left to offer. The spec orders the rows of one operation only; among several
operations the model takes the oldest (DESIGN CHOICE, log 25). -/
def Core.nextDrain (c : Core) : Option DrainRows := c.drains.find? (fun d => decide (d.offered < d.rows))

/-- DRAIN_ROW_OFFER: the next row of the oldest drained operation with rows left goes to the thread parked longest. With no
thread that could handle it, DRAIN_HANDLER_MISSING goes to the core supervisor, once for each operation offered and each time the
last such thread has retired (07 R176, R180). In deterministic mode the end of the quantum grants the rows (12 R336). -/
def execDrainRowOffer (core : Nat) (s : State) : Host.Outcome State Fault Refusal :=
  let c := s.core core
  match c.nextDrain with
  | none => happened s
  | some d =>
    match c.drnList.find? (fun t => !(s.isBlocked core t)) with
    | some t =>
      if s.detAt core then notYet s else happened ((s.grantRow core t d).post (.drainRowOffer core))
    | none =>
      if !c.drnList.isEmpty then notYet s else
      let none := !(c.threads.toList.any (fun th => !th.isSup && (match th.st with | .free | .retired => false | _ => true)))
      let t := s.modCore core (fun c => { c with missing := none })
      if none && !c.missing then notYet (t.report core 56 (rowDesc d d.offered)) else notYet t

/-- DRNWAIT (07 R178). -/
def execDrnwait (d : BitVec 6) (s : State) : Host.Outcome State Fault Refusal :=
  runSlot 0 [] [rn d] (fun s =>
    match s.src.grant with
    | some l => .go (fun t => t.ws d (l.headD 0))
    | none =>
      match s.own.granted? s.cur.thr with
      | some (x, r) => .trap 3 (rowDesc x r)
      | none => .join .drain (fun t =>
          (t.modOwn (fun c => { c with drnList := c.drnList ++ [s.cur.thr % 8] })).postOnce (.drainRowOffer s.cur.core))) s

/-- A row of a drained operation released; after its last row the tile's W clears and an MMAL's signal is added (07 R166,
R179). -/
def State.releaseRow (s : State) (k t : Nat) : State :=
  match (s.core k).granted? t with
  | none => s
  | some (d, r) =>
    let d' := { d with out := d.out.filter (fun x => !(x.2 == t % 8)), rel := d.rel ++ [r] }
    if d'.rel.length < d.rows then s.modCore k (fun c => { c with drains := c.drains.map (fun x => if x = d then d' else x) })
    else
      let s := (s.modCore k (fun c => { c with drains := c.drains.filter (fun x => !(decide (x = d))) })).postOnce (.matrixOpStart k)
      match d.cmd with
      | some e => (s.releaseClock k (semObj k e.ssem.toNat) (AMap.set d.op.stamp.seen (matrixWho k) d.op.stamp.ivl)).signal k e
      | none => s

/-- A record appended to the write buffer of a stream (06 R143). -/
def Stream.append (w : Stream) (v : Vec) (m : Mask) (epoch : Nat) : Stream :=
  { w with head := w.head + 1, recs := w.recs ++ [{ data := v, mask := m, arrived := true, again := false, epoch := epoch }] }

/-- DRNPUT (07 R179): a row that it pushes is read, so that a poisoned one traps (15 R402). Beside a VPUSH to the same stream, which
the spec neither forbids nor orders, slot B's record stands first, and the buffer as it stood before the bundle has room for both
(DESIGN CHOICE, log 25). -/
def execDrnput (a : BitVec 6) (s : State) : Host.Outcome State Fault Refusal :=
  runSlot 0 [rn a] [] (fun s =>
    let x := s.rs a
    let n : BitVec 3 := x.extractLsb' 32 3
    let w := s.src.stream n
    match s.was.granted? s.cur.thr with
    | none => .trap 3 s.cur.bundle
    | some (d, r) =>
      if bits x 0 32 != (rowDesc d r).toNat then .trap 3 s.cur.bundle else
      if !(bits x 36 28 == 0) then .trap 3 s.cur.bundle else
      if bit x 35 then
        (if !w.bound || !w.writing then .trap 21 (BitVec.ofNat 64 (n.toNat + if w.bound then 8 else 0))
         else if !(w.hasRecord w.head) then .trap 22 (BitVec.ofNat 64 (n.toNat + 2 ^ 8))
         else if s.own.poison.contains (.tileRow d.tile r) then .trap 50 (BitVec.ofNat 64 (d.tile + r * 2 ^ 5))
         else if 4 ≤ w.recs.length then .park .streamFull
         else .go (fun t =>
           ((t.modTh (fun th => th.setStream n ((th.stream n).append (BitVec.ofNat 1024 (s.was.tileRow d.tile r)) (BitVec.allOnes 128) th.epoch))).post
             (.streamDrain s.cur.core (s.cur.thr % 8) n.toNat)).releaseRow s.cur.core s.cur.thr))
      else .go (fun t => t.releaseRow s.cur.core s.cur.thr)) s

/-- TZERO (07 R175). -/
def execTzero (d : BitVec 5) (s : State) : Host.Outcome State Fault Refusal :=
  runSlot 1 [] [] (fun s =>
    if s.own.isW d.toNat || s.own.isBusy s.cur.core d.toNat then .park .tileMark
    else .go (fun t =>
      let t := if t.detAt t.cur.core then (List.range 32).foldl (fun t r =>
        t.noteTile t.cur.core t.cur.thr (tid t.cur.core t.cur.thr) s.stampNow .write d.toNat r) t else t
      t.modOwn (fun c => (List.range 32).foldl (fun c r => (c.setTileRow d.toNat r 0).cleanRow d.toNat r) c))) s

/-- The bytes of `x` where the mask has a bit, else those of `old` (07 R175). -/
def blendBytes (m : Mask) (x old : Vec) : Vec :=
  BitVec.ofNat 1024 (packElems 8 ((List.range 128).map (fun j => if m.getLsbD j then elemAt 8 x j else elemAt 8 old j)))

/-- The low five bits of a row register s0 to s31 (07 R175). -/
def rowReg (n : BitVec 5) : BitVec 6 := n.setWidth 6

/-- TROWV (07 R175): a row granted to the issuing thread does not wait. -/
def execTrowv (d va sb : BitVec 5) (q : BitVec 3) (s : State) : Host.Outcome State Fault Refusal :=
  runSlot 1 [rnv va, rn (rowReg sb), rnq q] [] (fun s =>
    let r := bits (s.rs (rowReg sb)) 0 5
    if (s.own.isW d.toNat || s.own.isBusy s.cur.core d.toNat) && !(s.own.rowGranted s.cur.thr d.toNat r) then .park .tileMark
    else .go (fun t => (t.noteTile t.cur.core t.cur.thr (tid t.cur.core t.cur.thr) s.stampNow .write d.toNat r).modOwn (fun c =>
      let c := if s.rq q = BitVec.allOnes 128 then c.cleanRow d.toNat r else c
      c.setTileRow d.toNat r (blendBytes (s.rq q) (s.rv va) (BitVec.ofNat 1024 (c.tileRow d.toNat r))).toNat))) s

/-- TVROW (07 R175). -/
def execTvrow (vd a sb : BitVec 5) (q : BitVec 3) (s : State) : Host.Outcome State Fault Refusal :=
  runSlot 1 [rn (rowReg sb), rnq q] [rnv vd] (fun s =>
    let r := bits (s.rs (rowReg sb)) 0 5
    if s.own.isW a.toNat && !(s.own.rowGranted s.cur.thr a.toNat r) then .park .tileMark else
    if s.own.poison.contains (.tileRow a.toNat r) then .trap 50 (BitVec.ofNat 64 (a.toNat + r * 2 ^ 5)) else
    .go (fun t => (t.noteTile t.cur.core t.cur.thr (tid t.cur.core t.cur.thr) s.stampNow .read a.toNat r).wv vd
      (blendBytes (s.rq q) (BitVec.ofNat 1024 (s.own.tileRow a.toNat r)) (s.rv vd)))) s

end Sys2Proof.Machine
end

