-- ==== Sys2Proof/Machine/Engine.lean ====
section
/-! DEFINITION. Tensor descriptors and the accesses of the copy engine (10 R252 to R258, R271). -/

namespace Sys2Proof.Machine

/-- A tensor descriptor read from memory (10 R256). -/
structure Desc where
  base  : Word
  sbase : Word
  fmt   : Nat
  rank  : Nat
  d0    : Nat
  d1    : Nat
  d2    : Nat
  d3    : Nat
  st1   : Int
  st2   : Int
  st3   : Int
  deriving DecidableEq, Repr

/-- A 48-bit signed stride (10 R256). -/
def strideOf (x : Word) : Int := intOf 48 true (bits x 0 48)

/-- The fields of eight descriptor words. -/
def Desc.ofWords (l : List Word) : Desc :=
  let w := fun i => l.getD i 0
  { base := w 0, sbase := w 1, fmt := bits (w 2) 0 5, rank := bits (w 2) 5 2 + 1, d0 := bits (w 2) 8 24, d1 := bits (w 2) 32 24,
    d2 := bits (w 3) 0 24, d3 := bits (w 3) 24 24, st1 := strideOf (w 4), st2 := strideOf (w 5), st3 := strideOf (w 6) }

/-- A descriptor at an address is valid (10 R257). -/
def descValid (a : Word) (l : List Word) : Bool :=
  let w := fun i => l.getD i 0
  let d := Desc.ofWords l
  bits a 0 6 == 0 && w 7 == 1 && bits (w 2) 7 1 == 0 && bits (w 2) 56 8 == 0 && bits (w 3) 48 16 == 0 && bits (w 4) 48 16 == 0 &&
    bits (w 5) 48 16 == 0 && bits (w 6) 48 16 == 0 && decide (d.fmt ≤ 23) && d.d0 != 0 && d.d1 != 0 && d.d2 != 0 && d.d3 != 0 &&
    (decide (1 < d.rank) || (d.d1 == 1 && d.st1 == 0)) && (decide (2 < d.rank) || (d.d2 == 1 && d.st2 == 0)) &&
    (decide (3 < d.rank) || (d.d3 == 1 && d.st3 == 0)) && (decide (d.sbase ≠ 0) == isBlockCode d.fmt)

/-- Element width of a descriptor in bits (10 R258). -/
def Desc.width (d : Desc) : Nat := codeWidth d.fmt

/-- Bytes of a row (10 R258, 05 R115). -/
def Desc.rowBytes (d : Desc) : Nat := (d.width * d.d0 + 7) / 8

/-- Scale bytes in all (10 R258). -/
def Desc.scaleBytes (d : Desc) : Nat :=
  if isBlockCode d.fmt then (d.d0 + blockSize d.fmt - 1) / blockSize d.fmt * d.d1 * d.d2 * d.d3 else 0

/-- Elements in all. -/
def Desc.count (d : Desc) : Nat := d.d0 * d.d1 * d.d2 * d.d3

/-- An index into a tensor. -/
structure Idx where
  i0 : Int
  i1 : Int
  i2 : Int
  i3 : Int
  deriving DecidableEq, Repr

/-- The index of a linear position in increasing L0 (10 R260). -/
def Desc.unlinear (d : Desc) (n : Nat) : Idx :=
  ⟨(n % d.d0 : Nat), (n / d.d0 % d.d1 : Nat), (n / d.d0 / d.d1 % d.d2 : Nat), (n / d.d0 / d.d1 / d.d2 : Nat)⟩

/-- An index lies inside a tensor. -/
def Desc.inside (d : Desc) (i : Idx) : Bool :=
  decide (0 ≤ i.i0) && decide (i.i0 < d.d0) && decide (0 ≤ i.i1) && decide (i.i1 < d.d1) && decide (0 ≤ i.i2) &&
    decide (i.i2 < d.d2) && decide (0 ≤ i.i3) && decide (i.i3 < d.d3)

/-- The first byte of the row of an index (10 R258). -/
def Desc.rowAddr (d : Desc) (i : Idx) : Word := d.base + BitVec.ofInt 64 (i.i1 * d.st1 + i.i2 * d.st2 + i.i3 * d.st3)

/-- The scale byte of an index (10 R258). -/
def Desc.scaleAddr (d : Desc) (i : Idx) : Word :=
  let b := blockSize d.fmt
  let l := i.i1.toNat + d.d1 * (i.i2.toNat + d.d2 * i.i3.toNat)
  d.sbase + BitVec.ofNat 64 (l * ((d.d0 + b - 1) / b) + i.i0.toNat / b)

/-- Segments of a footprint repeated along a dimension; a dimension whose rows follow one another makes one segment. -/
def repeatDim (l : List (Word × Nat)) (st : Int) (n : Nat) : List (Word × Nat) :=
  match l with
  | [(a, len)] =>
    if st = len then [(a, len * n)] else (List.range n).map (fun (i : Nat) => (a + BitVec.ofInt 64 ((i : Int) * st), len))
  | l => (List.range n).flatMap (fun (i : Nat) => l.map (fun x => (x.1 + BitVec.ofInt 64 ((i : Int) * st), x.2)))

/-- The footprint of a descriptor (10 R258). -/
def Desc.footprint (d : Desc) : List (Word × Nat) :=
  repeatDim (repeatDim (repeatDim [(d.base, d.rowBytes)] d.st1 d.d1) d.st2 d.d2) d.st3 d.d3 ++
    (if d.scaleBytes = 0 then [] else [(d.sbase, d.scaleBytes)])

/-- The bounding interval of a footprint, from its lowest to its highest byte (10 R251). -/
def Desc.bounds (d : Desc) : Int × Int :=
  let ext := fun (st : Int) (n : Nat) => st * ((n : Int) - 1)
  let lo : Int := d.base.toNat + min 0 (ext d.st1 d.d1) + min 0 (ext d.st2 d.d2) + min 0 (ext d.st3 d.d3)
  let hi : Int := d.base.toNat + max 0 (ext d.st1 d.d1) + max 0 (ext d.st2 d.d2) + max 0 (ext d.st3 d.d3) + d.rowBytes - 1
  if d.scaleBytes = 0 then (lo, hi) else (min lo d.sbase.toNat, max hi (d.sbase.toNat + d.scaleBytes - 1))

/-- Why an engine's access does not take place: it waits, a write or not, or it faults with a cause and KVAL (10 R271). -/
inductive EngStop where
  | wait (va : Word) (wr : Bool)
  | fault (cause : Nat) (kval : Word)
  deriving DecidableEq, Repr

/-- KVAL of COPY_FAULT and its kind (10 R271). -/
def engVal (code thr : Nat) (wr : Bool) (a : Word) : Word :=
  BitVec.ofNat 64 (bits a 0 56 + code * 2 ^ 56 + thr % 8 * 2 ^ 60 + if wr then 2 ^ 63 else 0)

/-- The code of COPY_FAULT for a cause of an access (10 R271). -/
def engCode (cause : Nat) : Nat :=
  match cause with
  | 9 | 10 => 4
  | 15 => 6
  | 51 => 8
  | _ => 5

/-- A byte beyond the end of a scratchpad, of a row of bytes that begins inside it: scratchpad bounds, not the address format
(10 R271; DEDUCED, log 27). -/
def pastScratch (base a : Word) : Bool :=
  formatBad a && !(formatBad base) && (vaRegion a == 0x8 || vaRegion a == 0x9 || vaRegion a == 0xB) &&
    decide (base.toNat < a.toNat) && a.toNat / 2 ^ 20 == base.toNat / 2 ^ 20

/-- An access of the copy engine waits: as any access of its core does, and a weight-store read while a refresh window is open,
whatever the L1 holds (08 R200). -/
def State.engWaits (s : State) (k : Nat) (a : Word) : Bool := (vaRegion a == 0xA && s.refreshOpen) || s.waitsOutside k a

/-- The physical place of a copy-engine access of core `k` for thread `thr`, with its checks (10 R271), in a row of bytes that
begins at `base`. The access has the rights of the mode that issued its command (log 4). -/
def State.engPlace (s : State) (k thr : Nat) (m : Mode) (kind : AccKind) (base a : Word) (n : Nat) : Except EngStop Nat :=
  let wr := accWrites kind
  let bad := fun code => EngStop.fault 23 (engVal code thr wr a)
  if pastScratch base a then .error (bad 2) else
  if formatBad a then .error (bad 1) else
  if wr && vaRegion a == 0xA then .error (.fault 53 (engVal 0 thr true a)) else
  if (match s.scratchOf k a with | some (_, _, off) => decide (2 ^ 18 < off + n) | none => false) then .error (bad 2) else
  if (s.windowCause k m kind a).isSome || (s.extentCause k m kind a n).isSome then .error (bad 3) else
  if s.engWaits k a then .error (.wait a wr) else
  match s.placeN k m kind a n with
  | .ok p => .ok p
  | .error c => .error (bad (engCode c))

/-- When an access of the copy engine that waits now was sent: its time-out runs from then, but not while it is held at its
requester or the die has lost time sync, nor within the core (14 R398, 15 R408). -/
def State.engSince (s : State) (k : Nat) (a : Word) (since : Option Nat) : Option Nat :=
  if !(isRemote a) || s.savedTarget k a || !(s.cdie (dieOfCore k)).sync then none else some (since.getD s.clock)

/-- RTO has passed since then (15 R408). -/
def State.engDue (s : State) (since : Option Nat) : Bool :=
  match since with
  | some c => decide (s.rto.toNat ≤ 2 * (s.clock - c))
  | none => false

/-- The line of an engine's access passes through the home; engines never take E of host-backed lines (08 R203). -/
def State.engTouch (s : State) (k : Nat) (kind : AccKind) (a : Word) (p : Nat) : State :=
  (s.cacheFor k a).viaL1 k (match kind with | .load => .fetch | x => x) a p

/-- The command of a copy-engine access and its place in the detector's order: `w` holds the issuing thread and, above it,
the command's id + 1, or 0 for a stream (12 R341). -/
def State.engStamp (s : State) (k w : Nat) : Nat × Stamp :=
  match (s.core k).copies.find? (fun c => c.id + 1 == w / 8) with
  | some c => (copyWho k w c.id, c.stamp)
  | none => (tid k w, { ivl := (s.thread k w).ivl, q := s.quantumAt k, bno := (s.thread k w).retired, seen := (s.thread k w).vc })

/-- A copy-engine access noted for the conflict detector. -/
def State.engNote (s : State) (k w : Nat) (kind : SigKind) (va : Word) (p n : Nat) : State :=
  if s.detAt k then s.noteMem k w (s.engStamp k w).1 (s.engStamp k w).2 kind va p n else s

/-- A tile row of a copy command noted for the conflict detector. -/
def State.engTile (s : State) (k w : Nat) (kind : SigKind) (tile row : Nat) : State :=
  if s.detAt k then s.noteTile k w (s.engStamp k w).1 (s.engStamp k w).2 kind tile row else s

/-- Bytes read by the copy engine, piece by piece (10 R252). -/
def engRead (k thr : Nat) (m : Mode) (base : Word) : List Piece → State → Nat → Except EngStop (State × Nat)
  | [], s, x => .ok (s, x)
  | p :: r, s, x =>
    match s.engPlace k thr m .load base p.addr p.size with
    | .error e => .error e
    | .ok a => engRead k thr m base r ((s.engTouch k .load p.addr a).engNote k thr .read p.addr a p.size) (x + s.rd a p.size * 2 ^ (8 * p.off))

/-- `n` bytes from `a` on read by the copy engine, in a row that begins at `base`. -/
def State.engBytes (s : State) (k thr : Nat) (m : Mode) (base a : Word) (n : Nat) : Except EngStop (State × Nat) :=
  engRead k thr m base (piecesFrom (n / 16 + 2) a n 0) s 0

/-- The bits of `mask` replaced. -/
def maskMerge (n old x mask : Nat) : Nat := Nat.lor (Nat.land old (Nat.xor (2 ^ (8 * n) - 1) mask)) (Nat.land x mask)

/-- Scratchpad words of a core set full by an engine's write, where the mask touches them (08 R190, 10 R253). -/
def State.setFullFrom (s : State) (tc off n mask : Nat) : State :=
  (List.range ((off % 8 + n + 7) / 8)).foldl (fun s j =>
    let w := off / 8 + j
    -- the mask bits of word w
    let m := (mask * 2 ^ (8 * (off % 8))) / 2 ^ (64 * j) % 2 ^ 64
    if m = 0 || (s.core tc).isFull w then s else (s.modCore tc (fun c => c.setFull w true)).post (.feWaitTry tc w)) s

/-- A piece written by the copy engine at a physical place: the bits of the mask, full bits and host reach included. -/
def State.engPut (s : State) (k : Nat) (a : Word) (p n x mask : Nat) : State :=
  let s := (((s.wr p n (maskMerge n (s.rd p n) x mask)).engTouch k .store a p)).wakeWatchers p
  match s.scratchOf k a with
  | some (q, t, off) => s.setFullFrom (s.targetCore q t) off n mask
  | none => s

/-- Bits written by the copy engine, piece by piece, with the host lines whose answer is awaited (10 R252). -/
def engWrite (k thr : Nat) (m : Mode) (base : Word) (x mask : Nat) : List Piece → State → List Nat → Except EngStop (State × List Nat)
  | [], s, l => .ok (s, l)
  | p :: r, s, l =>
    let pm := mask / 2 ^ (8 * p.off) % 2 ^ (8 * p.size)
    if pm = 0 then engWrite k thr m base x mask r s l else
    match s.engPlace k thr m .store base p.addr p.size with
    | .error e => .error e
    | .ok a =>
      let s := ((s.engPut k p.addr a p.size (x / 2 ^ (8 * p.off) % 2 ^ (8 * p.size)) pm).cleanPiece a p.size p.off pm
        (mask / 2 ^ (8 * (p.off - 16)) % 2 ^ 128 == 2 ^ 128 - 1)).engNote k thr .write p.addr a p.size
      engWrite k thr m base x mask r s (if s.hostOutstanding a then l ++ [a / 128] else l)

/-- `n` bytes from `a` on written under a bit mask, in a row that begins at `base`. -/
def State.engStore (s : State) (k thr : Nat) (m : Mode) (base a : Word) (n x mask : Nat) : Except EngStop (State × List Nat) :=
  engWrite k thr m base x mask (piecesFrom (n / 16 + 2) a n 0) s []

/-- The bytes of element i0 of a row: first byte, count, and bit within (10 R258). -/
def elemSpan (w i0 : Nat) : Nat × Nat × Nat := (w * i0 / 8, (w * i0 % 8 + w + 7) / 8, w * i0 % 8)

/-- An element of a tensor read (10 R258). -/
def State.readElem (s : State) (k thr : Nat) (m : Mode) (d : Desc) (i : Idx) : Except EngStop (State × Nat) :=
  let (b, n, sh) := elemSpan d.width i.i0.toNat
  match s.engBytes k thr m (d.rowAddr i) (d.rowAddr i + BitVec.ofNat 64 b) n with
  | .error e => .error e
  | .ok (t, x) => .ok (t, x / 2 ^ sh % 2 ^ d.width)

/-- The bits that a write of an element changes, in the bytes of its span: to the end of the row's last byte for its last element
(10 R258, R260). -/
def Desc.elemMask (d : Desc) (i : Idx) : Nat :=
  let (_, n, sh) := elemSpan d.width i.i0.toNat
  if i.i0.toNat + 1 = d.d0 then 2 ^ (8 * n) - 2 ^ sh else (2 ^ d.width - 1) * 2 ^ sh

/-- An element of a tensor written; the bits of a row's last byte beyond its last element are written 0 (10 R260, R258). -/
def State.writeElem (s : State) (k thr : Nat) (m : Mode) (d : Desc) (i : Idx) (x : Nat) : Except EngStop (State × List Nat) :=
  let (b, n, sh) := elemSpan d.width i.i0.toNat
  s.engStore k thr m (d.rowAddr i) (d.rowAddr i + BitVec.ofNat 64 b) n (x * 2 ^ sh) (d.elemMask i)

/-- A scale byte of a tensor written. -/
def State.writeScale (s : State) (k thr : Nat) (m : Mode) (d : Desc) (i : Idx) (x : Nat) : Except EngStop (State × List Nat) :=
  s.engStore k thr m d.sbase (d.scaleAddr i) 1 x 255

/-- A scale byte of a tensor read. -/
def State.readScale (s : State) (k thr : Nat) (m : Mode) (d : Desc) (i : Idx) : Except EngStop (State × Nat) :=
  s.engBytes k thr m d.sbase (d.scaleAddr i) 1

/-- The scale of a block wholly outside its source (10 R260). -/
def defaultScale (code : Nat) : Nat := if code = 16 then 0x38 else 0x7F

end Sys2Proof.Machine
end

