-- ==== Sys2Proof/Machine/Copy.lean ====
section
/-! DEFINITION. The copy engine (10 R250 to R273, R462): its queue, CPY, CPYR, the tile loads and stores, batches, faults;
and the range slot of a descriptor (09 R228). -/

namespace Sys2Proof.Machine

/-- The wait and signal of an engine command (02 R45). -/
def engCmd (i : Instr) : EngCmd :=
  match i with
  | .cpy e _ _ _ _ _ | .cpyr e _ _ _ _ _ _ _ | .cbatch e | .cwait e _ | .sbind e _ _ _ _ | .sunbind e _ | .tld e _ _ _ _ _
  | .tst e _ _ _ _ | .tldw e _ _ _ _ => e
  | _ => { wsem := 0, wthr := 0, ssem := 0, sinc := 0 }

/-- A command accepted by the copy engine with its captured values (10 R250, R254). -/
def State.acceptCopy (s : State) (i : Instr) (va vb vc tsh : Word) : State :=
  let k := s.cur.core
  let ordered := match i with | .cpyr _ _ _ _ _ _ o _ => o || s.detAt k | _ => false
  let c := s.core k
  let cmd : CopyCmd :=
    { id := c.copyId, instr := i, va := va, vb := vb, vc := vc, tsh := tsh, thr := s.cur.thr % 8, next := 0, state := 0,
      batch := c.cnext.toNat, closed := false, fault := 0, epoch := s.th.epoch, spawn := s.th.spawns, mode := s.src.mode, dst := [],
      src := [], slots := List.range 16, mseq := c.mseq.toNat, key := none, ord := s.th.acount, lines := [], req := s.reqNo,
      asOrd := ordered, redo := [], rows := [], since := none,
      stamp := { s.stampNow with ivl := 1, seen := s.th.clock k s.cur.thr } }
  let s := s.modOwn (fun c => { c with copies := c.copies ++ [cmd], copyId := c.copyId + 1 })
  let s := if ordered then s.modTh (fun th => { th with acount := th.acount + 1, qseq := th.qseq + 1 }) else s
  s.postOnce (.copyCommandStart k)

/-- The issuing thread of a command with its id, for the detector. -/
def CopyCmd.who (c : CopyCmd) : Nat := c.thr + 8 * (c.id + 1)

/-- A command of the copy engine's queue: the form's checks, the wait for a place among 16, its acceptance (10 R250). -/
def runCopy (i : Instr) (a b c : BitVec 6) (reads : List RegName) (tile : Option (State → Nat × Option (Nat × Word))) (s : State) :
    Host.Outcome State Fault Refusal :=
  runSlot 2 reads [] (fun s =>
    match tile.bind (fun f => (f s).2) with
    | some (x, v) => .trap x v
    | none =>
      if 16 ≤ s.own.copies.length then .park .queueFull
      else .go (fun t => t.acceptCopy i (s.rs a) (s.rs b) (s.rs c)
        (match tile with | some f => s.own.shape (f s).1 | none => 0))) s

/-- CPY (10 R260). -/
def execCpy (e : EngCmd) (a b c : BitVec 6) (tr pad : Bool) (s : State) : Host.Outcome State Fault Refusal :=
  runCopy (.cpy e a b c tr pad) a b c [rn a, rn b, rn c] none s

/-- The tile of a tile source: S[b][4:0] (10 R261). -/
def tileOf (x : Word) : Nat := bits x 0 5

/-- CPYR: with TSRC the shape of the source tile is checked at issue (10 R261). -/
def execCpyr (e : EngCmd) (a b c : BitVec 6) (op : RedOp) (tsrc ord int : Bool) (s : State) : Host.Outcome State Fault Refusal :=
  runCopy (.cpyr e a b c op tsrc ord int) a b c [rn a, rn b, rn c]
    (if tsrc then some (fun s => (tileOf (s.rs b), shapeTrap false (tileOf (s.rs b)) (s.own.shape (tileOf (s.rs b))))) else none) s

/-- The tile checks of TLD, TST and TLDW: reasons 1, 2, 3 and 7 (10 R269). -/
def tileCheck (t : BitVec 5) (s : State) : Nat × Option (Nat × Word) :=
  (t.toNat, firstFail [shapeTrap false t.toNat (s.own.shape t.toNat), oddBlock t.toNat (s.own.shape t.toNat)])

/-- TLD (10 R269). -/
def execTld (e : EngCmd) (a b : BitVec 6) (t : BitVec 5) (tr pad : Bool) (s : State) : Host.Outcome State Fault Refusal :=
  runCopy (.tld e a b t tr pad) a b 0 [rn a, rn b] (some (tileCheck t)) s

/-- TST. -/
def execTst (e : EngCmd) (a b : BitVec 6) (t : BitVec 5) (tr : Bool) (s : State) : Host.Outcome State Fault Refusal :=
  runCopy (.tst e a b t tr) a b 0 [rn a, rn b] (some (tileCheck t)) s

/-- TLDW (10 R270). -/
def execTldw (e : EngCmd) (a b c : BitVec 6) (t : BitVec 5) (s : State) : Host.Outcome State Fault Refusal :=
  runCopy (.tldw e a b c t) a b c [rn a, rn b, rn c] (some (tileCheck t)) s

/-- An index of an origin register (10 R255). -/
def origin (x : Word) (n : Nat) : Int := (bits x (16 * n) 16 : Nat)

/-- The tile of a command, with whether it writes it (07 R163; 10 R269). -/
def CopyCmd.tile (c : CopyCmd) : Option (Nat × Bool) :=
  match c.instr with
  | .tld _ _ _ t _ _ | .tldw _ _ _ _ t => some (t.toNat, true)
  | .tst _ _ _ t _ => some (t.toNat, false)
  | .cpyr _ _ _ _ _ true _ _ => some (tileOf c.vb, false)
  | _ => none

/-- The tiles of a command, its scale tile included. -/
def CopyCmd.tiles (c : CopyCmd) : List Nat := match c.tile with | some (t, _) => withScale t c.tsh | none => []

/-- A command writes its tile. -/
def CopyCmd.writesTile (c : CopyCmd) : Bool := match c.tile with | some (_, w) => w | none => false

/-- The destination and the source descriptor of a started command. -/
def CopyCmd.dstDesc (c : CopyCmd) : Option Desc := if c.dst.isEmpty then none else some (Desc.ofWords c.dst)

/-- The source descriptor of a started command. -/
def CopyCmd.srcDesc (c : CopyCmd) : Option Desc := if c.src.isEmpty then none else some (Desc.ofWords c.src)

/-- Two intervals meet. -/
def intervalsMeet (x y : Int × Int) : Bool := decide (x.1 ≤ y.2) && decide (y.1 ≤ x.2)

/-- The bounding intervals of a command: written, and all. -/
def CopyCmd.intervals (c : CopyCmd) : List (Int × Int) × List (Int × Int) :=
  let d := match c.dstDesc with | some d => [d.bounds] | none => []
  let r := match c.srcDesc with | some d => [d.bounds] | none => []
  (d, d ++ r)

/-- A command's footprint meets another's with one of the two writing it (10 R251). -/
def CopyCmd.clashes (x y : CopyCmd) : Bool :=
  let m := fun (l r : List (Int × Int)) => l.any (fun u => r.any (intervalsMeet u))
  m x.intervals.1 y.intervals.2 || m x.intervals.2 y.intervals.1 ||
    ((x.writesTile || y.writesTile) && x.tiles.any (fun t => y.tiles.contains t))

/-- KVAL of COPY_DESC (10 R271, R462). -/
def descVal (a : Word) (reason thr : Nat) (dst : Bool) : Word :=
  BitVec.ofNat 64 (bits a 0 56 + reason * 2 ^ 56 + thr % 8 * 2 ^ 60 + if dst then 2 ^ 63 else 0)

/-- A descriptor read by the copy engine and checked: its words, or why not (10 R252, R257). -/
def State.readDesc (s : State) (k : Nat) (c : CopyCmd) (a : Word) (dst : Bool) : Except EngStop (State × List Word) :=
  if !(bits a 0 6 == 0) then .error (.fault 24 (descVal a 1 c.thr dst)) else
  match s.engBytes k c.who c.mode a a 64 with
  | .error e => .error e
  | .ok (t, x) =>
    let l := (List.range 8).map (fun i => BitVec.ofNat 64 (x / 2 ^ (64 * i)))
    if descValid a l then .ok (t, l) else .error (.fault 24 (descVal a 1 c.thr dst))

/-- The source index of a destination index of CPY (10 R260). -/
def cpyIndex (tr : Bool) (o : Word) (i : Idx) : Idx :=
  let j0 := if tr then i.i1 else i.i0
  let j1 := if tr then i.i0 else i.i1
  ⟨origin o 0 + j0, origin o 1 + j1, origin o 2 + i.i2, origin o 3 + i.i3⟩

/-- The largest index of a tensor. -/
def Desc.last (d : Desc) : Idx := ⟨(d.d0 : Int) - 1, (d.d1 : Int) - 1, (d.d2 : Int) - 1, (d.d3 : Int) - 1⟩

/-- TR is not available for these descriptors (10 R260). -/
def trBad (d e : Desc) : Bool :=
  decide (d.rank < 2) || decide (e.rank < 2) || isBlockCode d.fmt || !([4, 8, 16, 32].contains d.width)

/-- The start checks of CPY (10 R260, R462): reason and whether it names the destination side. -/
def cpyReason (tr pad : Bool) (o : Word) (d e : Desc) : Option Nat :=
  if d.fmt != e.fmt then some 2 else
  if tr && trBad d e then some 4 else
  if !pad && !(e.inside (cpyIndex tr o d.last)) then some 3 else
  if isBlockCode d.fmt && decide (origin o 0 % (blockSize d.fmt : Int) ≠ 0) then some 5 else none

/-- A format that CPYR may combine (10 R261). -/
def cpyrFormat (int : Bool) (fmt : Nat) : Bool := if int then fmt == 1 else fmt == 0 || fmt == 1 || fmt == 3 || fmt == 4

/-- The index of a tile element in its descriptor (10 R269, R270). -/
def tileIndex (i : Instr) (o lead : Word) (c r : Nat) : Idx :=
  match i with
  | .tldw .. => ⟨origin o 0 + c, origin o 1 - (bits lead 0 5 : Nat) + r, origin o 2, origin o 3⟩
  | .tld _ _ _ _ true _ | .tst _ _ _ _ true => ⟨origin o 0 + r, origin o 1 + c, origin o 2, origin o 3⟩
  | _ => ⟨origin o 0 + c, origin o 1 + r, origin o 2, origin o 3⟩

/-- The start checks of the tile forms (10 R269). R269 lists its reasons without an order: they are tested as R260 orders them for CPY,
4 before 3 (DEDUCED, log 25). -/
def tileReason (i : Instr) (sh o lead : Word) (d : Desc) : Option Nat :=
  let tr := match i with | .tld _ _ _ _ x _ => x | .tst _ _ _ _ x => x | _ => false
  let pad := match i with | .tld _ _ _ _ _ x => x | .tldw .. => true | _ => false
  if d.fmt != tshFmt sh then some 2 else
  if tr && trBad d d then some 4 else
  if !pad && !(d.inside (tileIndex i o lead (tshElems sh - 1) (tshRows sh - 1))) then some 3 else
  if isBlockCode d.fmt && decide (origin o 0 % (blockSize d.fmt : Int) ≠ 0) then some 5 else none

/-- The last index that a source of CPYR reaches in its destination (10 R261). -/
def cpyrLast (c : CopyCmd) (src : Option Desc) : Idx :=
  match src with
  | some e => ⟨origin c.vc 0 + e.d0 - 1, origin c.vc 1 + e.d1 - 1, origin c.vc 2 + e.d2 - 1, origin c.vc 3 + e.d3 - 1⟩
  | none => ⟨origin c.vc 0 + tshElems c.tsh - 1, origin c.vc 1 + tshRows c.tsh - 1, origin c.vc 2, origin c.vc 3⟩

/-- A started CPYR whose destination lies in the weight store: WEIGHT_STORE_WRITE when it starts (10 R261). R271 calls KVAL [55:0]
the address and does not say which: it is the destination's BASE (DESIGN CHOICE, log 25). -/
def CopyCmd.weightBad (c : CopyCmd) : Option Word :=
  match c.instr, c.dstDesc with
  | .cpyr .., some d => if vaRegion d.base == 0xA && !(formatBad d.base) then some (engVal 0 c.thr true d.base) else none
  | _, _ => none

/-- A command with its descriptors read and every start check passed, or why it does not start (10 R252, R260 to R269). -/
def State.openCopy (s : State) (k : Nat) (c : CopyCmd) : Except EngStop (State × CopyCmd) :=
  let fault := fun (a : Word) (r : Nat) (dst : Bool) => EngStop.fault 24 (descVal a r c.thr dst)
  match c.instr with
  | .cpy _ _ _ _ tr pad =>
    match s.readDesc k c c.va true with
    | .error e => .error e
    | .ok (s, dw) =>
      match s.readDesc k c c.vb false with
      | .error e => .error e
      | .ok (s, sw) =>
        match cpyReason tr pad c.vc (Desc.ofWords dw) (Desc.ofWords sw) with
        | some r => .error (fault c.vb r false)
        | none => .ok (s, { c with dst := dw, src := sw })
  | .cpyr _ _ _ _ _ tsrc _ int =>
    match s.readDesc k c c.va true with
    | .error e => .error e
    | .ok (s, dw) =>
      let d := Desc.ofWords dw
      let fin := fun (s : State) (sw : List Word) (fmt : Nat) (a : Word) =>
        if fmt != d.fmt || !(cpyrFormat int d.fmt) then Except.error (fault a 2 false) else
        if !(d.inside (cpyrLast c (if tsrc then none else some (Desc.ofWords sw)))) then Except.error (fault c.va 3 true) else
        Except.ok (s, { c with dst := dw, src := sw })
      if tsrc then fin s [] (tshFmt c.tsh) 0
      else
        match s.readDesc k c c.vb false with
        | .error e => .error e
        | .ok (s, sw) => fin s sw (Desc.ofWords sw).fmt c.vb
  | .tst .. =>
    match s.readDesc k c c.va true with
    | .error e => .error e
    | .ok (s, dw) =>
      match tileReason c.instr c.tsh c.vb c.vc (Desc.ofWords dw) with
      | some r => .error (fault c.va r true)
      | none => .ok (s, { c with dst := dw })
  | _ =>
    match s.readDesc k c c.va false with
    | .error e => .error e
    | .ok (s, sw) =>
      match tileReason c.instr c.tsh c.vb c.vc (Desc.ofWords sw) with
      | some r => .error (fault c.va r false)
      | none => .ok (s, { c with src := sw })

/-- The footprint of a started command, for its slot tags (09 R229). -/
def CopyCmd.cover (c : CopyCmd) : List (Word × Nat) :=
  (match c.dstDesc with | some d => d.footprint | none => []) ++ (match c.srcDesc with | some d => d.footprint | none => [])

/-- Elements that a command moves one after another, or rows of a tile load (10 R260, R261, R270). -/
def CopyCmd.total (c : CopyCmd) : Nat :=
  match c.instr with
  | .cpy .. => (match c.dstDesc with | some d => d.count | none => 0)
  | .cpyr .. => (match c.srcDesc with | some d => d.count | none => tshElems c.tsh * tshRows c.tsh)
  | .tst .. => tshElems c.tsh * tshRows c.tsh
  | _ => tshRows c.tsh

/-- A command of a core's copy engine by its id. -/
def Core.copy? (c : Core) (id : Nat) : Option CopyCmd := c.copies.find? (fun x => x.id == id)

/-- A command changed. -/
def Core.modCopy (c : Core) (id : Nat) (f : CopyCmd → CopyCmd) : Core :=
  { c with copies := c.copies.map (fun x => if x.id == id then f x else x) }

/-- The copy engine of a core is halted by a fault, or because its report waits (10 R271; 14 R376). -/
def Core.cFaulted (c : Core) : Bool := c.cfault || c.reportWaits true

/-- The copy engine of a core is halted: by a fault, or by a stop that has taken effect (10 R271, R273; 14 R388). -/
def State.copyHalted (s : State) (k : Nat) : Bool := (s.core k).cFaulted || s.stopStands k

/-- CPYR with ORD, or promoted by deterministic mode (10 R261, 12 R338). -/
def CopyCmd.ordered (c : CopyCmd) : Bool := c.asOrd

/-- CPYR. -/
def CopyCmd.reduces (c : CopyCmd) : Bool := match c.instr with | .cpyr .. => true | _ => false

/-- The event that carries a started command on. -/
def CopyCmd.event (c : CopyCmd) (k : Nat) : Instr :=
  if c.ordered then .orderedInject k c.thr else if c.reduces then .copyReductionApply k c.id else .copyCommandComplete k c.id

/-- A command writes memory, as against a tile. -/
def CopyCmd.writesMem (c : CopyCmd) : Bool := !c.writesTile

/-- A fence with fn [2] holds a later command of its thread from starting: one in M as it holds accesses in M, and every one until the
accesses that it releases have been performed, as it holds stores (08 R215, R220; 09 R229, R245). -/
def State.fenceHoldsCopy (s : State) (k : Nat) (c : CopyCmd) : Bool :=
  match (s.thread k c.thr).fence with
  | none => false
  | some f => f.e && decide (f.epoch < c.epoch) &&
    ((inMask f.mask c.slots && s.fenceHoldsMasked k c.thr f c.writesMem) || s.fenceHoldsStores k c.thr f)

/-- A matrix operation's marks hold a command: for a tile load those of an operation accepted before it, for a command that reads a
tile those of every operation accepted before its start (07 R164; 10 R270). -/
def CopyCmd.follows (x : CopyCmd) (seq : BitVec 16) : Bool :=
  let d := (BitVec.ofNat 16 x.mseq - seq).toNat
  !x.writesTile || (decide (1 ≤ d) && decide (d ≤ 2 ^ 15))

/-- The tile waits of a command that starts (07 R163): W for a tile it reads, W or read-busy for one it writes. -/
def Core.tileWaits (c : Core) (k : Nat) (x : CopyCmd) : Bool :=
  x.tiles.any (fun t => c.drains.any (fun d => x.follows d.seq && d.tile == t) ||
    c.mq.any (fun o => x.follows o.seq && ((matSpec o.instr).d == t || (x.writesTile && (o.reads k).contains t))))

/-- A command waits at an address: its time-out runs, and once it has passed the engine faults with code 7 (10 R271; 15 R408). The
event that tries the command again is `again`. -/
def State.copyWaits (s : State) (core : Nat) (x : CopyCmd) (a : Word) (wr : Bool) (again : Instr) : State :=
  let since := s.engSince core a x.since
  let s := (s.callBack core a).modCore core (fun c => c.modCopy x.id (fun x => { x with since := since }))
  if s.engDue since then s.post (.copyEngineFault core x.id 23 (engVal 7 x.thr wr a)) else s.post again

/-- A command that has not started may not start yet (08 R220; 10 R251, R252). -/
def State.startWaits (s : State) (core : Nat) (x : CopyCmd) : Bool :=
  let c := s.core core
  s.copyHalted core || !(c.waitMet (engCmd x.instr)) || decide (4 ≤ (c.copies.filter (fun y => y.state == 1)).length) || c.tileWaits core x ||
    s.fenceHoldsCopy core x || s.scratchLeft core x.thr x.ord (ownKey, core)

/-- COPY_COMMAND_START: the oldest command not yet started, once its wait is met, fewer than 4 are in progress, its tiles
are free, no command in progress overlaps it and its thread's earlier accesses to the own scratchpad have been performed, reads its
descriptors and starts (08 R220; 10 R251, R252). -/
def execCopyCommandStart (core : Nat) (s : State) : Host.Outcome State Fault Refusal :=
  let c := s.core core
  match c.copies.find? (fun x => x.state == 0) with
  | none => happened s
  | some x =>
    let busy := c.copies.filter (fun y => y.state == 1)
    if s.startWaits core x then notYet s
    else
      match s.openCopy core x with
      | .error (.wait a wr) => happened (s.copyWaits core x a wr (.copyCommandStart core))
      | .error (.fault cause v) => happened (s.post (.copyEngineFault core x.id cause v))
      | .ok (t, y) =>
        if busy.any (fun z => y.clashes z) then notYet s else
        match y.weightBad with
        | some v =>
          happened ((t.modCore core (fun c => c.modCopy x.id (fun _ => { y with since := none }))).post (.copyEngineFault core x.id 53 v))
        | none =>
        let seen := match s.ctxOfCore core with
          | some z => if z.det && (engCmd x.instr).wthr != 0 then
              joinClocks y.stamp.seen (z.clock (semObj core (engCmd x.instr).wsem.toNat)) else y.stamp.seen
          | none => y.stamp.seen
        let y := { y with state := 1, since := none, slots := (s.thread core x.thr).tags y.cover, stamp := { y.stamp with seen := seen } }
        happened (((t.modCore core (fun c => c.modCopy x.id (fun _ => y))).post (y.event core)).postOnce (.copyCommandStart core))

/-- COPY_ENGINE_FAULT: a fault after acceptance halts the engine at the byte before the faulting access, and the cause goes
to the core supervisor (10 R271). -/
def execCopyEngineFault (core id cause : Nat) (kval : Word) (s : State) : Host.Outcome State Fault Refusal :=
  match (s.core core).copy? id with
  | none => happened s
  | some x =>
    if x.state == 2 then happened s else
    let s := if cause = 50 then s.logRow core (bits kval 0 5) (bits kval 5 5)
      else if cause = 23 && bits kval 56 4 == 8 then s.logHeld core 51 (BitVec.ofNat 64 (bits kval 0 56))
      else if cause = 23 && bits kval 56 4 == 6 then s.meetSector core (BitVec.ofNat 64 (bits kval 0 56)) else s
    happened ((s.modCore core (fun c =>
      { c.modCopy id (fun x => { x with state := 2, fault := if cause = 24 then bits kval 56 4 else 0 }) with
        cfault := true, cfaultT := s.clock + 1 })).report
        core cause kval)

/-- EST_CLEAR_CFAULT: the engine restarts at the recorded boundaries; a command that faulted with COPY_DESC reads its
descriptors again (10 R272). -/
def State.restartCopies (s : State) (core : Nat) : State :=
  let l := (s.core core).copies.filter (fun x => x.state == 2)
  let s := s.modCore core (fun c => { c with
    cfault := false,
    copies := c.copies.map (fun x => if x.state == 2 then
      { x with state := (if x.fault != 0 || (x.dst.isEmpty && x.src.isEmpty) then 0 else 1), fault := 0, since := none } else x) })
  let s := l.foldl (fun s x => s.post (x.event core)) s
  s.postOnce (.copyCommandStart core)

/-- EST_CLEAR_CFAULT (10 R272). -/
def execEstClearCfault (core : Nat) (s : State) : Host.Outcome State Fault Refusal :=
  happened (if (s.core core).cfault then s.restartCopies core else s)

/-- EST_CLEAR_MFAULT: the matrix engine restarts at the recorded group boundary (07 R183). -/
def State.restartMatrix (s : State) (core : Nat) : State :=
  let s := s.modCore core (fun c => { c with mfault := false })
  match (s.core core).headOp? with
  | some o => s.postOnce (if o.started then .matrixGroupComplete o.leader else .matrixOpStart core)
  | none => s

/-- EST_CLEAR_MFAULT (07 R183). -/
def execEstClearMfault (core : Nat) (s : State) : Host.Outcome State Fault Refusal :=
  happened (if (s.core core).mfault then s.restartMatrix core else s)

/-- One element of CPY, with the scale of the block that it begins (10 R260). -/
def State.cpyStep (s : State) (k : Nat) (c : CopyCmd) (tr : Bool) (d e : Desc) : Except EngStop (State × List Nat) :=
  let i := d.unlinear c.next
  let j := cpyIndex tr c.vc i
  let w := (if e.inside j then s.readElem k c.who c.mode e j else .ok (s, 0))
  match w with
  | .error x => .error x
  | .ok (s, x) =>
    match s.writeElem k c.who c.mode d i x with
    | .error x => .error x
    | .ok (s, l) =>
      if isBlockCode d.fmt && decide (i.i0 % (blockSize d.fmt : Int) = 0) then
        match (if e.inside j then s.readScale k c.who c.mode e j else .ok (s, defaultScale d.fmt)) with
        | .error x => .error x
        | .ok (s, y) =>
          (match s.writeScale k c.who c.mode d i y with
           | .error x => .error x
           | .ok (s, l') => .ok (s, l ++ l'))
      else .ok (s, l)

/-- The elements of one row of a tile load (10 R270). -/
def tldElems (k : Nat) (c : CopyCmd) (d : Desc) (r : Nat) : Nat → Nat → State → Except EngStop (State × List Nat)
  | 0, _, s => .ok (s, [])
  | n + 1, col, s =>
    let j := tileIndex c.instr c.vb c.vc col r
    match (if d.inside j then s.readElem k c.who c.mode d j else .ok (s, 0)) with
    | .error x => .error x
    | .ok (s, x) =>
      match tldElems k c d r n (col + 1) s with
      | .error x => .error x
      | .ok (s, l) => .ok (s, x :: l)

/-- The scales of one row of a tile load, block by block. -/
def tldScales (k : Nat) (c : CopyCmd) (d : Desc) (r : Nat) : Nat → Nat → State → Except EngStop (State × List Nat)
  | 0, _, s => .ok (s, [])
  | n + 1, b, s =>
    let j := tileIndex c.instr c.vb c.vc (b * blockSize d.fmt) r
    match (if d.inside j then s.readScale k c.who c.mode d j else .ok (s, defaultScale d.fmt)) with
    | .error x => .error x
    | .ok (s, x) =>
      match tldScales k c d r n (b + 1) s with
      | .error x => .error x
      | .ok (s, l) => .ok (s, x :: l)

/-- Blocks of a tile row. -/
def rowBlocks (sh : Word) : Nat := (tshElems sh + blockSize (tshFmt sh) - 1) / blockSize (tshFmt sh)

/-- One row of TLD or TLDW: the row, and for a block format the row of the scale tile, written whole (10 R270). -/
def State.tldStep (s : State) (k : Nat) (c : CopyCmd) (t : Nat) (d : Desc) : Except EngStop (State × List Nat) :=
  match tldElems k c d c.next (tshElems c.tsh) 0 s with
  | .error x => .error x
  | .ok (s, l) =>
    let put := fun (s : State) (t x : Nat) =>
      (s.modCore k (fun c' => (c'.setTileRow t c.next x).cleanRow (t % 32) (c.next % 32))).engTile k c.who .write (t % 32) c.next
    if isBlockCode d.fmt then
      match tldScales k c d c.next (rowBlocks c.tsh) 0 s with
      | .error x => .error x
      | .ok (s, y) => .ok (put (put s t (packElems d.width l)) (t + 1) (scalesFrom127 y), [])
    else .ok (put s t (packElems d.width l), [])

/-- A poisoned row of a tile that the copy engine reads (15 R401): ECC_TILE with the issuing thread. -/
def State.rowBad (s : State) (k : Nat) (c : CopyCmd) (t r : Nat) : Option EngStop :=
  if (s.core k).poison.contains (.tileRow (t % 32) (r % 32)) then
    some (.fault 50 (BitVec.ofNat 64 (t % 32 + r % 32 * 2 ^ 5 + c.thr % 8 * 2 ^ 60)))
  else none

/-- A tile row that a command reads, whole and with the row of its scale tile: read once and kept until its elements have been used
(07 R164; 10 R270). -/
def State.tileRead (s : State) (k : Nat) (c : CopyCmd) (t r : Nat) : Except EngStop (State × CopyCmd × Nat × Nat) :=
  match AMap.get? c.rows r with
  | some x => .ok (s, c, x.1, x.2)
  | none =>
    let block := isBlockCode (tshFmt c.tsh)
    match (s.rowBad k c t r).orElse (fun _ => if block then s.rowBad k c (t + 1) r else none) with
    | some e => .error e
    | none =>
      let x := ((s.core k).tileRow t r, if block then (s.core k).tileRow (t + 1) r else 0)
      let s := s.engTile k c.who .read t r
      .ok (if block then s.engTile k c.who .read ((t + 1) % 32) r else s, { c with rows := AMap.set c.rows r x }, x.1, x.2)

/-- One element of TST, with the scale of the block that it begins (10 R270). -/
def State.tstStep (s : State) (k : Nat) (c : CopyCmd) (t : Nat) (d : Desc) : Except EngStop (State × CopyCmd × List Nat) :=
  let n := tshElems c.tsh
  let col := c.next % n
  let r := c.next / n
  let j := tileIndex c.instr c.vb c.vc col r
  match s.tileRead k c t r with
  | .error e => .error e
  | .ok (s, c, row, scales) =>
    let c := if col + 1 = n then { c with rows := AMap.erase c.rows r } else c
    match s.writeElem k c.who c.mode d j (row / 2 ^ (d.width * col) % 2 ^ d.width) with
    | .error e => .error e
    | .ok (s, l) =>
      if isBlockCode d.fmt && col % blockSize d.fmt == 0 then
        match s.writeScale k c.who c.mode d j (scales / 2 ^ (8 * (127 - col / blockSize d.fmt)) % 256) with
        | .error e => .error e
        | .ok (s, l') => .ok (s, c, l ++ l')
      else .ok (s, c, l)

/-- One element, or one tile row, of a command moved (10 R260, R270): the command goes on to the next. -/
def State.moveStep (s : State) (k : Nat) (c : CopyCmd) : Except EngStop (State × CopyCmd) :=
  let on := fun (c : CopyCmd) (l : List Nat) => { c with next := c.next + 1, lines := c.lines ++ l, since := none }
  match c.instr, c.dstDesc, c.srcDesc with
  | .cpy _ _ _ _ tr _, some d, some e =>
    (match s.cpyStep k c tr d e with | .error x => .error x | .ok (s, l) => .ok (s, on c l))
  | .tst _ _ _ t _, some d, _ =>
    (match s.tstStep k c t.toNat d with | .error x => .error x | .ok (s, c, l) => .ok (s, on c l))
  | .tld _ _ _ t _ _, _, some d =>
    (match s.tldStep k c t.toNat d with | .error x => .error x | .ok (s, l) => .ok (s, on c l))
  | .tldw _ _ _ _ t, _, some d =>
    (match s.tldStep k c t.toNat d with | .error x => .error x | .ok (s, l) => .ok (s, on c l))
  | _, _, _ => .ok (s, on c [])

/-- The destination descriptor and index of element `n` of a command that writes memory. -/
def CopyCmd.target (c : CopyCmd) (n : Nat) : Option (Desc × Idx) :=
  match c.instr, c.dstDesc with
  | .cpy .., some d => some (d, d.unlinear n)
  | .tst .., some d => some (d, tileIndex c.instr c.vb c.vc (n % tshElems c.tsh) (n / tshElems c.tsh))
  | _, _ => none

/-- The next element begins at a byte of its destination, where a fault may stop the command (10 R271). -/
def CopyCmd.atByte (c : CopyCmd) : Bool :=
  match c.target c.next with
  | some (d, i) => d.width * i.i0.toNat % 8 == 0
  | none => true

/-- The first and the last aligned word that an element writes. -/
def Desc.words (d : Desc) (i : Idx) : Nat × Nat :=
  let e := elemSpan d.width i.i0.toNat
  ((d.rowAddr i).toNat + e.1, (d.rowAddr i).toNat + e.1 + e.2.1 - 1) |> fun x => (x.1 / 8, x.2 / 8)

/-- The next element writes no word that the one before it has written part of, so that the command may pause here: an aligned 8-byte
word, a word of scale bytes among them, changes at one time (08 R190, R220). A TST pauses between rows only, which it reads whole
(07 R164; 10 R270; 20 R456). -/
def CopyCmd.atWord (c : CopyCmd) : Bool :=
  match c.instr with
  | .tst .. => c.next % tshElems c.tsh == 0
  | _ =>
  match c.target c.next, c.target (c.next - 1) with
  | some (d, i), some (_, j) =>
    c.next == 0 || (((d.words i).1 != (d.words j).2) &&
      (!(isBlockCode d.fmt) || (i.i0.toNat % blockSize d.fmt == 0 && (d.scaleAddr i).toNat / 8 != (d.scaleAddr j).toNat / 8)))
  | _, _ => true

/-- Elements of a command moved, up to `n` of them, or up to the next place where it may pause; what stopped it, if anything. A wait
takes it back to the last such place, `w`, and a fault to the last byte boundary, `b` (08 R220; 10 R271). -/
def moveAll (k : Nat) (one : Bool) : Nat → State × CopyCmd → State × CopyCmd → State → CopyCmd → State × CopyCmd × Option EngStop
  | 0, _, _, s, c => (s, c, none)
  | n + 1, w, b, s, c =>
    let w := if c.atWord then (s, c) else w
    let b := if c.atByte then (s, c) else b
    match s.moveStep k c with
    | .error (.wait a wr) => (w.1, w.2, some (.wait a wr))
    | .error e => (b.1, b.2, some e)
    | .ok (s, c) => if one && c.atWord then (s, c, none) else moveAll k one n w b s c

/-- A command touches the banks of a scratchpad of this panel, where each of its accesses is a request of its own (12 R332). -/
def State.usesBanks (s : State) (k : Nat) (c : CopyCmd) : Bool :=
  c.cover.any (fun x => match s.scratchOf k x.1 with | some (p, _, _) => s.ownPanel p | none => false)

/-- The elements that a command moves at one time: all it has left, or those up to a place where it may pause, where a schedule says
so (log 3) or each access is a request for banks (12 R332). -/
def State.moveRest (s : State) (k : Nat) (c : CopyCmd) : State × CopyCmd × Option EngStop :=
  moveAll k (s.piecewise || s.usesBanks k c) (c.total - c.next) (s, c) (s, c) s c

/-- The bits of memory that element `n` of a command writes, byte by byte, the scale of the block that it begins included. -/
def CopyCmd.wrote (c : CopyCmd) (n : Nat) : List (Word × Nat) :=
  match c.target n with
  | none => []
  | some (d, i) =>
    let (b, m, _) := elemSpan d.width i.i0.toNat
    (List.range m).map (fun j => (d.rowAddr i + BitVec.ofNat 64 (b + j), d.elemMask i / 2 ^ (8 * j) % 256)) ++
      (if isBlockCode d.fmt && i.i0.toNat % blockSize d.fmt == 0 then [(d.scaleAddr i, 255)] else [])

/-- The marks that a command's elements up to `n` clear, those before `from_` moved earlier: scratchpad words and sectors that they have
written whole (15 R402, R404). -/
def State.cleanMoved (s : State) (k : Nat) (c : CopyCmd) (from_ n : Nat) : State :=
  if s.poison.isEmpty && s.cores.all (fun x => x.2.poison.isEmpty) then s else
  let bytes := fun (l : List Nat) => (l.flatMap c.wrote).filterMap (fun x => (s.bytePlace k x.1).map (fun p => (p, x.2)))
  let all := bytes (List.range n)
  let new := (bytes ((List.range n).drop from_)).map Prod.fst
  let full := fun (p : Nat) => (all.filter (fun x => x.1 == p)).foldl (fun m x => Nat.lor m x.2) 0 == 255
  let unit := fun (size p : Nat) => new.any (fun x => x / size == p) && (List.range size).all (fun j => full (p * size + j))
  let s := { s with poison := s.poison.filter (fun p => !(unit 32 p)) }
  let mine := ((new.filter (fun p => p / 2 ^ 64 == 5 && p / 2 ^ 40 % 2 ^ 24 == ownKey)).map (fun p => p / 2 ^ 20 % 2 ^ 20)).eraseDups
  mine.foldl (fun s j => s.modCore j (fun x => { x with poison := x.poison.filter (fun u => match u with
    | .scratch w => !(unit 8 (physScratch ownKey j (8 * w) / 8))
    | _ => true) })) s

/-- A store that some cluster does not see yet stands in a line that a command has read: the command completes after it has been
performed towards every cluster (08 R216; 09 R226). -/
def State.copyReadsLate (s : State) (k : Nat) (c : CopyCmd) : Bool :=
  !s.late.isEmpty && (match c.srcDesc with | some d => d.footprint | none => []).any (fun x =>
    (List.range ((x.1.toNat % 128 + x.2 + 127) / 128)).any (fun j =>
      match s.bytePlace k (x.1 - BitVec.ofNat 64 (x.1.toNat % 128) + BitVec.ofNat 64 (128 * j)) with
      | some p => s.late.any (fun l => !(l.clusters.contains (clusterOfCore k)) && l.place / 128 == p / 128)
      | none => false))

/-- A command that has moved all of itself is not complete yet: a write of it has not reached its host, or a store that it has read has
not been performed everywhere (10 R252; 08 R216). -/
def State.copyUnsettled (s : State) (k : Nat) (c : CopyCmd) : Bool :=
  c.lines.any (fun l => s.hostOutstanding (l * 128)) || s.copyReadsLate k c

/-- A completed command leaves the queue and its signal is added (10 R252). -/
def State.finishCopy (s : State) (k : Nat) (c : CopyCmd) : State :=
  let m := AMap.set c.stamp.seen (copyWho k c.thr c.id) 1
  let s := (s.releaseClock k (semObj k (engCmd c.instr).ssem.toNat) m).releaseClock k (batchObj k c.batch) m
  (((s.modCore k (fun x => { x with copies := x.copies.filter (fun y => !(y.id == c.id)) })).signal k (engCmd c.instr)).postOnce
    (.batchComplete k)).postOnce (.copyCommandStart k)

/-- COPY_COMMAND_COMPLETE: the command moves its remaining elements, or one of them where a schedule says so, and completes
once every write has, host reach included (10 R252, R260). -/
def execCopyCommandComplete (core id : Nat) (s : State) : Host.Outcome State Fault Refusal :=
  match (s.core core).copy? id with
  | none => happened s
  | some c =>
    if c.state != 1 then happened s else
    if s.copyHalted core then notYet s else
    if c.reduces then
      (if c.next < c.total || s.copyUnsettled core c then notYet s else happened (s.finishCopy core c))
    else
      let (t, x, e) := s.moveRest core c
      let t := (t.cleanMoved core x c.next x.next).modCore core (fun y => y.modCopy id (fun _ => x))
      match e with
      | some (.fault cause v) => happened (t.post (.copyEngineFault core id cause v))
      | some (.wait a wr) => happened (t.copyWaits core x a wr (.copyCommandComplete core id))
      | none =>
        if x.next < x.total || t.copyUnsettled core x then happened (t.post (.copyCommandComplete core id))
        else happened (t.finishCopy core x)

/-- Op of CPYR on an element of a format (10 R261). -/
def redNew (op : RedOp) (int : Bool) (fmt m e : Nat) : Nat :=
  if int then
    match op with
    | .sum => (m + e) % 2 ^ 32
    | .min => if intOf 32 true e < intOf 32 true m then e else m
    | .max => if intOf 32 true m < intOf 32 true e then e else m
  else
    let f := match fmt with | 0 => fp64 | 1 => fp32 | 3 => bf16 | _ => fp16
    match op with
    | .sum => amoFloat f .fadd m e
    | .min => amoFloat f .fmin m e
    | .max => amoFloat f .fmax m e

/-- The destination index of element `n` of a reduction (10 R261). -/
def CopyCmd.redIdx (c : CopyCmd) (n : Nat) : Idx :=
  match c.srcDesc with
  | some e => let i := e.unlinear n; ⟨i.i0 + origin c.vc 0, i.i1 + origin c.vc 1, i.i2 + origin c.vc 2, i.i3 + origin c.vc 3⟩
  | none =>
    let m := tshElems c.tsh
    ⟨(n % m : Nat) + origin c.vc 0, (n / m : Nat) + origin c.vc 1, origin c.vc 2, origin c.vc 3⟩

/-- The address that element `n` of a reduction is applied at (10 R261). -/
def CopyCmd.elemAddr (c : CopyCmd) (n : Nat) : Word :=
  match c.dstDesc with
  | none => 0
  | some d => d.rowAddr (c.redIdx n) + BitVec.ofNat 64 (d.width / 8 * (c.redIdx n).i0.toNat)

/-- Element `n` of a reduction read at its source, with the command as it has read it (10 R261). -/
def State.redElem (s : State) (k : Nat) (c : CopyCmd) (n : Nat) : Except EngStop (State × CopyCmd × Nat) :=
  match c.srcDesc with
  | some e =>
    (match s.readElem k c.who c.mode e (e.unlinear n) with
     | .error x => .error x
     | .ok (s, x) => .ok (s, c, x))
  | none =>
    let cols := tshElems c.tsh
    let w := codeWidth (tshFmt c.tsh)
    match s.tileRead k c (tileOf c.vb) (n / cols) with
    | .error e => .error e
    | .ok (s, c, row, _) => .ok (s, c, row / 2 ^ (w * (n % cols)) % 2 ^ w)

/-- Elements of a reduction read one after another: what an ordered command's packets carry when it is injected (10 R261, R262). -/
def redAll (k : Nat) : List Nat → State → CopyCmd → Except EngStop (State × CopyCmd × List Nat)
  | [], s, c => .ok (s, c, [])
  | n :: r, s, c =>
    match s.redElem k c n with
    | .error e => .error e
    | .ok (s, c, x) =>
      match redAll k r s c with
      | .error e => .error e
      | .ok (s, c, l) => .ok (s, c, x :: l)

/-- Element `n` of a reduction, `x`, applied at its destination in one step (10 R261): the command with one element more. -/
def State.redPut (s : State) (k : Nat) (c : CopyCmd) (n x : Nat) : Except EngStop (State × CopyCmd) :=
  match c.instr, c.dstDesc with
  | .cpyr _ _ _ _ op _ _ int, some d =>
    let i := c.redIdx n
    let bytes := d.width / 8
    let a := c.elemAddr n
    (match s.engPlace k c.who c.mode .atomic (d.rowAddr i) a bytes, s.readElem k c.who c.mode d i with
     | .error e, _ => .error e
     | _, .error e => .error e
     | .ok p, .ok (s, m) =>
       let s := if vaRegion a < 8 then (match s.ctxOfCore k with | some x => s.homeAtomic x a p | none => s) else s
       match s.engStore k c.who c.mode (d.rowAddr i) a bytes (redNew op int d.fmt m x) (2 ^ (8 * bytes) - 1) with
       | .error e => .error e
       | .ok (s, l) => .ok (s, { c with next := c.next + 1, lines := c.lines ++ l, since := none }))
  | _, _ => .ok (s, { c with next := c.next + 1 })

/-- One reduction element read and applied. -/
def State.redApply (s : State) (k : Nat) (c : CopyCmd) (n : Nat) : Except EngStop (State × CopyCmd) :=
  match s.redElem k c n with
  | .error e => .error e
  | .ok (s, c, x) => s.redPut k c n x

/-- COPY_REDUCTION_APPLY: the next element of an unordered CPYR is applied at its destination agent (10 R261, R262). -/
def execCopyReductionApply (core id : Nat) (s : State) : Host.Outcome State Fault Refusal :=
  match (s.core core).copy? id with
  | none => happened s
  | some c =>
    if c.state != 1 || !c.reduces || c.ordered then happened s else
    if s.copyHalted core then notYet s else
    if c.total ≤ c.next then happened (s.post (.copyCommandComplete core id)) else
    match s.redApply core c c.next with
    | .error (.wait a wr) => happened (s.copyWaits core c a wr (.copyReductionApply core id))
    | .error (.fault cause v) => happened (s.post (.copyEngineFault core id cause v))
    | .ok (t, y) =>
      happened ((t.modCore core (fun x => x.modCopy id (fun _ => y))).post
        (if y.next < c.total then .copyReductionApply core id else .copyCommandComplete core id))

/-- CBATCH closes batch CNEXT (10 R263). -/
def execCbatch (e : EngCmd) (s : State) : Host.Outcome State Fault Refusal :=
  runSlot 2 [] [] (fun _ => .go (fun t =>
    (t.modOwn (fun c => { c with
      batches := c.batches ++ [{ n := c.cnext, cmd := e }], cnext := c.cnext + 1,
      copies := c.copies.map (fun x => if x.batch == c.cnext.toNat then { x with closed := true } else x) })).postOnce
        (.batchComplete t.cur.core))) s

/-- BATCH_COMPLETE: the oldest closed batch completes once its commands have and its wait is met; CDONE takes its number and
its signal is added (10 R263). What a CWAIT of it acquires includes every earlier batch (10 R264; 12 R340). -/
def execBatchComplete (core : Nat) (s : State) : Host.Outcome State Fault Refusal :=
  let c := s.core core
  match c.batches with
  | [] => happened s
  | b :: r =>
    if c.copies.any (fun x => x.closed && x.batch == b.n.toNat) || !(c.waitMet b.cmd) then notYet s else
    let s := match s.ctxOfCore core with
      | some z =>
        let m := joinClocks (z.clock (batchObj core b.n.toNat)) (z.clock (batchObj core (b.n - 1).toNat))
        (s.releaseClock core (semObj core b.cmd.ssem.toNat) m).releaseClock core (batchObj core b.n.toNat) m
      | none => s
    happened (((s.modCore core (fun c => { c with batches := r, cdone := b.n })).signal core b.cmd).postOnce (.batchComplete core))

/-- A semaphore written. -/
def Core.setSem (c : Core) (n : BitVec 8) (x : BitVec 16) : Core := { c with sems := c.sems.set n.toNat x n.isLt }

/-- A signal applied: it saturates, and its overflow is reported (02 R45, 11 R318). -/
def State.applySignal (s : State) (k : Nat) (x : Nat × Nat) : State :=
  let n : BitVec 8 := BitVec.ofNat 8 x.1
  let v := ((s.core k).sem n).toNat + x.2
  let s := s.modCore k (fun c => c.setSem n (BitVec.ofNat 16 (min v 0xFFFF)))
  if 0xFFFF < v then s.report k 26 (BitVec.ofNat 64 x.1) else s

/-- The threshold of a parked SEMW is met. -/
def State.semMet (s : State) (k : Nat) (x : Nat × Nat) : Bool :=
  decide (((s.thread k x.1).call.getD 0 0).toNat ≤ ((s.core k).sem (BitVec.ofNat 8 x.2)).toNat)

/-- The parked SEMWs whose thresholds are met, in the order they parked, each seeing the takes before it (11 R318); not one whose
bundle's other slot would park (02 R36). -/
def passSemws (k : Nat) : List (Nat × Nat) → State → State
  | [], s => s
  | (t, n) :: r, s =>
    if s.semMet k (t, n) && !(s.isBlocked k t) then
      let left := ((s.core k).sem (BitVec.ofNat 8 n)).toNat - ((s.thread k t).call.getD 1 0).toNat
      let s := (s.modCore k (fun c => { c.setSem (BitVec.ofNat 8 n) (BitVec.ofNat 16 left) with
        semWait := c.semWait.erase (t, n) })).modThread k t (fun th => { th with call := [] })
      passSemws k r (s.grantTo k t [])
    else passSemws k r s

/-- The semaphore file after a change: the signals of engine commands, then the parked SEMWs (11 R318). -/
def State.applySems (s : State) (core : Nat) : State :=
  let s := (s.core core).signals.foldl (fun s x => s.applySignal core x) (s.modCore core (fun c => { c with signals := [] }))
  passSemws core (s.core core).semWait s

/-- A parked SEMW whose threshold is met has not passed, since its bundle's other slot would park. -/
def State.semHeld (s : State) (core : Nat) : Bool := (s.core core).semWait.any (s.semMet core)

/-- The semaphore file brought up to date at once (11 R318). -/
def State.updateSems (s : State) (core : Nat) : State :=
  let t := s.applySems core
  if t.semHeld core then t.postOnce (.semaphoreUpdate core) else t

/-- CWAIT (10 R264). -/
def execCwait (e : EngCmd) (a : BitVec 6) (s : State) : Host.Outcome State Fault Refusal :=
  runSlot 2 [rn a] [] (fun s =>
    let c := s.own
    let n : BitVec 16 := (s.rs a).setWidth 16
    let δ := (c.cnext - n).toNat
    if δ = 0 || 32768 < δ then .trap 25 (BitVec.ofNat 64 (n.toNat + c.cnext.toNat * 2 ^ 16)) else
    if c.batches.any (fun b => b.n == n) || !(c.waitMet e) then .park .batch else
    if e.sinc != 0 && decide (0xFFFF < (c.sem e.ssem).toNat + e.sinc.toNat) then .trap 26 (BitVec.ofNat 64 e.ssem.toNat) else
    .go (fun t =>
      let k := t.cur.core
      let t := t.acquire k t.cur.thr (batchObj k n.toNat)
      let t := if e.wthr = 0 then t else t.acquire k t.cur.thr (semObj k e.wsem.toNat)
      let t := if e.sinc = 0 then t else t.release k t.cur.thr (semObj k e.ssem.toNat)
      (t.modOwn (fun c => c.setSem e.ssem (c.sem e.ssem + e.sinc.setWidth 16))).updateSems k)) s

/-- RTDESC (09 R228): it parks until its descriptor has arrived, and an invalid one traps on the bundle. -/
def execRtdesc (a : BitVec 6) (slot : BitVec 4) (s : State) : Host.Outcome State Fault Refusal :=
  runSlot 0 [rn a] [] (fun s =>
    if slot = 0 then .trap 3 s.cur.bundle else
    let x := s.rs a
    match s.src.grant with
    | some l =>
      if descValid x (l.take 8) then
        .go (fun t => t.modTh (fun th => th.setRange slot
          { used := true, desc := some x, base := 0, limit := 0, cover := (Desc.ofWords l).footprint }))
      else .trap 34 x
    | none =>
      if s.slotBusy slot.toNat then .park .rangeBusy else
      match s.issueCheck .load 9 false x 64 none with
      | some (c, v) => .trap c v
      | none =>
        if s.src.accFull then .park .accessTable
        else .join .descriptor (fun t => t.takeEntry (t.newEntry .read 0x4A slot.toNat 0 x (piecesOf x 64) 0))) s

end Sys2Proof.Machine
end

