-- ==== Sys2Proof/Machine/Streams.lean ====
section
/-! DEFINITION. Streams (06 R142 to R144; 10 R265 to R268) and FENCE (09 R244, R245), which discards prefetched records. -/

namespace Sys2Proof.Machine

/-- An accepted MMAS of a thread on a stream has not completed (07 R168). -/
def Core.mmasOn (c : Core) (t : Nat) (n : BitVec 3) : Bool := c.mq.any (fun o => o.thr == t % 8 && matStream o.instr == some n)

/-- Records already asked for, from record 0 on. -/
def Stream.asked (w : Stream) : Nat := w.first + w.recs.length

/-- An SBIND's wait holds its first refill only (10 R265). -/
def Stream.mayStart (w : Stream) (c : Core) : Bool := w.asked != 0 || decide (w.wthr.toNat ≤ (c.sem w.wsem).toNat)

/-- A fence with fn [2] of the thread still keeps a record of a later epoch from being fetched or sent: one in M as it holds
accesses in M, and a write as it holds stores (08 R215; 09 R245; 10 R267). -/
def State.fenceKeepsRecord (s : State) (k t : Nat) (base shape : Word) (i epoch : Nat) (wr : Bool) : Bool :=
  match (s.thread k t).fence with
  | none => false
  | some f => f.e && decide (f.epoch < epoch) &&
    ((inMask f.mask ((s.thread k t).tags [(recordAddr base shape i, 128)]) && s.fenceHoldsMasked k t f wr) ||
      (wr && s.fenceHoldsStores k t f))

/-- STREAM_REFILL: the engine asks for the next record of a reading stream, up to four ahead of its head (10 R266). -/
def execStreamRefill (core thr n : Nat) (s : State) : Host.Outcome State Fault Refusal :=
  let m : BitVec 3 := BitVec.ofNat 3 n
  let w := (s.thread core thr).stream m
  if !w.bound || w.writing || w.stopped || !(w.hasRecord w.asked) || decide (w.head + 4 ≤ w.asked) then happened s else
  let epoch := (s.thread core thr).epoch
  if !(w.mayStart (s.core core)) || s.fenceKeepsRecord core thr w.base w.shape w.asked epoch false || s.stopStands core then
    notYet s else
  happened (((s.modStream core thr m (fun w => { w with
      recs := w.recs ++ [{ data := 0, mask := 0, arrived := false, again := false, epoch := epoch }] })).post
    (.streamRecordArrival core thr n)).postOnce (.streamRefill core thr n))

/-- The first record of a stream that has been asked for and has not arrived. -/
def Stream.inFlight? (w : Stream) : Option Nat :=
  ((w.recs.zip (List.range w.recs.length)).find? (fun x => !x.1.arrived)).map (fun x => w.first + x.2)

/-- VPOPs whose record has arrived write their registers (06 R142). -/
def Thread.servePops (th : Thread) (n : BitVec 3) (i : Nat) (v : Vec) : Thread :=
  let w := th.stream n
  let th := (w.pops.filter (fun p => p.record == i)).foldl (fun th p =>
    (th.writeV (BitVec.ofNat 5 p.vd) (blendBytes p.mask v (th.readV (BitVec.ofNat 5 p.vd)))).unmark .user [.v p.vd]) th
  th.setStream n ({ th.stream n with pops := w.pops.filter (fun p => !(p.record == i)) }).tidy

/-- The report of a fault of a refill or drain (06 R144). `a` is the record's first byte: which address of the record KVAL holds when
a later piece of it faults the spec does not say (DESIGN CHOICE, log 25). -/
def State.streamReport (s : State) (k t : Nat) (n : BitVec 3) (a : Word) : State :=
  s.report k 22 (BitVec.ofNat 64 (bits a 0 56 + n.toNat * 2 ^ 56 + t % 8 * 2 ^ 60))

/-- A stream fault of a refill or drain (06 R144): the stream stops and the report names it. -/
def State.streamFault (s : State) (k t : Nat) (n : BitVec 3) (a : Word) : State :=
  (s.modStream k t n (fun w => { w with stopped := true, since := none })).streamReport k t n a

/-- The record of a stream at an index, as it stands before it arrives. -/
def Stream.recOf (w : Stream) (i : Nat) : StreamRec :=
  (w.record? i).getD { data := 0, mask := 0, arrived := false, again := false, epoch := 0 }

/-- A record of a stream has arrived. -/
def Stream.setArrived (w : Stream) (i : Nat) (v : Vec) : Stream :=
  { w with since := none, recs := w.recs.set (i - w.first) { w.recOf i with data := v, mask := 0, arrived := true, again := false } }

/-- An access of a stream's record waits: its time-out runs, and once it has passed it is a fault of the stream (06 R144; 15 R408). -/
def State.streamWaits (s : State) (core thr : Nat) (m : BitVec 3) (a rec : Word) : Host.Outcome State Fault Refusal :=
  let since := s.engSince core a ((s.thread core thr).stream m).since
  if s.engDue since then happened (s.streamFault core thr m rec)
  else notYet ((s.callBack core a).modStream core thr m (fun w => { w with since := since }))

/-- STREAM_RECORD_ARRIVAL: the oldest record under way is read and arrives (10 R266); the records under way of a stopped stream wait
for it (06 R144), and a record that a fence has dropped waits for the fence (10 R267). -/
def execStreamRecordArrival (core thr n : Nat) (s : State) : Host.Outcome State Fault Refusal :=
  let m : BitVec 3 := BitVec.ofNat 3 n
  let w := (s.thread core thr).stream m
  match w.inFlight? with
  | none => happened s
  | some i =>
    let r := w.recOf i
    if w.stopped || (r.again && s.fenceKeepsRecord core thr w.base w.shape i r.epoch false) then notYet s else
    let a := recordAddr w.base w.shape i
    match s.engBytes core thr w.mode a a 128 with
    | .error (.wait b _) => s.streamWaits core thr m b a
    | .error (.fault _ _) => happened (s.streamFault core thr m a)
    | .ok (s, x) =>
      let v : Vec := BitVec.ofNat 1024 x
      happened (s.modThread core thr (fun th => (th.setStream m ((th.stream m).setArrived i v)).servePops m i v))

/-- The byte mask of a record as a bit mask of its 128 bytes. -/
def byteBits (m : Mask) : Nat := packElems 8 ((List.range 128).map (fun j => if m.getLsbD j then 255 else 0))

/-- A SUNBIND job whose records have been sent and completed, and whose wait is met: its signal is added (10 R268). -/
def State.jobReady (s : State) (core n : Nat) (j : DrainJob) : Bool :=
  j.n == n && j.recs.isEmpty && (s.core core).waitMet j.cmd && !(j.lines.any (fun l => s.hostOutstanding (l * 128)))

/-- The oldest record of a SUNBIND job sent (10 R266, R268). -/
def State.sendJob (s : State) (core thr : Nat) (j : DrainJob) (r : StreamRec) (rest : List StreamRec) :
    Host.Outcome State Fault Refusal :=
  let m : BitVec 3 := BitVec.ofNat 3 j.n
  let a := recordAddr j.base j.shape j.first
  let put := fun (s : State) (f : DrainJob → DrainJob) =>
    s.modThread core thr (fun th => { th with drains := th.drains.map (fun x => if x = j then f x else x) })
  let stop := fun (s : State) => (put s (fun x => { x with stopped := true, since := none })).streamReport core thr m a
  if s.fenceKeepsRecord core thr j.base j.shape j.first r.epoch true then notYet s else
  match s.engStore core thr j.mode a a 128 r.data.toNat (byteBits r.mask) with
  | .error (.wait b _) =>
    let since := s.engSince core b j.since
    if s.engDue since then happened (stop s) else notYet (put (s.callBack core b) (fun x => { x with since := since }))
  | .error (.fault _ _) => happened (stop s)
  | .ok (t, l) =>
    happened ((put t (fun x => { x with recs := rest, first := x.first + 1, lines := x.lines ++ l, since := none })).post
      (.streamDrain core thr j.n))

/-- The oldest buffered record of a writing stream sent (10 R266). -/
def State.sendRecord (s : State) (core thr : Nat) (m : BitVec 3) (r : StreamRec) (rest : List StreamRec) :
    Host.Outcome State Fault Refusal :=
  let w := (s.thread core thr).stream m
  let a := recordAddr w.base w.shape w.first
  if s.fenceKeepsRecord core thr w.base w.shape w.first r.epoch true then notYet s else
  match s.engStore core thr w.mode a a 128 r.data.toNat (byteBits r.mask) with
  | .error (.wait b _) => s.streamWaits core thr m b a
  | .error (.fault _ _) => happened (s.streamFault core thr m a)
  | .ok (t, l) =>
    happened ((t.modStream core thr m (fun w => { w with recs := rest, first := w.first + 1, lines := w.lines ++ l, since := none })).post
      (.streamDrain core thr m.toNat))

/-- STREAM_DRAIN: the signal of a SUNBIND whose records have completed is added; or else a stream that SUNBIND has ended, or the
stream bound now, sends its oldest buffered record (10 R266, R268). Records that a fault has stopped wait (06 R144). -/
def execStreamDrain (core thr n : Nat) (s : State) : Host.Outcome State Fault Refusal :=
  let m : BitVec 3 := BitVec.ofNat 3 n
  let th := s.thread core thr
  match th.drains.find? (s.jobReady core n) with
  | some j => happened ((s.modThread core thr (fun th => { th with drains := th.drains.erase j })).signal core j.cmd)
  | none =>
    match th.drains.find? (fun j => j.n == n && !j.recs.isEmpty && !j.stopped) with
    | some j =>
      (match j.recs with
       | r :: rest => s.sendJob core thr j r rest
       | [] => happened s)
    | none =>
      let w := th.stream m
      let idle := if th.drains.any (fun j => j.n == n && j.recs.isEmpty) then notYet s else happened s
      if !w.writing || w.stopped then idle else
      match w.recs with
      | r :: rest => s.sendRecord core thr m r rest
      | [] => idle

/-- A stream unbound (10 R268): a reading one drops its prefetched records, but for those a retired VPOP waits for. -/
def Stream.unbind (w : Stream) : Stream :=
  if w.writing || w.pops.isEmpty then Stream.unbound
  else { w with bound := false, recs := w.recs.take (w.head - w.first) }

/-- The buffered records of a writing stream that are sent after it is unbound. -/
def drainJob (n : BitVec 3) (w : Stream) (e : EngCmd) : List DrainJob :=
  if w.bound && w.writing then
    [{ n := n.toNat, base := w.base, shape := w.shape, first := w.first, recs := w.recs, mode := w.mode, cmd := e, stopped := w.stopped,
       lines := w.lines, since := none }]
  else []

/-- SBIND (10 R265). -/
def execSbind (e : EngCmd) (a b : BitVec 6) (n : BitVec 3) (wr : Bool) (s : State) : Host.Outcome State Fault Refusal :=
  runSlot 2 [rn a, rn b] [] (fun s =>
    let w := s.src.stream n
    if s.own.mmasOn s.cur.thr n then .park .mmasOnStream else
    if (w.writing && !w.recs.isEmpty) || !w.pops.isEmpty || s.src.drains.any (fun j => j.n == n.toNat && !j.recs.isEmpty) then
      .park .streamBusy
    else .go (fun t =>
      let t := t.modTh (fun th => th.setStream n
        { Stream.unbound with bound := true, writing := wr, base := s.rs a, shape := s.rs b, wsem := e.wsem, wthr := e.wthr,
                              mode := s.src.mode })
      let t := t.signal s.cur.core e
      if wr then t else t.postOnce (.streamRefill s.cur.core (s.cur.thr % 8) n.toNat))) s

/-- SUNBIND (10 R268): the buffered records of a writing stream are still sent, and the signal follows the last of them. -/
def execSunbind (e : EngCmd) (n : BitVec 3) (s : State) : Host.Outcome State Fault Refusal :=
  runSlot 2 [] [] (fun s =>
    let w := s.src.stream n
    if s.own.mmasOn s.cur.thr n then .park .mmasOnStream else
    .go (fun t =>
      let job : DrainJob := { n := n.toNat, base := w.base, shape := w.shape, first := w.first,
                              recs := if w.writing then w.recs else [], mode := w.mode, cmd := e, stopped := w.writing && w.stopped,
                              lines := w.lines, since := none }
      (t.modTh (fun th => ({ th with drains := th.drains ++ [job] }).setStream n w.unbind)).post
        (.streamDrain s.cur.core (s.cur.thr % 8) n.toNat))) s

/-- The byte mask of the active elements of a type (02 R48, R73). -/
def elemMask (q : Mask) (ty : ElemType) : Mask :=
  BitVec.ofNat 128 (packElems 1 ((List.range 128).map (fun j => if activeElem q ty (j / elemSize ty) then 1 else 0)))

/-- KVAL of STREAM_UNBOUND (06 R142, R143). -/
def unboundVal (n : BitVec 3) (w : Stream) : Word := BitVec.ofNat 64 (n.toNat + if w.bound then 8 else 0)

/-- VPOP (06 R142): the bundle retires whether or not the record has arrived, and vd is pending until it has. -/
def execVpop (vd : BitVec 5) (n : BitVec 3) (q : BitVec 3) (ty : ElemType) (s : State) : Host.Outcome State Fault Refusal :=
  runSlot 1 [rnq q] [rnv vd] (fun s =>
    let w := s.src.stream n
    if !w.bound || w.writing then .trap 21 (unboundVal n w) else
    if !(w.hasRecord w.head) then .trap 22 (BitVec.ofNat 64 (n.toNat + 2 ^ 8)) else
    if s.own.mmasOn s.cur.thr n then .park .mmasOnStream else
    .go (fun t =>
      let p : PopWait := { record := w.head, vd := vd.toNat, mask := elemMask (s.rq q) ty }
      let t := t.modTh (fun th =>
        let th := (th.mark [rnv vd]).setStream n { w with head := w.head + 1, entry := 0, pops := w.pops ++ [p] }
        match w.record? w.head with
        | some r => if r.arrived then th.servePops n w.head r.data else th
        | none => th)
      t.postOnce (.streamRefill s.cur.core (s.cur.thr % 8) n.toNat))) s

/-- VPUSH (06 R143). -/
def execVpush (n : BitVec 3) (va : BitVec 5) (q : BitVec 3) (ty : ElemType) (s : State) : Host.Outcome State Fault Refusal :=
  runSlot 1 [rnv va, rnq q] [] (fun s =>
    let w := s.src.stream n
    if !w.bound || !w.writing then .trap 21 (unboundVal n w) else
    if !(w.hasRecord w.head) then .trap 22 (BitVec.ofNat 64 (n.toNat + 2 ^ 8)) else
    if 4 ≤ w.recs.length then .park .streamFull else
    .go (fun t => (t.modTh (fun th => th.setStream n (w.append (s.rv va) (elemMask (s.rq q) ty) th.epoch))).post
      (.streamDrain s.cur.core (s.cur.thr % 8) n.toNat))) s

/-- A prefetched record of a reading stream lies in a mask: its index counts from the first one kept, and it is prefetched from the head
on (10 R267). -/
def Thread.dropsRecord (th : Thread) (m : BitVec 16) (head : Nat) (w : Stream) (j : Nat) : Bool :=
  w.bound && !w.writing && decide (head ≤ w.first + j) && inMask m (th.tags [(recordAddr w.base w.shape (w.first + j), 128)])

/-- The prefetched records of a reading stream in a mask are dropped: each is fetched again in the next epoch (10 R267). -/
def Thread.dropRecords (th : Thread) (m : BitVec 16) (head : Nat) (w : Stream) : Stream :=
  { w with recs := (w.recs.zip (List.range w.recs.length)).map (fun x =>
      if th.dropsRecord m head w x.2 then { x.1 with data := 0, arrived := false, again := true, epoch := th.epoch + 1 } else x.1) }

/-- The records of a stream that a fence drops after they have arrived: each is asked for anew. -/
def Thread.droppedCount (th : Thread) (m : BitVec 16) (head : Nat) (w : Stream) : Nat :=
  ((w.recs.zip (List.range w.recs.length)).filter (fun x => x.1.arrived && th.dropsRecord m head w x.2)).length

/-- FENCE (09 R244, R245; 10 R267): the epoch turns and the bundle retires; what it holds waits at the core. The heads of the streams
are those before the bundle: a record in flight that a VPOP in slot B takes is dropped and fetched again too (02 R36, R73). -/
def execFence (a b : BitVec 6) (m e : Bool) (kind : FenceKind) (s : State) : Host.Outcome State Fault Refusal :=
  runSlot 0 [rn a, rn b] [] (fun s =>
    let mask := s.rs b
    let sc := s.rs a
    if !(bits mask 16 48 == 0) then .trap 3 mask else
    if s.scopeBad (s.ctxOfCore s.cur.core) sc then .trap 33 sc else
    if (match s.src.fence with | some f => s.fenceWaits s.cur.core s.cur.thr f | none => false) then .park .fenceBusy else
    .go (fun t =>
      let fm : BitVec 16 := mask.setWidth 16
      let mops := if m then (s.was.mq.filter (fun o => o.thr == s.cur.thr % 8)).map (fun o => o.seq.toNat) else []
      let drop := e && !(decide (kind = FenceKind.rel))
      let again := (List.range 8).flatMap (fun n =>
        List.replicate (t.th.droppedCount fm (s.src.stream (BitVec.ofNat 3 n)).head (t.th.stream (BitVec.ofNat 3 n))) (Instr.streamRecordArrival s.cur.core (s.cur.thr % 8) n))
      let t := t.modTh (fun th => { th with
        fence := some { kind := kind, e := e, m := m, mask := fm, scope := sc, epoch := th.epoch, mops := mops },
        epoch := th.epoch + 1,
        streams := if drop then Vector.zipWith (fun w v => th.dropRecords fm w.head v) s.src.streams th.streams else th.streams })
      if drop then t.postAll again else t)) s

end Sys2Proof.Machine
end

