-- ==== Sys2Proof/Machine/Frames.lean ====
section
/-! DEFINITION. Frames, join lines, continuations, the deque and the frame pool (11 R286 to R292, R296). -/

namespace Sys2Proof.Machine

/-- The rank of a core in a launch rectangle (11 R285, 12 R334). -/
def rankIn (r : BitVec 32) (k : Nat) : Nat :=
  (coreY k - r.toNat / 2 ^ 8 % 256) * (r.toNat / 2 ^ 16 % 256 + 1 - r.toNat % 256) + (coreX k - r.toNat % 256)

/-- Cores of a rectangle. -/
def rectCount (r : BitVec 32) : Nat :=
  (r.toNat / 2 ^ 24 % 256 + 1 - r.toNat / 2 ^ 8 % 256) * (r.toNat / 2 ^ 16 % 256 + 1 - r.toNat % 256)

/-- Frame f of a core (11 R286). -/
def Launch.frame (l : Launch) (k f : Nat) : Word := l.pb + BitVec.ofNat 64 ((rankIn l.rect k * l.nf + f) * 4096)

/-- The stack top of frame f of a core (11 R286). -/
def Launch.stackTop (l : Launch) (k f : Nat) : Word :=
  l.sb + BitVec.ofNat 64 ((rankIn l.rect k * l.nf + f + 1) * 2 ^ l.stkl)

/-- The core and number of a frame of a launch (11 R286). -/
def Launch.frameOwner (l : Launch) (fr : Word) : Nat × Nat :=
  let n := (fr.toNat - l.pb.toNat) / 4096
  let w := l.rect.toNat / 2 ^ 16 % 256 + 1 - l.rect.toNat % 256
  let j := n / max 1 l.nf
  ((l.rect.toNat / 2 ^ 8 % 256 + j / max 1 w) * 128 + (l.rect.toNat % 256 + j % max 1 w), n % max 1 l.nf)

/-- The logical core index of deterministic mode (12 R334); the panel is the context's lowest one present here. -/
def State.logical (s : State) (l : Launch) (k : Nat) : Nat :=
  match s.ctx? l.ctx with
  | some c => (c.panels.filter (fun p => decide (p < s.panel.toNat))).length * rectCount l.rect + rankIn l.rect k
  | none => rankIn l.rect k

/-- Where a frame lies, for the panel's own accesses, which have supervisor rights (11 R288; log 4): none on a fault or an
uncorrectable datum. -/
def State.frameAt (s : State) (k : Nat) (fr : Word) : Option Nat :=
  match s.place k .supervisor .load fr, s.place k .supervisor .store fr with
  | .ok p, .ok _ =>
    if (List.range 22).any (fun j => s.isPoisoned (p + 32 * j)) then none else some p
  | _, _ => none

/-- A frame access that faults is reported once, and the operation waits (11 R288). -/
def State.frameFault (s : State) (k t : Nat) (fr : Word) : State :=
  if (s.thread k t).frameBad = some fr then s
  else (s.modThread k t (fun th => { th with frameBad := some fr })).report k 55 fr

/-- A frame access that takes place again. -/
def State.frameGood (s : State) (k t : Nat) : State := s.modThread k t (fun th => { th with frameBad := none })

/-- The line of a frame access passes through its home. -/
def State.frameTouch (s : State) (k : Nat) (fr : Word) (p : Nat) : State := (s.cacheFor k fr).viaL1 k .atomic fr p

/-- COUNT of a join line (11 R288). -/
def State.joinCount (s : State) (p : Nat) : Nat := s.rd (p + 0x200) 4

/-- SUSP of a join line. -/
def State.joinSusp (s : State) (p : Nat) : Bool := bit (s.rdw (p + 0x200)) 32

/-- TERM of a join line. -/
def State.joinTerm (s : State) (p : Nat) : Bool := bit (s.rdw (p + 0x200)) 33

/-- A join line written. -/
def State.setJoin (s : State) (p count : Nat) (susp term : Bool) : State :=
  s.wrWake (p + 0x200) 8 (count % 2 ^ 32 + (if susp then 2 ^ 32 else 0) + if term then 2 ^ 33 else 0)

/-- COUNT changed by one indivisible step (11 R289), a field of 32 bits that wraps. A child that was yielded ends by a decrement, which
may come before the increment of the steal that takes its parent's continuation (11 R296, R298). -/
def State.joinAdd (s : State) (p : Nat) (up : Bool) : State :=
  let n := s.joinCount p
  s.setJoin p (if up then n + 1 else n + (2 ^ 32 - 1)) (s.joinSusp p) (s.joinTerm p)

/-- EXCI of a join line; all ones is empty. -/
def State.exci (s : State) (p : Nat) : Word := s.rdw (p + 0x208)

/-- The held exception value, or 0 (11 R297). -/
def State.excValue (s : State) (p : Nat) : Word := if s.exci p = BitVec.allOnes 64 then 0 else s.rdw (p + 0x210)

/-- The exception slot emptied. -/
def State.clearExc (s : State) (p : Nat) : State := s.wrWake (p + 0x208) 8 (2 ^ 64 - 1)

/-- A join line as before a frame is taken (11 R291). -/
def State.initJoin (s : State) (p : Nat) : State := (s.setJoin p 0 false false).clearExc p

/-- The words of a list written one after another. -/
def State.wrWords (s : State) (a : Nat) (l : List Word) : State :=
  (l.zip (List.range l.length)).foldl (fun s x => s.wr (a + 8 * x.2) 8 x.1.toNat) s

/-- The two words of a range slot in a record: base and limit, or a descriptor's address with bit 63 set (11 R288). -/
def RangeSlot.words (r : RangeSlot) : List Word :=
  if !r.used then [0, 0] else
  match r.desc with
  | some a => [a ||| 0x8000000000000000, 0]
  | none => [r.base, r.limit]

/-- A continuation written into its frame with its link (11 R288). -/
def State.writeCont (s : State) (p : Nat) (c : Cont) (link : Word) : State :=
  let flags := (if c.task.pin then 1 else 0) + (match c.sync with | some d => 2 + d.toNat * 4 | none => 0) + c.task.kind % 4 * 2 ^ 8
  let s := s.wrWords p [c.pc, c.sp, c.fp, c.fpm, c.wto, c.task.parent]
  let s := s.wr (p + 0x30) 4 c.task.sidx.toNat
  let s := s.wr (p + 0x34) 4 c.task.nspawn.toNat
  let s := s.wr (p + 0x38) 4 c.task.tiles.toNat
  let s := s.wr (p + 0x3C) 4 flags
  let s := s.wrWords (p + 0x40) [link, c.task.pubmask.setWidth 64, c.pushT.setWidth 64]
  let s := s.wrWords (p + 0x80) (c.saved ++ List.replicate (16 - c.saved.length) 0)
  let s := (List.range 16).foldl (fun s i =>
    s.wrWords (p + 0x100 + 16 * i) (match c.ranges.find? (fun r => r.1 == i) with | some r => r.2.words | none => [0, 0])) s
  let s := if c.fresh then s.wrWords (p + 0x280) (c.args ++ List.replicate (8 - c.args.length) 0) else s
  [0, 0x80, 0x100, 0x180, 0x280].foldl (fun s o => s.wakeWatchers (p + o)) s

/-- A range slot read from a record: a descriptor slot covers its tensor's footprint (11 R288, 14 R395). -/
def State.readRange (s : State) (k a : Nat) : RangeSlot :=
  let b := s.rdw a
  let l := s.rdw (a + 8)
  if bit b 63 then
    let d : Word := b &&& 0x7FFFFFFFFFFFFFFF
    { used := true, desc := some d, base := 0, limit := 0,
      cover := (match s.engBytes k 0 .user d d 64 with
        | .ok (_, x) => (Desc.ofWords ((List.range 8).map (fun i => BitVec.ofNat 64 (x / 2 ^ (64 * i))))).footprint
        | .error _ => []) }
  else if b = 0 && l = 0 then RangeSlot.empty
  else { used := true, desc := none, base := b, limit := l, cover := [(b, l.toNat - b.toNat)] }

/-- A program counter: its bits [2:0] are always zero (02 R30; DEDUCED, log 24). -/
def alignPc (x : Word) : Word := x &&& 0xFFFFFFFFFFFFFFF8

/-- A continuation read from its frame; what no field holds stays as it was (11 R288). The frame is memory of the program, which may have
written its bytes: FPM's reserved bits still read 0 (00 R7; 02 R54; DEDUCED, log 24). -/
def State.readCont (s : State) (k p : Nat) (c : Cont) : Cont :=
  let f := s.rdw (p + 0x38)
  let flags := bits f 32 32
  { c with
    pc := alignPc (s.rdw p), sp := s.rdw (p + 8), fp := s.rdw (p + 0x10), fpm := s.rdw (p + 0x18) &&& 0x1FF, wto := s.rdw (p + 0x20),
    saved := (List.range 16).map (fun i => s.rdw (p + 0x80 + 8 * i)),
    ranges := ((List.range 16).map (fun i => (i, s.readRange k (p + 0x100 + 16 * i)))).filter (fun r => r.2.used),
    args := if c.fresh then (List.range 8).map (fun i => s.rdw (p + 0x280 + 8 * i)) else c.args,
    pushT := BitVec.ofNat 48 (s.rdw (p + 0x50)).toNat,
    sync := if flags / 2 % 2 = 1 then some (BitVec.ofNat 6 (flags / 4)) else none,
    task := { c.task with
      parent := s.rdw (p + 0x28), sidx := BitVec.ofNat 32 (s.rd (p + 0x30) 4), nspawn := BitVec.ofNat 32 (s.rd (p + 0x34) 4),
      kind := flags / 2 ^ 8 % 4, pubmask := BitVec.ofNat 16 (s.rd (p + 0x48) 8), tiles := BitVec.ofNat 32 (bits f 0 32),
      pin := flags % 2 == 1 } }

/-- The slots of a mask. -/
def maskSlots (m : BitVec 16) : List Nat := (List.range 16).filter (fun i => m.getLsbD i)

/-- The continuation of the issuing thread's task at a bundle (11 R288, R294, R295): sp, fp, s16 to s31, FPM, WTO, the
publication and its slots' ranges. -/
def State.capture (s : State) (pc : Word) (task : Task) : Cont :=
  let th := s.src
  { task := task, pc := pc, sp := th.readS 62, fp := th.readS 61, fpm := th.fpm, wto := th.wto,
    saved := (List.range 16).map (fun i => th.readS (BitVec.ofNat 6 (16 + i))),
    ranges := ((maskSlots task.pubmask).filter (fun i => 1 ≤ i)).map (fun i => (i, th.range (BitVec.ofNat 4 i))),
    args := [], pushT := s.time.setWidth 48, sync := none, core := s.cur.core, thr := s.cur.thr % 8,
    spawn := th.spawns, fresh := false, child := false, rel := task.pubmask }

/-- Whether a thread has an access that keeps a release from completing: one issued by its `spawn`th spawn and tagged with a
slot of the publication; slot 0 publishes every address (11 R294, R295; log 9). -/
def State.releaseWaits (s : State) (k t : Nat) (m : BitVec 16) (spawn : Nat) : Bool :=
  let th := s.thread k t
  let hit := fun (n : Nat) (slots : List Nat) => decide (n ≤ spawn) && (m.getLsbD 0 || inMask m slots)
  !(m == 0) &&
    (th.acc.any (fun e => hit e.spawn e.slots) || (match th.latch with | some l => hit l.spawn l.slots | none => false) ||
      (s.core k).copies.any (fun c => c.thr == t % 8 && hit c.spawn c.slots))

/-- Entries of a deque that stand at the core (11 R290). -/
def Core.dequeHeld (c : Core) : Nat := (c.deque.filter (fun e => !e.spilled)).length

/-- The oldest entry at the core spilled into its frame and chained behind the spilled ones (11 R290): none when there is none,
the frame that cannot be accessed, or the state. -/
def State.spillOne (s : State) (k : Nat) : Option (Except Word State) :=
  let c := s.core k
  (c.deque.find? (fun e => !e.spilled)).map (fun e =>
    let done := fun (s : State) =>
      let mark := fun (x : DqEntry) => if x = e then { x with spilled := true } else x
      s.modCore k (fun c => { c with deque := c.deque.map mark, spillBad := none })
    match s.frameAt k e.cont.task.frame with
    | none => .error e.cont.task.frame
    | some p =>
      match (c.deque.filter (fun e => e.spilled)).getLast? with
      | none => .ok (done (s.writeCont p e.cont 0))
      | some x =>
        match s.frameAt k x.cont.task.frame with
        | none => .error x.cont.task.frame
        | some q => .ok (done ((s.writeCont p e.cont 0).wrWake (q + 0x40) 8 e.cont.task.frame.toNat)))

/-- The deque spills while it holds more than `bound` entries (11 R290); a spill that meets a fault of a frame is reported once and
waits until the frame is repaired (11 R288). -/
def spillTo (bound k : Nat) : Nat → State → State
  | 0, s => s
  | n + 1, s =>
    if (s.core k).dequeHeld ≤ bound then s else
    match s.spillOne k with
    | some (.ok t) => spillTo bound k n t
    | some (.error fr) =>
      if (s.core k).spillBad = some fr then s
      else (s.modCore k (fun c => { c with spillBad := some fr })).report k 55 fr
    | none => s

/-- The order of a push: in deterministic mode by quantum, logical core, thread and the thread's push count (12 R337). -/
def State.pushOrder (s : State) (k t : Nat) : Nat × Nat × Nat × Nat :=
  match s.launch? (s.thread k t).task.launch with
  | some l => (s.quantumAt k, s.logical l k, t % 8, (s.thread k t).spawns)
  | none => (s.quantumAt k, 0, t % 8, (s.thread k t).spawns)

/-- A continuation pushed at the tail of the core's deque (11 R290). -/
def State.pushDeque (s : State) (k t : Nat) (c : Cont) : State :=
  let e : DqEntry := { cont := c, spilled := false, claimed := none, claimT := 0, logged := false, order := s.pushOrder k t }
  spillTo 48 k 64 (s.modCore k (fun x => { x with deque := x.deque ++ [e] }))

/-- An entry as it will resume: one that stands in its frame, spilled, yielded or suspended, is read back from there (11 R288, R290);
none on a fault. -/
def State.entryCont (s : State) (k : Nat) (e : DqEntry) : Option Cont :=
  if !e.spilled && e.cont.child then some e.cont else (s.frameAt k e.cont.task.frame).map (fun p => s.readCont k p e.cont)

/-- An entry leaves a deque; the link of the spilled entry before it passes it by (11 R290), or that entry's frame cannot be
accessed. -/
def State.removeEntry (s : State) (k : Nat) (e : DqEntry) : Except Word State :=
  let l := (s.core k).deque
  let t := s.modCore k (fun c => { c with deque := c.deque.filter (fun x => !(decide (x.cont = e.cont))) })
  let before := ((l.takeWhile (fun x => !(decide (x.cont = e.cont)))).filter (fun x => x.spilled)).getLast?
  let after := (((l.dropWhile (fun x => !(decide (x.cont = e.cont)))).drop 1).find? (fun x => x.spilled)).map (fun x => x.cont.task.frame)
  match if e.spilled then before else none with
  | none => .ok t
  | some x =>
    match s.frameAt k x.cont.task.frame with
    | none => .error x.cont.task.frame
    | some q => .ok (t.wrWake (q + 0x40) 8 (after.getD 0).toNat)

/-- A frame taken from the free pool of a core for a launch (11 R291). -/
def Core.takeFrame (c : Core) (launch : Nat) : Option (Nat × Core) :=
  (c.pool.find? (fun f => f.1 == launch)).map (fun f => (f.2, { c with pool := c.pool.erase f }))

/-- What preceded the joins and continuations of a frame ends with the task that owned it (12 R340). -/
def Ctx.forgetFrame (c : Ctx) (fr : Word) : Ctx :=
  { c with clocks := AMap.set (AMap.set c.clocks (frameObj fr) []) (contObj fr) [] }

/-- A frame returned to the pool of the core that owns it, its join line reset (11 R291). -/
def State.returnFrame (s : State) (launch : Nat) (fr : Word) (p : Nat) : State :=
  match s.launch? launch with
  | none => s
  | some l =>
    let o := l.frameOwner fr
    ((s.initJoin p).modCore o.1 (fun c => { c with pool := (launch, o.2) :: c.pool })).modCtx l.ctx (fun c =>
      if c.det then c.forgetFrame fr else c)

/-- The registers that retired VPOPs of a thread still wait for (06 R142). -/
def Thread.popTargets (th : Thread) : List RegName := th.streams.toList.flatMap (fun w => w.pops.map (fun p => RegName.v p.vd))

/-- The registers of a task that starts or resumes: every register 0 and q0 all ones, streams unbound, no range slot, no
publication, XH 0 (11 R292). A retired VPOP's wait ends with its stream, and its destination is 0 like every other one (06 R142; 11 R292;
DEDUCED, log 25). -/
def Thread.fresh (th : Thread) : Thread :=
  let th := th.unmark .user th.popTargets
  let keep := fun (i : Nat) (x : Word) => if 60 ≤ i && !(decide (th.mode = Mode.user)) then x else 0
  { th with
    s := Vector.ofFn (fun i => keep i.val (th.s[i.val]'i.isLt)), v := Vector.replicate 32 0,
    q := (Vector.replicate 8 0).set 0 (BitVec.allOnes 128), xh := 0, fpm := 0, wto := 0,
    drains := th.drains ++ ((List.range 8).flatMap (fun i =>
      drainJob (BitVec.ofNat 3 i) (th.stream (BitVec.ofNat 3 i)) { wsem := 0, wthr := 0, ssem := 0, sinc := 0 })),
    streams := Vector.replicate 8 Stream.unbound, ranges := Vector.replicate 16 RangeSlot.empty }

/-- A continuation resumed in the resumption state (11 R292). -/
def Thread.resume (th : Thread) (c : Cont) : Thread :=
  let th := th.fresh
  let th := (c.saved.zip (List.range 16)).foldl (fun th x => th.writeS (BitVec.ofNat 6 (16 + x.2)) x.1) th
  let th := (th.writeS 62 c.sp).writeS 61 c.fp
  let th := c.ranges.foldl (fun th r => th.setRange (BitVec.ofNat 4 r.1) r.2) th
  { th with pc := alignPc c.pc, fpm := c.fpm, wto := c.wto, task := c.task, st := .running, park := .none, grant := none,
            grantB := false, steal := none }

/-- A task from a ready queue, a ticket or a donation started: the new frame's stack, and its arguments (11 R292). -/
def Thread.startTask (th : Thread) (c : Cont) : Thread :=
  let th := th.fresh
  let th := (c.args.zip (List.range 8)).foldl (fun th x => th.writeS (BitVec.ofNat 6 (1 + x.2)) x.1) th
  let th := (th.writeS 62 c.sp).writeS 61 c.fp
  { th with pc := alignPc c.pc, task := c.task, st := .running, park := .none, grant := none, grantB := false, steal := none }

/-- An accepted MMAS of a thread has not completed: a task that the thread would enter unbinds its streams, as SUNBIND does, and so
waits (10 R268; 11 R292). -/
def Core.mmasAny (c : Core) (t : Nat) : Bool := c.mq.any (fun o => o.thr == t % 8 && (matStream o.instr).isSome)

/-- The thread goes idle and asks for work (11 R282, R301). -/
def State.goIdle (s : State) (k t : Nat) : State :=
  (s.modThread k t (fun th => { th with st := .idle, park := .none, grant := none, grantB := false, steal := none })).postOnce
    (.stealSearch k (t % 8))

/-- Streams of a thread that a new task has unbound go on draining (10 R268, 11 R292). -/
def State.drainOn (s : State) (k t : Nat) : State :=
  (s.thread k t).drains.foldl (fun s j => s.postOnce (.streamDrain k (t % 8) j.n)) s

end Sys2Proof.Machine
end

