-- ==== Sys2Proof/Machine/Stops.lean ====
section
/-! DEFINITION. Stop bits and the gang-stop sequence (14 R384, R387, R388). -/

namespace Sys2Proof.Machine

/-- A stop bit stands on a thread (14 R384). -/
def Thread.anyStop (th : Thread) : Bool := th.stopS || th.stopF || th.stopD

/-- Every core changed. -/
def State.mapCores (s : State) (f : Core → Core) : State := { s with cores := s.cores.map (fun c => (c.1, f c.2)) }

/-- A thread without its full/empty requests. -/
def Thread.noFe (th : Thread) : Thread := { th with acc := th.acc.filter (fun e => !(decide (e.form = AccForm.fe))) }

/-- A thread without its reads of whole words. -/
def Thread.noRead (th : Thread) : Thread := { th with acc := th.acc.filter (fun e => !(decide (e.form = AccForm.read))) }

/-- A thread that waits for nothing. -/
def Thread.unparked (th : Thread) : Thread := { th with park := .none, grant := none, grantB := false, call := [], parkT := 0 }

/-- What a parked thread asked for, taken back from where it stands. -/
def State.takeBack (s : State) (k t : Nat) (w : Wait) : State :=
  match w with
  | .sem _ => s.modCore k (fun c => { c with semWait := c.semWait.filter (fun x => !(x.1 == t % 8)) })
  | .inbox => s.modCore k (fun c => { c with boxWait := c.boxWait.filter (fun x => !(x == t % 8)) })
  | .barrier | .barrierTimed =>
    s.modLaunch (s.thread k t).task.launch (fun l => { l with groups := l.groups.map (fun g =>
      { g with arrived := g.arrived.filter (fun x => !(x == (k, t % 8))) }) })
  | .watch _ =>
    (s.modCluster (clusterOfCore k) (fun c => { c with watch := c.watch.filter (fun x => !(x == (k, t % 8))) })).modThread k t
      Thread.noRead
  | .feWord _ | .channel _ =>
    (s.mapCores (fun c => { c with felist := c.felist.filter (fun x => !(x.1 == k && x.2.1 == t % 8)) })).modThread k t Thread.noFe
  | .drain => s.modCore k (fun c => { c with drnList := c.drnList.filter (fun x => !(x == t % 8)) })
  | .gang => s.modCore k (fun c => c.dropArrival t)
  | .descriptor | .donation => s.modThread k t Thread.noRead
  | _ => s

/-- A wait of a parked bundle withdrawn: the bundle has not retired and issues again on resumption (14 R387 step 1; 09 R233,
11 R313, R318). -/
def State.withdraw (s : State) (k t : Nat) : State := (s.takeBack k t (s.thread k t).park).modThread k t Thread.unparked

/-- A stolen item that has not resumed goes back where it stood (12 R330; 14 R387). -/
def State.abandonSteal (s : State) (k t : Nat) : State :=
  match (s.thread k t).steal with
  | none => s
  | some e =>
    let me : Option (Nat × Nat) := some (k, t % 8)
    if e.claimed = none then s else
    let s := s.modThread k t (fun th => { th with steal := none })
    if e.cont.fresh then s.modCDie e.order.1 (fun d => { d with ready := e.cont :: d.ready })
    else
      let free : DqEntry → DqEntry := fun x => if x.claimed = me then { x with claimed := none } else x
      s.mapCores (fun c => { c with deque := c.deque.map free })

/-- The inbox a plain message is for. -/
def AccEntry.plainTo? (e : AccEntry) : Option Nat :=
  match e.form with
  | .msg k _ false => some k
  | _ => none

/-- An earlier plain message of the thread to the same inbox is not placed, so that this one waits behind it (09 R242). -/
def Thread.msgBehind (th : Thread) (e : AccEntry) : Bool :=
  e.plainTo?.isSome && th.acc.any (fun x => decide (x.ord < e.ord) && x.plainTo? == e.plainTo?)

/-- An ordered operation that is not injected stays at the core behind an earlier one of its thread that is held, or that is a
reduction the halted engine does not start (10 R275). -/
def State.orderedKept (s : State) (k t ord : Nat) : Bool :=
  let th := s.thread k t
  th.acc.any (fun e => decide (e.ord < ord) && e.form.isOrdered && e.held.isSome) ||
    (match th.latch with | some l => decide (l.ord < ord) && s.latchOrdered k l && l.cause.isSome | none => false) ||
    (s.core k).copies.any (fun c => c.thr == t % 8 && decide (c.ord < ord) && c.asOrd && c.key.isNone && c.state != 1)

/-- An access of a stopped thread is settled: held, a refused message or one behind it, or unsent behind a fence, a held line or an
earlier ordered operation (09 R227; 10 R275; 14 R387, R395). -/
def State.entrySettled (s : State) (k t : Nat) (e : AccEntry) : Bool :=
  e.held.isSome || (e.plainTo?.isSome && (e.arrived || (s.thread k t).msgBehind e)) ||
    (e.key.isNone && (s.mustWait k t e.ord e.epoch e.slots e.isStore e.cover || (e.form.isOrdered && s.orderedKept k t e.ord)))

/-- The accesses of a thread are settled (14 R387 step 2). -/
def State.accessesSettled (s : State) (k t : Nat) : Bool :=
  let th := s.thread k t
  th.acc.all (fun e => s.entrySettled k t e) &&
    (match th.latch with
     | some l => l.cause.isSome || (l.answer.isNone && l.key.isNone &&
         (s.mustWait k t l.ord l.epoch l.slots true l.cover || (s.latchOrdered k l && s.orderedKept k t l.ord)))
     | none => true)

/-- A retired VPOP of the stream waits for a record that is on its way: asked for, not yet arrived, and kept back neither by a fault
nor by a fence (06 R142, R144; 10 R267). -/
def Stream.popComing (w : Stream) : Bool :=
  !w.stopped && w.pops.any (fun p => match w.record? p.record with
    | some r => !r.arrived && !r.again
    | none => false)

/-- Writing streams of a thread are drained, and no record that a retired VPOP waits for is on its way; what a fault has stopped
stays (14 R387 step 3). -/
def Thread.streamsSettled (th : Thread) : Bool :=
  th.drains.all (fun j => j.recs.isEmpty || j.stopped) &&
    th.streams.toList.all (fun w => !w.popComing && (w.stopped || !w.writing || w.recs.isEmpty))

/-- A bundle's wait that completes before a stop: a pending register whose value is on its way, an SFR result, firmware's answer, a
full/empty form that has been performed (14 R387 step 1). -/
def State.mustFinish (s : State) (k t : Nat) : Bool :=
  let th := s.thread k t
  !th.sfr.isEmpty || (match th.steal with | some e => e.claimed.isNone | none => false) || th.grant.isSome || th.grantB ||
    (match th.park with
     | .firmware | .sfrResult => true
     | .pendingReg => !th.pend.isEmpty && th.held.isNone && (!(s.accessesSettled k t) || th.streams.toList.any Stream.popComing)
     | _ => false)

/-- A stop of a context in deterministic mode takes effect at a quantum boundary (14 R388). -/
def State.mayStop (s : State) (k : Nat) (th : Thread) : Bool :=
  s.stopNow k || th.stopD || th.isSup

/-- THREAD_STOP: a marked thread stops at its boundary, its waits withdrawn (14 R379, R387 step 1). -/
def execThreadStop (core thr : Nat) (s : State) : Host.Outcome State Fault Refusal :=
  let th := s.thread core thr
  if !th.anyStop || th.stopped then happened s else
  if !(s.mayStop core th) || s.mustFinish core thr then notYet s else
  let s := s.withdraw core thr
  let s := match th.st with
    | .idle => s.abandonSteal core thr
    | _ => s
  happened (s.modThread core thr (fun th => { th with stopped := true }))

/-- Ordered packets for a core that its stop must deliver first. -/
def State.pktsFor (s : State) (k : Nat) : List OrdPkt :=
  s.ordered.filter (fun p => decide (p.target = .bank k) || decide (p.target = .inbox k))

/-- An access of another core was under way to a core's scratchpad or inbox when a stop of that core began: sent, not performed, and
not waiting on a full/empty bit there (14 R387 step 4). -/
def State.inFlightTo (s : State) (k began : Nat) : Bool :=
  let toIt := fun (j : Nat) (l : List (Word × Nat)) => l.any (fun x => match s.scratchOf j x.1 with
    | some (p, n, _) => s.ownPanel p && n == k
    | none => false)
  s.cores.any (fun c => !(c.1 == k) && (List.range 8).any (fun t =>
    let th := c.2.thread t
    th.acc.any (fun e => e.held.isNone && decide (e.since ≤ began) &&
      ((e.plainTo? == some k && !e.arrived && !(th.msgBehind e)) ||
        (e.key.isNone && decide (e.done < e.pieces.length) && toIt c.1 e.cover &&
          !((s.core k).felist.any (fun x => x.1 == c.1 && x.2.1 == t)))) &&
      !(s.mustWait c.1 t e.ord e.epoch e.slots e.isStore e.cover)) ||
    (match th.latch with
     | some l => l.cause.isNone && l.answer.isNone && l.key.isNone && decide (l.since ≤ began) && toIt c.1 l.cover &&
         !(s.mustWait c.1 t l.ord l.epoch l.slots true l.cover)
     | none => false)))

/-- Every step of a stop over a core is done but for the marks themselves (14 R387): the threads, their accesses and streams, both
engines, with a reduction's packets applied (10 R273; 20 R456), and what was under way to the core. -/
def State.coreQuiet (s : State) (k : Nat) : Bool :=
  let c := s.core k
  let ts := (List.range 8).filter (fun t => (c.thread t).anyStop)
  ts.all (fun t => (c.thread t).stopped && s.accessesSettled k t && (c.thread t).streamsSettled) &&
    !(c.copies.any (fun x => x.ordered && x.state == 1 && x.key.isNone)) && !(s.ordered.any (fun p => p.core == k && p.what == 2)) &&
    !c.runGroup && (s.pktsFor k).isEmpty && !(c.stops.any (fun x => s.inFlightTo k x.began))

/-- The core supervisor hears of a stop that completes, since it came from elsewhere (14 R385). -/
def Stop.tells (x : Stop) (k : Nat) : Bool := x.sup && !(x.byCore == some k)

/-- A stop may complete: nothing hears of it, or the report has a place (14 R376, R385). -/
def State.mayComplete (s : State) (k : Nat) (x : Stop) : Bool :=
  !x.complete && (!(x.tells k) || s.released k || decide ((s.core k).reports.length < 64))

/-- GANG_STOP_COMPLETE: a core's stop is complete; its supervisor, if the stop left it running and came from elsewhere, gets
GANG_STOP (14 R385, R387). Each stop in progress on the core completes so. -/
def execGangStopComplete (core : Nat) (s : State) : Host.Outcome State Fault Refusal :=
  if (s.core core).stops.all (fun x => x.complete) then happened s else
  if !(s.coreQuiet core) then notYet s else
  match (s.core core).stops.find? (s.mayComplete core) with
  | none => notYet s
  | some x =>
    let mark := fun (y : Stop) => if y = x then { y with complete := true } else y
    let s := s.modCore core (fun c => { c with stops := c.stops.map mark })
    let s := if x.tells core then s.report core 58 x.scope else s
    happened (if (s.core core).stops.all (fun x => x.complete) then s else s.postOnce (.gangStopComplete core))

/-- The threads of a core that a stop names: for a supervisor's stop every thread but the core supervisor, for firmware's
every thread; never the issuing one (14 R385). -/
def State.stopSet (s : State) (sup : Bool) (k : Nat) (but : Option (Nat × Nat)) : List Nat :=
  (List.range 8).filter (fun t => !(sup && (s.thread k t).isSup) && !(but == some (k, t)))

/-- A stop takes effect on a core: a K-group that runs is completed first (07 R184). -/
def State.catchGroup (s : State) (k : Nat) : State :=
  s.modCore k (fun c => { c with
    runGroup := c.runGroup || (match c.headOp? with | some o => o.started && s.opReady k o | none => false) })

/-- Stop bits set over cores, with a stop in progress on each (14 R384, R385). -/
def State.gangStop (s : State) (cores : List Nat) (sup : Bool) (scope : Word) (byCore : Option Nat) (but : Option (Nat × Nat)) :
    State :=
  cores.foldl (fun s k =>
    let s := (s.stopSet sup k but).foldl (fun s t =>
      (s.modThread k t (fun th => if sup then { th with stopS := true } else { th with stopF := true })).postOnce (.threadStop k t)) s
    let s := if s.stopNow k then s.catchGroup k else s
    (s.modCore k (fun c => { c with
      stops := c.stops ++ [{ scope := scope, byCore := byCore, sup := sup, began := s.clock, complete := false }] })).postOnce
      (.gangStopComplete k)) s

/-- The cores of a context that have any state. -/
def State.coresOf (s : State) (id : Nat) : List Nat := s.touched.filter (fun k => (s.core k).owner == id)

/-- The cores a stop reaches: a context in deterministic mode is stopped whole (14 R388). -/
def State.widen (s : State) (cores : List Nat) : List Nat :=
  (cores ++ cores.flatMap (fun k => match s.ctxOfCore k with
    | some c => if c.det then s.coresOf c.id else []
    | none => [])).eraseDups

/-- The whole of a context is gang-stopped by the panel itself (12 R344, R346). -/
def State.stopContext (s : State) (id : Nat) : State := s.gangStop (s.coresOf id) true podScope none none

/-- A stop over cores is complete. -/
def State.stopDone (s : State) (cores : List Nat) : Bool := cores.all (fun k => (s.core k).stops.all (fun x => x.complete))

/-- A thread whose stop bits are all clear runs again from the state it stopped in (14 R384). -/
def State.unstop (s : State) (k t : Nat) : State :=
  let th := s.thread k t
  if th.anyStop || !th.stopped then s else
  let s := s.modThread k t (fun th => { th with stopped := false })
  match th.st with
  | .idle => s.postOnce (.stealSearch k (t % 8))
  | _ => s

/-- The issuer's bits cleared over cores (14 R386). -/
def State.gangResume (s : State) (cores : List Nat) (sup : Bool) (but : Option (Nat × Nat)) : State :=
  cores.foldl (fun s k =>
    let s := (s.stopSet sup k but).foldl (fun s t =>
      (s.modThread k t (fun th => if sup then { th with stopS := false } else { th with stopF := false })).unstop k t) s
    (s.modCore k (fun c => { c with stops := c.stops.filter (fun x => !(x.sup == sup)) })).postAll
      [.copyCommandStart k, .matrixOpStart k]) s

end Sys2Proof.Machine
end

