-- ==== Sys2Proof/Machine/Replay.lean ====
section
/-! DEFINITION. Record and replay (12 R342 to R346): the log of a launch's decisions. -/

namespace Sys2Proof.Machine

/-- What the log says of a request: it may be served as it stands, it is forced to a value, or it waits. -/
inductive LogAnswer where
  | free
  | forced (w : Word)
  | wait (s : State)

/-- The log table entry of a core's die (12 R342). -/
def Launch.logTable (l : Launch) (k : Nat) : Word := l.rlog + BitVec.ofNat 64 (64 * dieOfCore k)

/-- Where a log address lies (log 4). -/
def State.logAt (s : State) (k : Nat) (a : Word) : Option Nat :=
  match s.place k .supervisor .load a, s.place k .supervisor .store a with
  | .ok p, .ok _ => some p
  | _, _ => none

/-- Word 0 of a log entry (12 R343). -/
def logWord (kind k t loop rseq : Nat) : Word :=
  BitVec.ofNat 64 (kind % 16 + t % 8 * 2 ^ 4 + loop % 8 * 2 ^ 7 + k % 2 ^ 14 * 2 ^ 10 + rseq * 2 ^ 24)

/-- A segment is exhausted: FULL is set, the context gang-stops, and the request waits (12 R344). -/
def State.logFull (s : State) (k id p : Nat) (table : Word) : State :=
  if bit (s.rdw (p + 24)) 0 then s else
  ((s.wr (p + 24) 8 ((s.rdw (p + 24)).toNat / 2 * 2 + 1)).stopContext id).report k 44 table

/-- A divergence: the request is written into DIV0 and DIV1, DIV is set and the context gang-stops (12 R346). -/
def State.diverge (s : State) (k id p : Nat) (w0 w1 at_ : Word) : State :=
  if bit (s.rdw (p + 24)) 1 then s else
  (((s.wr (p + 32) 8 w0.toNat).wr (p + 40) 8 w1.toNat).wr (p + 24) 8
    ((s.rdw (p + 24)).toNat % 2 + 2)).stopContext id |>.report k 43 at_

/-- The next log entry is that of a thread's request number (12 R345). -/
def logIsFor (w : Word) (k t rseq : Nat) : Bool := bits w 10 14 == k % 2 ^ 14 && bits w 4 3 == t % 8 && bits w 24 40 == rseq % 2 ^ 40

/-- A request looked up in its launch's log (12 R344 to R346). A table or segment that cannot be read keeps the request
waiting. -/
def State.logCheck (s : State) (k t kind loop : Nat) : LogAnswer :=
  let th := s.thread k t
  match s.launch? th.task.launch with
  | none => .free
  | some l =>
    if l.rmode = 0 then .free else
    match s.logAt k (l.logTable k) with
    | none => .wait s
    | some p =>
      let ptr := s.rdw (p + 16)
      if (s.rdw (p + 8)).toNat < ptr.toNat + 16 then .wait (s.logFull k l.ctx p (l.logTable k)) else
      match s.logAt k ptr with
      | none => .wait s
      | some q =>
        if l.rmode = 1 then .free else
        let w := s.rdw q
        if bits w 0 4 = 0 then .wait (s.diverge k l.ctx p (logWord kind k t loop th.rseq) 0 (l.logTable k)) else
        if !(logIsFor w k t th.rseq) then .wait s else
        if bits w 0 4 != kind || (kind == 3 && bits w 7 3 != loop) then
          .wait (s.diverge k l.ctx p (logWord kind k t loop th.rseq) 0 ptr)
        else .forced (s.rdw (q + 8))

/-- The segment of a launch's log at a core's die: where its table entry lies, its next address and its limit; none where the table
cannot be read. -/
def State.logSegment (s : State) (l : Launch) (k : Nat) : Option (Nat × Word × Word) :=
  (s.logAt k (l.logTable k)).map (fun p => (p, s.rdw (p + 16), s.rdw (p + 8)))

/-- The next entry of a segment: its address and its two words; none past the limit, at an empty entry, or where it cannot be read. -/
def State.logEntry (s : State) (k : Nat) (seg : Nat × Word × Word) : Option (Word × Word × Word) :=
  if seg.2.2.toNat < seg.2.1.toNat + 16 then none else
  (s.logAt k seg.2.1).bind (fun q => if bits (s.rdw q) 0 4 = 0 then none else some (seg.2.1, s.rdw q, s.rdw (q + 8)))

/-- The entries that a log holds from an address on: their addresses and words. -/
def State.entriesFrom (s : State) (k : Nat) : Nat → Word → List (Word × Word × Word)
  | 0, _ => []
  | n + 1, a =>
    match s.logAt k a with
    | none => []
    | some q => if bits (s.rdw q) 0 4 = 0 then [] else (a, s.rdw q, s.rdw (q + 8)) :: s.entriesFrom k n (a + 16)

/-- The entries of a segment that no request has been matched with yet (12 R345). -/
def State.logEntries (s : State) (k : Nat) (seg : Nat × Word × Word) : List (Word × Word × Word) :=
  s.entriesFrom k ((seg.2.2.toNat - seg.2.1.toNat) / 16) seg.2.1

/-- The times of the stamps that a replayed launch's log at the die of a core still holds for the threads that `f` picks (12 R345). -/
def State.stampsLeft (s : State) (l : Launch) (k : Nat) (f : Word → Bool) : List (BitVec 48) :=
  if l.rmode != 2 then [] else
  match s.logSegment l k with
  | none => []
  | some seg => ((s.logEntries k seg).filter (fun e => bits e.2.1 0 4 == 4 && f e.2.1)).map (fun e => e.2.2.setWidth 48)

/-- The cores that stand for the dies of a launch: each die has a log of its own (12 R342). -/
def Launch.logCores (l : Launch) : List Nat :=
  (rectCores l.rect).foldl (fun r k => if r.any (fun x => dieOfCore x == dieOfCore k) then r else r ++ [k]) []

/-- A replayed launch has an entry left in some die's log. -/
def State.logsLeft (s : State) (l : Launch) : Bool :=
  l.logCores.any (fun k => ((s.logSegment l k).bind (s.logEntry k)).isSome)

/-- The take of a frame from a deque that some die's log names and no request has been matched with: the die's table entry and the log
entry's address (12 R346). -/
def State.loggedTake (s : State) (l : Launch) (fr : Word) : Option (Nat × Word) :=
  if l.rmode != 2 then none else
  l.logCores.findSome? (fun k => (s.logSegment l k).bind (fun seg =>
    ((s.logEntries k seg).find? (fun e => bits e.2.1 0 4 == 1 && e.2.2 == fr)).map (fun e => (seg.1, e.1))))

/-- A request served: recorded, or its entry passed, and counted (12 R343). -/
def State.logServe (s : State) (k t kind loop : Nat) (w1 : Word) : State :=
  let th := s.thread k t
  match s.launch? th.task.launch with
  | none => s
  | some l =>
    if l.rmode = 0 then s else
    let s := s.modThread k t (fun th => { th with rseq := th.rseq + 1 })
    match s.logAt k (l.logTable k) with
    | none => s
    | some p =>
      let ptr := s.rdw (p + 16)
      let s := if l.rmode = 1 then
          (match s.logAt k ptr with
           | some q => (s.wr q 8 (logWord kind k t loop th.rseq).toNat).wr (q + 8) 8 w1.toNat
           | none => s)
        else s
      s.wr (p + 16) 8 (ptr.toNat + 16)

/-- The replay of a launch has entries left that no request has matched (12 R346): the die's core, and the address. -/
def State.logLeft (s : State) (l : Launch) : Option (Nat × Word) :=
  if l.rmode != 2 then none else
  ((rectCores l.rect).find? (fun k => match (s.logAt k (l.logTable k)).bind (fun p => (s.logAt k (s.rdw (p + 16))).map (fun q => (p, q))) with
    | some (p, q) => decide ((s.rdw (p + 16)).toNat + 16 ≤ (s.rdw (p + 8)).toNat) && !(bits (s.rdw q) 0 4 == 0)
    | none => false)).map (fun k => (k, match s.logAt k (l.logTable k) with
      | some p => s.rdw (p + 16)
      | none => l.logTable k))

end Sys2Proof.Machine
end

