-- ==== Sys2Proof/Machine/Sites.lean ====
section
/-! DEFINITION. The die sites, the site map and its copies in the routers, and the links between dies (01 R11 to R18, R25; 15 R413). -/

namespace Sys2Proof.Machine

/-- The site of a logical die under the default map: [3:0] column, [8:4] row (01 R16; 15 R413). -/
def defaultSite (d : Nat) : Nat := 2 * (d % 8) + d / 8 % 2 + d / 8 * 16

/-- The site of a logical die (01 R16, R17). -/
def State.siteOf (s : State) (d : Nat) : Nat := AMap.getD (defaultSite d) s.sites d

/-- The physical site number of a compute site (13 R372). -/
def siteNumber (x : Nat) : Nat := x / 16 * 8 + x % 16 / 2

/-- The column and the row of a site number (15 R413). -/
def siteCode (n : Nat) : Nat := 2 * (n % 8) + n / 8 % 2 + n / 8 * 16

/-- The site of a memory die (01 R13). -/
def memorySite (m : Nat) : Nat := 2 * (m % 8) + (m / 8 + 1) % 2 + m / 8 * 16

/-- The site number of a logical die. -/
def State.siteNo (s : State) (d : Nat) : Nat := siteNumber (s.siteOf d)

/-- The key of the compute die at a site number: the logical die mapped there, or 1000 on (01 R17; log 10). -/
def State.keyOfSite (s : State) (n : Nat) : Nat :=
  match (List.range 128).find? (fun d => s.siteNo d == n) with
  | some d => d
  | none => 1000 + n

/-- The state of the compute die at a physical site: that of the logical die mapped there, or its own (01 R17; log 10). -/
def State.dieAtSite (s : State) (n : Nat) : CDie := s.cdie (s.keyOfSite n)

/-- The site of a die. -/
def State.dieSite (s : State) : DieRef → Nat
  | .compute i => if i < 128 then s.siteOf i else siteCode (i - 1000)
  | .memory m => memorySite m

/-- The die at a site: a compute die where column and row have an even sum (01 R11). -/
def State.dieAt (s : State) (x : Nat) : DieRef :=
  if (x % 16 + x / 16) % 2 = 0 then .compute (s.keyOfSite (siteNumber x)) else .memory (siteNumber x)

/-- The orthogonal neighbour of a site on the panel: 0 north, 1 east, 2 south, 3 west (01 R12; 10 R279). North is the way to row 0, which
the spec does not say (DESIGN CHOICE, log 25). -/
def neighbourSite (x n : Nat) : Option Nat :=
  match n with
  | 0 => if x / 16 = 0 then none else some (x - 16)
  | 1 => if x % 16 = 15 then none else some (x + 1)
  | 2 => if 16 ≤ x / 16 then none else some (x + 16)
  | 3 => if x % 16 = 0 then none else some (x - 1)
  | _ => none

/-- The die at the other end of a die-to-die link: four in the interior, fewer at the border (01 R12). -/
def State.neighbour (s : State) (d : DieRef) (n : Nat) : Option DieRef := (neighbourSite (s.dieSite d) n).map s.dieAt

/-- The port of the neighbour at which a die-to-die link ends. -/
def facingPort (n : Nat) : Nat := (n + 2) % 4

/-- A router translates a logical die by its copy of the site map (01 R16). -/
def State.routerSite (s : State) (m d : Nat) : Nat := AMap.getD (defaultSite d) (s.mdie m).map d

/-- Every router holds the site map as it stands (01 R17; 15 R418 step 4, R421 step 6). -/
def State.loadRouters (s : State) : State :=
  (List.range 136).foldl (fun t m => if (t.mdie m).map = s.sites then t else t.modMDie m (fun d => { d with map := s.sites })) s

/-- The memory die through whose router the packets of a compute die leave: a neighbour of it (01 R12). -/
def State.routerOf (s : State) (src : Nat) : Nat :=
  ((List.range 4).findSome? (fun n => match s.neighbour (.compute src) n with
    | some (.memory m) => some m
    | _ => none)).getD 0

/-- The site that packets of a compute die for another die go to: logical dies are translated by a router (01 R16). -/
def State.targetSite (s : State) (src : Nat) : DieRef → Nat
  | .memory m => memorySite m
  | .compute i => if i = src then s.siteOf i else s.routerSite (s.routerOf src) i

/-- The receiving links that a packet passes from site to site, columns first (01 R12; the spec gives no route: log 11). -/
def State.linksTo (s : State) : Nat → Nat → Nat → List Link
  | 0, _, _ => []
  | n + 1, x, y =>
    let go := fun (p : Nat) =>
      match neighbourSite x p with
      | some z => Link.port (s.dieAt z) (facingPort p) :: s.linksTo n z y
      | none => []
    if x % 16 < y % 16 then go 1 else if y % 16 < x % 16 then go 3 else
    if x / 16 < y / 16 then go 2 else if y / 16 < x / 16 then go 0 else []

/-- The memory die of Derene link n (01 R25). -/
def dereneDie (n : Nat) : Nat := if n < 14 then 23 + 16 * (n / 2) else if n < 16 then 24 else 104

/-- The port of its die at which Derene link n stands (10 R279). -/
def derenePort (n : Nat) : Nat := 4 + n % 2

/-- Derene link n as a receiving link. -/
def dereneLink (n : Nat) : Link := .port (.memory (dereneDie n)) (derenePort n)

end Sys2Proof.Machine
end

