-- ==== Sys2Proof/Machine/Ordered.lean ====
section
/-! DEFINITION. The ordered class (10 R274 to R281): keys, injection, watermarks, cairns and application in key order; and
messages (09 R241 to R243). -/

namespace Sys2Proof.Machine

/-- A 48-bit time precedes another one (10 R274). -/
def timeBefore (a b : Nat) : Bool :=
  let d := (b + 2 ^ 48 - a % 2 ^ 48) % 2 ^ 48
  decide (1 ≤ d) && decide (d ≤ 2 ^ 47 - 1)

/-- The later of two times. -/
def laterTime (a b : BitVec 48) : BitVec 48 := if timeBefore a.toNat b.toNat then b else a

/-- The earlier of two times. -/
def earlierTime (a b : BitVec 48) : BitVec 48 := if timeBefore b.toNat a.toNat then b else a

/-- A key precedes another one of its kind: T, then P, C and H, then Q, the first and last in serial order (10 R274); in
deterministic mode N, G, H and Q as plain integers (10 R281). -/
def OrdPkt.before (a b : OrdPkt) : Bool :=
  if a.det then decide (a.key < b.key) else
  if a.t != b.t then timeBefore a.t b.t else
  if a.key / 2 ^ 16 != b.key / 2 ^ 16 then decide (a.key / 2 ^ 16 < b.key / 2 ^ 16) else
  let d := (b.key + 2 ^ 16 - a.key % 2 ^ 16) % 2 ^ 16
  decide (1 ≤ d) && decide (d ≤ 2 ^ 15 - 1)

/-- The smallest key of a list. -/
def smallest : List OrdPkt → Option OrdPkt
  | [] => none
  | p :: r =>
    match smallest r with
    | none => some p
    | some q => if q.before p then some q else some p

/-- P, C, H and Q of a key outside deterministic mode (10 R274). -/
def plainKey (panel k t q : Nat) : Nat := ((panel * 2 ^ 14 + k) * 8 + t % 8) * 2 ^ 16 + q % 2 ^ 16

/-- N, G, H and Q of a key in deterministic mode (10 R281); `req` holds N and Q. -/
def detKey (g t req : Nat) : Nat := ((req / 2 ^ 32 * 2 ^ 22 + g) * 8 + t % 8) * 2 ^ 32 + req % 2 ^ 32

/-- What a thread injects next: an access entry, its latch, or a copy command, by its id. -/
inductive OrdOp where
  | entry (e : AccEntry)
  | latch (l : Latch)
  | copy (c : CopyCmd)

/-- Its place in program order. -/
def OrdOp.ord : OrdOp → Nat
  | .entry e => e.ord
  | .latch l => l.ord
  | .copy c => c.ord

/-- The quantum and count of its request. -/
def OrdOp.req : OrdOp → Nat
  | .entry e => e.req
  | .latch l => l.req
  | .copy c => c.req

/-- The ordered operations of a thread that are not injected or that keep later ones back: unsent or held entries, an
ordered atomic in the latch, ordered reductions without a key (10 R275). -/
def State.ordOps (s : State) (k t : Nat) : List OrdOp :=
  let th := s.thread k t
  (th.acc.filter (fun e => e.form.isOrdered && e.key.isNone)).map OrdOp.entry ++
    (match th.latch with
     | some l => if s.latchOrdered k l then [OrdOp.latch l] else []
     | none => []) ++
    ((s.core k).copies.filter (fun c => c.thr == t % 8 && c.ordered && c.key.isNone)).map OrdOp.copy

/-- The oldest of them. -/
def oldestOp : List OrdOp → Option OrdOp
  | [] => none
  | x :: r =>
    match oldestOp r with
    | none => some x
    | some y => if y.ord < x.ord then some y else some x

/-- An ordered operation that has been injected: its target keeps the order of the thread's later ones with it (10 R278). -/
def AccEntry.injected (e : AccEntry) : Bool := e.form.isOrdered && e.key.isSome && e.held.isNone

/-- The operation that a thread may inject now, if any (10 R275). -/
def State.injectable (s : State) (k t : Nat) : Option OrdOp :=
  match oldestOp (s.ordOps k t) with
  | none => none
  | some x =>
    match x with
    | .entry e =>
      if e.held.isSome || s.mustWaitBut AccEntry.injected k t e.ord e.epoch e.slots true e.cover then none else some x
    | .latch l =>
      if l.cause.isSome || l.key.isSome || l.answer.isSome || s.mustWaitBut AccEntry.injected k t l.ord l.epoch l.slots true l.cover then none else some x
    | .copy c => if c.state != 1 || (s.core k).cFaulted then none else some x

/-- The elements of a reduction that its packets carry: all of them, or those to be sent again (10 R272). -/
def CopyCmd.elems (c : CopyCmd) : List Nat := if c.redo.isEmpty then List.range c.total else c.redo

/-- What an operation's packets carry is read as it is injected: the source elements of a reduction (10 R261, R262). -/
def State.readOut (s : State) (k : Nat) (x : OrdOp) : Except EngStop (State × List Nat) :=
  match x with
  | .copy c =>
    (match redAll k c.elems s c with
     | .error e => .error e
     | .ok (s, y, l) => .ok (s.modCore k (fun z => z.modCopy c.id (fun _ => y)), l))
  | .entry _ | .latch _ => .ok (s, [])

/-- A reduction whose source cannot be read waits or halts the engine (10 R271). -/
def State.readOutStops (s : State) (k t : Nat) (x : OrdOp) (e : EngStop) : State :=
  match x, e with
  | .copy c, .wait a wr => s.copyWaits k c a wr (.orderedInject k t)
  | .copy c, .fault cause v => s.post (.copyEngineFault k c.id cause v)
  | _, _ => s

/-- The address a packet is applied at. -/
def State.pktAddr (s : State) (p : OrdPkt) : Word :=
  match p.what with
  | 0 => (match (s.thread p.core p.thr).entry? p.ref with | some e => e.addr | none => 0)
  | 1 => (match (s.thread p.core p.thr).latch with | some l => l.addr | none => 0)
  | _ => (match (s.core p.core).copy? p.ref with | some c => c.elemAddr p.elem | none => 0)

/-- The target of an ordered access to a virtual address (10 R278): a scratchpad's banks, or the home of the first alias of its line
(13 R364), which is also that of the packets under way to the line. -/
def State.targetOf (s : State) (k : Nat) (va : Word) : OrdTarget :=
  match s.scratchOf k va with
  | some (p, t, _) => .bank (s.targetCore p t)
  | none =>
    match s.ctxOfCore k with
    | none => .home 0
    | some c =>
      match s.bytePlace k va with
      | none => .home (c.homeOf va)
      | some p =>
        match s.ordered.find? (fun q => (s.bytePlace q.core (s.pktAddr q)).any (fun x => x / 128 == p / 128)) with
        | some q => q.target
        | none =>
          let (id, line) := s.aliasOf c va p
          .home (s.homeOfLine id line)

/-! ### Watermarks -/

/-- The die of a link. -/
def linkDie : Link → DieRef
  | .inject k _ => .compute (dieOfCore k)
  | .port d _ => d

/-- A die stamps with synchronised time (10 R280). -/
def State.inSync (s : State) : DieRef → Bool
  | .compute i => (s.cdie i).sync
  | .memory i => (s.mdie i).sync

/-- Firmware has taken the links of a die's own threads out of every merge set: the die is out of service, or out of time sync
(10 R278, R280). -/
def State.takenOut (s : State) (d : DieRef) : Bool :=
  !(s.inSync d) || !(match d with | .compute i => (s.cdie i).up | .memory i => (s.mdie i).up)

/-- Some context spans more than one panel (10 R278). -/
def State.spansPanels (s : State) : Bool := s.ctxs.any (fun c => decide (1 < c.2.panels.length))

/-- What stands of a link. -/
def State.link? (s : State) (l : Link) : Option LinkSt := s.links.find? (fun x => decide (x.l = l))

/-- The Derene links that stand in merge sets: those up, while some context spans panels (10 R278; 15 R426). -/
def State.dereneIn (s : State) : List Link :=
  if !s.spansPanels then [] else
  ((List.range 18).filter (fun n => s.derene[n]?.getD false)).map dereneLink |>.filter (fun l =>
    match s.link? l with
    | some x => x.merge
    | none => true)

/-- The W of a Derene link: what the other panel has sent last (10 R276); before its first one 0 (DESIGN CHOICE, log 11). -/
def State.dereneW (s : State) (l : Link) : BitVec 48 :=
  match s.link? l with
  | some x => x.w
  | none => 0

/-- The W of the threads that have injected on the dies that `f` picks, but for dies that firmware has taken out, and the stamps that
a replay still holds for threads of those dies (10 R276, R278, R280; 12 R345). -/
def State.threadWs (s : State) (f : DieRef → Bool) : List (BitVec 48) :=
  (s.links.filter (fun x => (match x.l with | .inject _ _ => true | .port _ _ => false) && x.merge && f (linkDie x.l) &&
    !(s.takenOut (linkDie x.l)))).map (fun x => x.w) ++
  s.launches.flatMap (fun l => l.2.logCores.flatMap (fun k =>
    if l.2.rmode == 2 && f (.compute (dieOfCore k)) then s.stampsLeft l.2 k (fun _ => true) else []))

/-- The links into the neighbouring die that a link comes from, of which each can route to it: that die's own agents, its Derene links,
the link that goes on in the same direction, and for a link north or south the ones from east and west, since packets cross the columns
first (01 R12; 10 R276; log 11). -/
def State.inputsOf (s : State) (d : DieRef) (n : Nat) : List Link :=
  match s.neighbour d n with
  | none => []
  | some u =>
    (.port u 7 :: s.dereneIn.filter (fun l => decide (linkDie l = u)) ++
      ((if n % 2 = 0 then [n, 1, 3] else [n]).filter (fun m => (s.neighbour u m).isSome)).map (fun m => Link.port u m)).filter (fun l =>
        match s.link? l with
        | some x => x.merge
        | none => true)

/-- The latest W that a link may send (10 R276). For a thread it is the time, since it has sent what it has stamped, held at its next
logged stamp in a replay (12 R345); for a port it is the earliest W of the inputs that can route to it, each what it has sent last or
what it may send. The panel is at most 33 links across. -/
def State.boundIn (s : State) : Nat → Link → BitVec 48
  | 0, _ => s.time.setWidth 48
  | m + 1, l =>
    let least := fun (x : List (BitVec 48)) => x.foldl earlierTime (s.time.setWidth 48)
    match l with
    | .inject k t => least (match s.launch? (s.thread k t).task.launch with
        | some l => s.stampsLeft l k (fun w => bits w 10 14 == k % 2 ^ 14 && bits w 4 3 == t % 8)
        | none => [])
    | .port d n =>
      if n = 4 || n = 5 then s.dereneW (.port d n)
      else if n = 7 then least (s.threadWs (fun x => decide (x = d)))
      else least ((s.inputsOf d n).map (fun l => match s.link? l with
        | some x => x.w
        | none => State.boundIn s m l))

/-- The latest W that a link may send. -/
def State.bound (s : State) (l : Link) : BitVec 48 := s.boundIn 40 l

/-- The W of a link: what it has sent last, or where it has sent nothing what it may send. -/
def State.linkW (s : State) (l : Link) : BitVec 48 :=
  match s.link? l with
  | some x => x.w
  | none => s.bound l

/-- The die of a target. -/
def targetDie : OrdTarget → DieRef
  | .home m => .memory m
  | .bank k | .inbox k => .compute (dieOfCore k)

/-- The merge set of a target: every input link of its die, but for those that firmware has taken out and, while no context spans
panels, the Derene ports (10 R278). -/
def State.mergeSet (s : State) (target : OrdTarget) : List Link :=
  let d := targetDie target
  (((List.range 4).filter (fun n => (s.neighbour d n).isSome)).map (fun n => Link.port d n) ++
    (if s.takenOut d then [] else [Link.port d 7]) ++ s.dereneIn.filter (fun l => decide (linkDie l = d))).filter (fun l =>
      match s.link? l with
      | some x => x.merge
      | none => true)

/-- The merged watermark of a target: the earliest W over its merge set (10 R278; log 3). -/
def State.merged (s : State) (target : OrdTarget) : BitVec 48 :=
  ((s.mergeSet target).map s.linkW).foldl earlierTime (s.time.setWidth 48)

/-- A link listed with what it has sent. -/
def State.sendW (s : State) (l : Link) (w : BitVec 48) : State :=
  if s.links.any (fun x => decide (x.l = l)) then
    { s with links := s.links.map (fun x => if x.l = l then { x with w := laterTime x.w w, last := s.time.toNat } else x) }
  else { s with links := s.links ++ [{ l := l, w := w, last := s.time.toNat, stalled := false, up := true, merge := true }] }

/-- The links that an ordered packet of a thread passes to its target: the thread's injection point, its die's network, and the
receiving links from die to die (10 R276). -/
def State.linksOf (s : State) (k t : Nat) (target : OrdTarget) : List Link :=
  let src := dieOfCore k
  [.inject k (t % 8), .port (.compute src) 7] ++ s.linksTo 32 (s.siteOf src) (s.targetSite src (targetDie target))

/-- A link that an ordered packet of time T passes: it carries the link's W, which is T at most where an input may still send as
early (10 R276). -/
def State.passLink (s : State) (t : BitVec 48) (l : Link) : State :=
  match l with
  | .inject _ _ => s.sendW l t
  | .port _ _ => s.sendW l (earlierTime t (s.bound l))

/-- The Derene links of merge sets listed: they are watched for a stall (10 R279). -/
def State.listDerene (s : State) : State :=
  s.dereneIn.foldl (fun s l => if (s.link? l).isSome then s else s.sendW l 0) s

/-- Every link of the panel will send its watermark on, and every link is watched for a stall. -/
def State.postCairns (s : State) : State :=
  s.links.foldl (fun s x =>
    let s := match x.l with
      | .port _ 4 | .port _ 5 => s
      | l => s.postOnce (.cairn l)
    s.postOnce (.watermarkStall x.l)) s

/-- The launch a thread works for gives its logical core index (12 R334). -/
def State.logicalOf (s : State) (k t : Nat) : Nat :=
  match s.launch? (s.thread k t).task.launch with
  | some l => s.logical l k
  | none => k

/-- An operation injected with its key (10 R275): its packets leave for their targets with the data they carry. -/
def State.inject (s : State) (k t : Nat) (x : OrdOp) (data : List Nat) (tm q : Nat) : State :=
  let det := s.detAt k
  let id := (s.core k).owner
  let key := if det then detKey (s.logicalOf k t) t x.req else plainKey s.panel.toNat k t q
  let s := s.modThread k t (fun th => { th with oseq := if det then th.oseq else BitVec.ofNat 32 ((q + 1) % 2 ^ 16) })
  let pkt := fun (what ref elem x : Nat) (target : OrdTarget) =>
    { key := key, t := tm, det := det, ctx := id, core := k, thr := t % 8, what := what, ref := ref, elem := elem, data := x,
      target := target : OrdPkt }
  let (s, l) : State × List OrdPkt := match x with
    | .entry e =>
      (s.modThread k t (fun th => th.modEntry e.seq.toNat (fun e => { e with key := some key, sent := true })),
       [pkt 0 e.seq.toNat 0 0 (match e.form with | .msg target _ _ => .inbox target | _ => s.targetOf k e.addr)])
    | .latch l =>
      (s.modThread k t (fun th => { th with latch := some { l with key := some key, sent := true } }),
       [pkt 1 l.seq.toNat 0 0 (s.targetOf k l.addr)])
    | .copy c =>
      (s.modCore k (fun y => y.modCopy c.id (fun c => { c with key := some key, redo := [], since := none })),
       (c.elems.zip data).map (fun (n : Nat × Nat) => pkt 2 c.id n.1 n.2 (s.targetOf k (c.elemAddr n.1))))
  let s := { s with ordered := s.ordered ++ l }
  let links := if det then [Link.inject k (t % 8)] else (l.flatMap (fun p => s.linksOf k t p.target)).eraseDups
  let s := (links.foldl (fun s x => s.passLink (BitVec.ofNat 48 tm) x) s).listDerene.postCairns
  let s := match x with
    | .copy c => if c.total = 0 then s.postOnce (.copyCommandComplete k c.id) else s
    | _ => s
  l.foldl (fun s p => s.postOnce (.orderedApply p.target)) s

/-- ORDERED_INJECT: the oldest ordered operation of a thread leaves the core and takes its key; a recorded launch logs its
stamp and a replayed one is forced to it (10 R275, R280; 12 R343, R345). In deterministic mode the end of the quantum does
this (12 R336). -/
def execOrderedInject (core thr : Nat) (s : State) : Host.Outcome State Fault Refusal :=
  if (s.ordOps core thr).isEmpty || s.detAt core then happened s else
  if s.takenOut (.compute (dieOfCore core)) then notYet s else
  match s.injectable core thr with
  | none => notYet s
  | some x =>
    let q := (s.thread core thr).oseq.toNat
    match s.readOut core x with
    | .error e => happened (s.readOutStops core thr x e)
    | .ok (u, l) =>
      match s.logCheck core thr 4 0 with
      | .wait t => notYet t
      | .free =>
        let tm := ((s.timeAt (.compute (dieOfCore core))).setWidth 48).toNat
        happened ((u.logServe core thr 4 0 (BitVec.ofNat 64 (tm + q % 2 ^ 16 * 2 ^ 48))).inject core thr x l tm q)
      | .forced w => happened ((u.logServe core thr 4 0 w).inject core thr x l (bits w 0 48) (bits w 48 16))

/-- The lowest key that an operation kept at its core leaves to be injected: the first one of its quantum while it is held by a
cause; its own where an earlier operation or a fence keeps it, since by its quantum alone it would keep the operation it waits for
from being applied for ever (10 R281; DEDUCED, log 11). -/
def State.keptKey (s : State) (k t : Nat) (x : OrdOp) : Option Nat :=
  let first := x.req / 2 ^ 32 * 2 ^ 57
  let own := detKey (s.logicalOf k t) t x.req
  match x with
  | .latch l => if l.key.isSome then none else some (if l.cause.isSome then first else own)
  | .entry e => some (if e.held.isSome then first else own)
  | .copy c => some (if c.state == 2 || (s.core k).cFaulted then first else own)

/-- The logical watermark of a context, as the lowest key that a core of it may still inject: that of an operation kept at its
core, or the first one of the quantum whose requests have not been served (10 R281; 12 R336). -/
def State.logicalMark (s : State) (c : Ctx) : Nat :=
  ((s.coresOf c.id).flatMap (fun k => (List.range 8).flatMap (fun t => (s.ordOps k t).filterMap (s.keptKey k t)))).foldl min
    ((if c.stopping then c.quantum + 1 else c.quantum) * 2 ^ 57)

/-- The packets a target may apply now: the smallest key of its own queue once M is later than its T, and the smallest of
each deterministic context's once the logical watermark exceeds it (10 R278, R281). -/
def State.applicable (s : State) (target : OrdTarget) : List OrdPkt :=
  let mine := s.ordered.filter (fun p => decide (p.target = target))
  let plain := match smallest (mine.filter (fun p => !p.det)) with
    | some p => if timeBefore p.t (s.merged target).toNat then [p] else []
    | none => []
  plain ++ s.ctxs.filterMap (fun c =>
    match smallest (mine.filter (fun p => p.det && p.ctx == c.1)) with
    | some p => if p.key < s.logicalMark c.2 then some p else none
    | none => none)

/-- The messages of the overflow chain follow those of the inbox: they are placed as entries free (14 R393). -/
def State.fillInbox (s : State) (k : Nat) : Nat → State
  | 0 => s
  | n + 1 =>
    match (s.core k).overflow with
    | m :: r =>
      if 64 ≤ (s.core k).inbox.length then s
      else State.fillInbox (s.modCore k (fun c => { c with inbox := c.inbox ++ [m], overflow := r })) k n
    | [] => s

/-- The threads parked on an inbox that may be served, in the order they parked: not one whose bundle's other slot would park. -/
def State.boxServable (s : State) (k : Nat) : List Nat := (s.core k).boxWait.filter (fun t => !(s.isBlocked k t))

/-- The head message of an inbox for the context of its core. -/
def Core.headMsg? (c : Core) : Option Msg := c.inbox.find? (fun m => m.ctx == c.owner)

/-- A parked MSGTAKE is served: threads parked on one inbox in the order they parked, each by the head message of its
context (09 R243). -/
def State.serveOne (s : State) (k : Nat) : Option State :=
  match s.boxServable k, (s.core k).headMsg? with
  | t :: _, some m =>
    some ((((s.modCore k (fun c => { c with inbox := c.inbox.erase m, boxWait := c.boxWait.filter (fun x => !(x == t)) })).fillInbox k
      1).grantTo k t m.words).postOnce (.msgCallback k))
  | _, _ => none

/-- Parked MSGTAKEs are served while the inbox holds messages. -/
def serveInbox (k : Nat) : Nat → State → State
  | 0, s => s
  | n + 1, s =>
    match s.serveOne k with
    | some t => serveInbox k n t
    | none => s

/-- A message and a thread parked for it are both there. -/
def Core.boxHeld (c : Core) : Bool := !c.boxWait.isEmpty && c.headMsg?.isSome

/-- Every parked MSGTAKE that can be served is; one whose bundle's other slot would park is looked at again (02 R36). -/
def State.serveBox (s : State) (k : Nat) : State :=
  let t := serveInbox k 64 s
  if (t.core k).boxHeld then t.postOnce (.msgCallback k) else t

/-- The sender's entry of a message that has been placed: the placement acknowledges it (09 R242). -/
def State.ackMsg (s : State) (core thr seq : Nat) : State :=
  s.modThread core thr (fun th => { th.dropEntry seq with msgs := th.msgs - 1 })

/-- A message placed whole in an entry of an inbox (09 R242). -/
def State.placeMsg (s : State) (k : Nat) (m : Msg) (core thr seq : Nat) : State :=
  ((s.modCore k (fun c => { c with inbox := c.inbox ++ [m] })).ackMsg core thr seq).serveBox k

/-- A packet leaves its target's queue. -/
def State.dropPkt (s : State) (p : OrdPkt) : State := { s with ordered := s.ordered.filter (fun x => !(decide (x = p))) }

/-- An ordered message reaches its inbox: it is placed, or waits at the head of the ordered queue while the inbox is full, or, while a
stop of the core is in progress, is moved to the inbox overflow chain (10 R278; 14 R387 step 4); it waits while the core is saved
(14 R398). -/
def State.applyMsg (s : State) (p : OrdPkt) (target : Nat) (m : Msg) : Option State :=
  if s.savedFor p.core target then none else
  if (s.core target).inbox.length < 64 then some ((s.dropPkt p).placeMsg target m p.core p.thr p.ref) else
  if (s.core target).stops.all (fun x => x.complete) then none else
  some (((s.dropPkt p).modCore target (fun c => { c with overflow := c.overflow ++ [m] })).ackMsg p.core p.thr p.ref)

/-- A packet of a reduction comes back: its element is sent again after the repair (10 R272). -/
def State.returnElem (s : State) (p : OrdPkt) : State :=
  (s.dropPkt p).modCore p.core (fun x => x.modCopy p.ref (fun c => { c with key := none, redo := c.redo ++ [p.elem] }))

/-- A target applies a packet (10 R278): none while it waits at the head. -/
def State.applyPkt (s : State) (p : OrdPkt) : Option State :=
  let th := s.thread p.core p.thr
  match p.what with
  | 0 =>
    match th.entry? p.ref with
    | none => some (s.dropPkt p)
    | some e =>
      (match e.form with
       | .msg target words _ =>
         s.applyMsg p target { words := words, core := p.core, thr := p.thr, seq := e.seq, ctx := p.ctx }
       | _ =>
         if s.waitsOutside p.core e.addr then none else
         match s.place p.core e.mode .store e.addr with
         | .error c =>
           some (((s.dropPkt p).modThread p.core p.thr (fun th => th.modEntry p.ref (fun e => { e with key := none }))).post
             (.accessHeld p.core p.thr p.ref c))
         | .ok a =>
           some (((s.dropPkt p).storeAt p.core p.thr e.epoch e.addr a 8 (e.data.toNat % 2 ^ 64)).modThread p.core p.thr
             (fun th => th.dropEntry p.ref)))
  | 1 =>
    match th.latch? p.ref with
    | none => some (s.dropPkt p)
    | some l =>
      if l.answer.isSome then some ((s.dropPkt p).post (.atomicAnswer p.core p.thr)) else
      if s.waitsOutside p.core l.addr then none else
      (match s.placeN p.core l.mode .atomic l.addr l.size with
       | .error c =>
         some (((s.dropPkt p).modThread p.core p.thr (fun th => { th with latch := some { l with key := none } })).post
           (.accessHeld p.core p.thr p.ref c))
       | .ok a => some ((s.dropPkt p).atomicAt p.core p.thr l a))
  | _ =>
    match (s.core p.core).copy? p.ref with
    | none => some (s.dropPkt p)
    | some c =>
      match s.redPut p.core c p.elem p.data with
      | .error (.wait _ _) => none
      | .error (.fault cause v) => some ((s.returnElem p).post (.copyEngineFault p.core p.ref cause v))
      | .ok (t, y) =>
        let t := (t.dropPkt p).modCore p.core (fun x => x.modCopy p.ref (fun _ => y))
        some (if y.next = c.total then t.postOnce (.copyCommandComplete p.core p.ref) else t)

/-- A packet waits at its target: what holds its line is called back, and the time-out of a reduction's element runs (10 R271). -/
def State.pktWaits (s : State) (p : OrdPkt) : State :=
  match p.target with
  | .inbox _ => s
  | _ =>
    let s := s.callBack p.core (s.pktAddr p)
    if p.what != 2 then s else
    match (s.core p.core).copy? p.ref with
    | none => s
    | some c =>
      let since := s.engSince p.core (s.pktAddr p) c.since
      if s.engDue since then (s.returnElem p).post (.copyEngineFault p.core p.ref 23 (engVal 7 c.thr true (s.pktAddr p)))
      else s.modCore p.core (fun x => x.modCopy p.ref (fun c => { c with since := since }))

/-- ORDERED_APPLY: a target applies the packet with the smallest key once its watermark has passed it (10 R278, R281). -/
def execOrderedApply (target : OrdTarget) (s : State) : Host.Outcome State Fault Refusal :=
  if !(s.ordered.any (fun p => decide (p.target = target))) then happened s else
  match (s.applicable target).findSome? s.applyPkt with
  | none => notYet ((s.applicable target).foldl State.pktWaits s.postCairns)
  | some t => happened (t.postOnce (.orderedApply target))

/-- A link comes from another panel. -/
def isDereneLink : Link → Bool
  | .port _ n => n == 4 || n == 5
  | .inject _ _ => false

/-- A link carries what the threads of its own die stamp: such a link sends no watermark while the die has lost time sync (10 R280). -/
def linkStamped : Link → Bool
  | .inject _ _ => true
  | .port _ n => n == 7

/-- CAIRN: a link that has sent nothing for 256 ticks sends its watermark (10 R276, R277). On a Derene link the cairn comes from the
other panel: the input names its W (`word`). -/
def execCairn (l : Link) (s : State) : Host.Outcome State Fault Refusal :=
  if isDereneLink l then
    happened (s.sendW l (earlierTime (s.time.setWidth 48) (s.input.word.setWidth 48)))
  else
    match s.link? l with
    | none => happened s
    | some x =>
      if !x.up || (linkStamped l && s.takenOut (linkDie l)) then notYet s else
      if s.time.toNat < x.last + 256 then notYet s else
      happened ((s.sendW l (s.bound l)).postOnce (.cairn l))

/-- The lag of a link's watermark; for a context in deterministic mode, real ticks since its logical watermark advanced
(10 R279, R281). -/
def State.lagOf (s : State) (x : LinkSt) : Nat :=
  match x.l with
  | .inject k _ =>
    (match s.ctxOfCore k with
     | some c => if c.det then (s.time - c.advanced).toNat else ((s.time.setWidth 48) - x.w).toNat
     | none => ((s.time.setWidth 48) - x.w).toNat)
  | .port _ _ => ((s.time.setWidth 48) - x.w).toNat

/-- KVAL of WATERMARK_STALL (10 R279). -/
def stallVal (x : LinkSt) : Word :=
  let port := match x.l with | .inject _ _ => 7 | .port _ n => n
  BitVec.ofNat 64 (x.w.toNat + (match linkDie x.l with | .compute i => i % 256 * 2 ^ 48 + 2 ^ 56 | .memory i => i % 256 * 2 ^ 48) +
    port % 16 * 2 ^ 57)

/-- A die stands behind a link: what the link carries can be for it. A link into a die from east or west leads on in its row and to every
die of the columns that way; one from north or south on in its column only (01 R12; log 11). What a die's own agents or another panel
send can be for any die. -/
def State.behind (s : State) (l : Link) (d : DieRef) : Bool :=
  match l with
  | .inject _ _ => true
  | .port e n =>
    let x := s.dieSite e
    let y := s.dieSite d
    match n with
    | 0 => x % 16 == y % 16 && decide (x / 16 ≤ y / 16)
    | 1 => decide (y % 16 ≤ x % 16)
    | 2 => x % 16 == y % 16 && decide (y / 16 ≤ x / 16)
    | 3 => decide (x % 16 ≤ y % 16)
    | _ => true

/-- The cores whose threads have an ordered operation waiting at a target behind a link (10 R279). -/
def State.stalledCores (s : State) (l : Link) : List Nat :=
  ((s.ordered.filter (fun p => s.behind l (targetDie p.target))).map (fun p => p.core)).eraseDups

/-- WATERMARK_STALL: a link's lag first exceeds WMLAG; its die's firmware and the core supervisors of the waiting threads
are told, once per stall (10 R279). -/
def execWatermarkStall (l : Link) (s : State) : Host.Outcome State Fault Refusal :=
  match s.links.find? (fun x => decide (x.l = l)) with
  | none => happened s
  | some x =>
    let set : Bool → State := fun b => { s with links := s.links.map (fun y => if y.l = l then { y with stalled := b } else y) }
    if x.stalled then (if s.lagOf x < s.wmlag.toNat / 2 then happened ((set false).postOnce (.watermarkStall l)) else notYet s)
    else if s.wmlag.toNat < s.lagOf x then
      happened (((s.stalledCores l).foldl (fun s k => s.report k 45 (stallVal x)) ((set true).dieReport (linkDie l) 45 (stallVal x))).postOnce
        (.watermarkStall l))
    else notYet s

/-- The destination of MSGAPP in the layout of CID, or none when MSG_DEST is raised (09 R241). -/
def State.msgDest (s : State) (x : Word) : Option Nat :=
  let p := bits x 32 8
  let k := bits x 8 7 * 128 + bits x 0 7
  if bit x 7 || !(bits x 15 17 == 0) || !(bits x 40 24 == 0) then none else
  if (decide (144 ≤ p) && decide (p ≤ 254)) || isRanger k then none else
  match s.ctxOfCore s.cur.core with
  | none => none
  | some c =>
    if !(s.ownPanel p) && !(c.panels.contains p) then none else
    if c.inPartition k || c.windowTo (s.ownPanel p) p k then some (s.targetCore p k) else none

/-- MSGAPP (09 R241): the payload is captured, and the bundle retires at issue. -/
def execMsgapp (d a : BitVec 6) (ord : Bool) (n : BitVec 3) (s : State) : Host.Outcome State Fault Refusal :=
  let regs := (List.range (n.toNat + 1)).map (fun j => BitVec.ofNat 6 (d.toNat + j))
  runSlot 0 (rn a :: regs.map rn) [] (fun s =>
    match s.msgDest (s.rs a) with
    | none => .trap 32 (s.rs a)
    | some target =>
      if 4 ≤ s.src.msgs then .park .msgLimit else
      if s.src.accFull then .park .accessTable else
      .go (fun t =>
        let o := ord || t.detAt t.cur.core
        (t.takeEntry (t.newEntry (.msg target (regs.map s.rs) o) 0x43 ((if ord then 64 else 0) + n.toNat) d.toNat (s.rs a) [] 0)).modTh
          (fun th => { th with msgs := th.msgs + 1 }))) s

/-- Refusals of an inbox are recorded for up to 64 senders, in the order they came (09 R242). -/
def Core.refused (c : Core) (k t : Nat) : Bool := c.refuse.contains (k, t % 8)

/-- The plain messages of a thread that are not placed and have not been refused, oldest first. -/
def Thread.unsentMsgs (th : Thread) : List (AccEntry × Nat × List Word) :=
  th.acc.filterMap (fun e => match e.form with | .msg k w false => if e.arrived then none else some (e, k, w) | _ => none)

/-- A plain message may be sent: the thread has no earlier one to the same inbox that is not placed, no fence holds it, and its target
is not saved (09 R242, R245; 14 R398). -/
def State.maySend (s : State) (core thr : Nat) (e : AccEntry) (k : Nat) : Bool :=
  !((s.thread core thr).msgBehind e) && !(s.mustWait core thr e.ord e.epoch e.slots true e.cover) && !(s.savedFor core k)

/-- MSG_PLACE: the oldest plain message of a thread that may be sent reaches its inbox, which places it, or refuses it while it is
full or holds a refusal from that thread; a refusal holds the thread's later messages to that inbox only (09 R242). -/
def execMsgPlace (core thr : Nat) (s : State) : Host.Outcome State Fault Refusal :=
  match (s.thread core thr).unsentMsgs.find? (fun x => s.maySend core thr x.1 x.2.1) with
  | none => if (s.thread core thr).unsentMsgs.isEmpty then happened s else notYet s
  | some (e, k, w) =>
    if (s.core k).inbox.length < 64 && !((s.core k).refused core thr) then
      let s := s.placeMsg k { words := w, core := core, thr := thr % 8, seq := e.seq, ctx := (s.core core).owner } core thr e.seq.toNat
      happened (if (s.thread core thr).unsentMsgs.isEmpty then s else s.postOnce (.msgPlace core thr))
    else
      let s := s.modThread core thr (fun th => th.modEntry e.seq.toNat (fun e => { e with arrived := true, since := s.clock }))
      let s := if (s.thread core thr).unsentMsgs.isEmpty then s else s.postOnce (.msgPlace core thr)
      if (s.core k).refused core thr then happened s else
      if (s.core k).refuse.length < 64 then
        happened ((s.modCore k (fun c => { c with refuse := c.refuse ++ [(core, thr % 8)] })).postOnce (.msgCallback k))
      else happened (s.post (.msgRetry core thr))

/-- MSG_CALLBACK: an inbox with a free entry calls the sender it refused first back (09 R242); a parked MSGTAKE that could not be
served yet is looked at again. -/
def execMsgCallback (core : Nat) (s : State) : Host.Outcome State Fault Refusal :=
  let s := serveInbox core 64 s
  match (s.core core).refuse with
  | [] => if (s.core core).boxHeld then notYet s else happened s
  | (k, t) :: r =>
    if 64 ≤ (s.core core).inbox.length then notYet s else
    let s := s.modCore core (fun c => { c with refuse := r })
    happened ((((s.modThread k t (fun th => { th with acc := th.acc.map (fun e =>
      if e.plainTo? = some core then { e with arrived := false } else e) })).postOnce (.msgPlace k t))).postOnce (.msgCallback core))

/-- MSG_RETRY: a refused message that no list holds is sent again after 512 cycles (09 R242). -/
def execMsgRetry (core thr : Nat) (s : State) : Host.Outcome State Fault Refusal :=
  match (s.thread core thr).acc.find? (fun e => e.arrived && e.plainTo?.any (fun k => !((s.core k).refused core thr))) with
  | none => happened s
  | some e =>
    if s.clock < e.since + 512 then notYet s else
    happened ((s.modThread core thr (fun th => th.modEntry e.seq.toNat (fun e => { e with arrived := false }))).postOnce (.msgPlace core thr))

/-- MSGTAKE (09 R243): it joins the inbox's list; the words beyond the message's length are 0. -/
def execMsgtake (d : BitVec 6) (n : BitVec 3) (s : State) : Host.Outcome State Fault Refusal :=
  let regs := (List.range (n.toNat + 1)).map (fun j => BitVec.ofNat 6 (d.toNat + j))
  runSlot 0 [] (regs.map rn) (fun s =>
    match s.src.grant with
    | some l => .go (fun t => ((regs.zip (List.range regs.length)).foldl (fun t x => t.ws x.1 (l.getD x.2 0)) t).noteInbox
        t.cur.core t.cur.thr s.stampNow)
    | none => .join .inbox (fun t =>
        (t.modOwn (fun c => { c with boxWait := c.boxWait ++ [t.cur.thr % 8] })).serveBox t.cur.core)) s

end Sys2Proof.Machine
end

