-- ==== Sys2Proof/Machine/Banks.lean ====
section
/-! DEFINITION. Requests for the banks of scratchpads and their rank (08 R189; 12 R332). -/

namespace Sys2Proof.Machine

/-- A request for banks (12 R332): the banks, each as core and number, the index it carries, and its class: 0 an issuing thread, 1 the
full/empty wait list, 2 the copy engine, a refill or a drain, 3 from elsewhere. -/
structure BankReq where
  wants : List (Nat × Nat)
  index : Nat
  cls   : Nat
  deriving DecidableEq, Repr

/-- The banks that `n` bytes from an offset on touch: offset bits [6:3] select the bank (08 R189). -/
def banksOf (off n : Nat) : List Nat := (List.range (min 16 ((off % 8 + n + 7) / 8))).map (fun j => (off / 8 + j) % 16)

/-- The banks of this panel that an access of core `k` touches; with `own` false only those of other cores. -/
def State.rangeBanks (s : State) (k : Nat) (own : Bool) (a : Word) (n : Nat) : List (Nat × Nat) :=
  match s.scratchOf k a with
  | some (p, j, off) => if s.ownPanel p && (own || !(j == k)) then (banksOf off n).map (fun b => (j, b)) else []
  | none => []

/-- A request, or none where no bank is touched. -/
def reqFor (wants : List (Nat × Nat)) (index cls : Nat) : Option BankReq :=
  if wants.isEmpty then none else some { wants := wants, index := index, cls := cls }

/-- The request of an access entry whose next pieces are performed: a thread's access to its own core's banks had its banks when it
issued. -/
def State.entryReq (s : State) (k t seq : Nat) : Option BankReq :=
  match (s.thread k t).entry? seq with
  | none => none
  | some e => reqFor ((s.nextPieces e).flatMap (fun p => s.rangeBanks k false p.addr p.size)) (t % 8) 3

/-- The bytes of an element of a tensor, with its scale byte where it begins a block. -/
def Desc.elemBytes (d : Desc) (i : Idx) : List (Word × Nat) :=
  let (b, n, _) := elemSpan d.width i.i0.toNat
  (d.rowAddr i + BitVec.ofNat 64 b, n) :: (if isBlockCode d.fmt && i.i0.toNat % blockSize d.fmt == 0 then [(d.scaleAddr i, 1)] else [])

/-- The bytes that element `n` of a copy command touches, or row `n` of a tile load. -/
def CopyCmd.touches (c : CopyCmd) (n : Nat) : List (Word × Nat) :=
  let dst := match c.target n with | some (d, i) => d.elemBytes i | none => []
  let src := fun (i : Idx) => match c.srcDesc with | some d => if d.inside i then d.elemBytes i else [] | none => []
  match c.instr with
  | .cpy _ _ _ _ tr _ => dst ++ (match c.target n with | some (_, i) => src (cpyIndex tr c.vc i) | none => [])
  | .cpyr .. =>
    (match c.srcDesc with | some d => d.elemBytes (d.unlinear n) | none => []) ++
      (match c.dstDesc with | some d => [(c.elemAddr n, d.width / 8)] | none => [])
  | .tst .. => dst
  | _ => (List.range (tshElems c.tsh)).flatMap (fun j => src (tileIndex c.instr c.vb c.vc j n))

/-- How many elements a copy command moves up to the next place where it may pause: at most 256, those of a word of scales. -/
def CopyCmd.moveCount (c : CopyCmd) : Nat :=
  min (c.total - c.next) (((List.range 256).find? (fun j => { c with next := c.next + (j + 1) }.atWord)).getD 255 + 1)

/-- The request of a copy command: every bank that its next access touches. -/
def State.copyReq (s : State) (k id : Nat) : Option BankReq :=
  match (s.core k).copy? id with
  | none => none
  | some c =>
    if !(s.usesBanks k c) then none else
    let n := if c.reduces then 1 else c.moveCount
    let wants := ((List.range n).flatMap (fun j => c.touches (c.next + j))).flatMap (fun x => s.rangeBanks k true x.1 x.2) |>.eraseDups
    reqFor wants (c.thr % 8) (if wants.any (fun x => x.1 == k) then 2 else 3)

/-- The request of a stream's record that is read or written next. -/
def State.recordReq (s : State) (k t n : Nat) (wr : Bool) : Option BankReq :=
  let w := (s.thread k t).stream (BitVec.ofNat 3 n)
  let a := if wr then
      (match (s.thread k t).drains.find? (fun j => j.n == n && !j.recs.isEmpty && !j.stopped) with
       | some j => some (recordAddr j.base j.shape j.first)
       | none => if w.writing && !w.recs.isEmpty then some (recordAddr w.base w.shape w.first) else none)
    else w.inFlight?.map (fun i => recordAddr w.base w.shape i)
  match a with
  | none => none
  | some a => reqFor (s.rangeBanks k true a 128) (t % 8) 2

/-- The request of the full/empty wait list for a word: its first waiting thread there. -/
def State.feReq (s : State) (k word : Nat) : Option BankReq :=
  match (s.core k).felist.find? (fun r => r.2.2 == word) with
  | some r => reqFor [(k, word % 16)] (r.2.1 % 8) 1
  | none => none

/-- The request of an event that performs accesses at banks (12 R332). -/
def State.bankReq (s : State) (i : Instr) : Option BankReq :=
  match i with
  | .loadResultArrival k t seq | .accessCompletion k t seq => s.entryReq k t seq
  | .nearMemoryAtomic k t =>
    (match (s.thread k t).latch with
     | some l => reqFor (s.rangeBanks k true l.addr l.size) (t % 8) 3
     | none => none)
  | .orderedApply (.bank k) =>
    (match (s.applicable (.bank k)).head? with
     | some p => reqFor (s.rangeBanks p.core true (s.pktAddr p) 8) (p.thr % 8) 3
     | none => none)
  | .feWaitTry k word => s.feReq k word
  | .copyCommandComplete k id | .copyReductionApply k id => s.copyReq k id
  | .streamRecordArrival k t n => s.recordReq k t n false
  | .streamDrain k t n => s.recordReq k t n true
  | _ => none

/-- P of a core in this cycle, which CYC counts (12 R332). -/
def State.bankPointer (s : State) (k : Nat) : Nat :=
  let c := (s.cyc k).toNat
  (c + c / 8) % 8

/-- The rank of an index at a core's banks (12 R332). -/
def State.bankRank (s : State) (k i : Nat) : Nat := (i % 8 + 8 - s.bankPointer k) % 8

/-- A request goes before another one at a bank of a core: by rank, then by class; within a class the one that came first does
(12 R332). -/
def State.goesBefore (s : State) (k : Nat) (x y : BankReq) (earlier : Bool) : Bool :=
  decide (s.bankRank k x.index < s.bankRank k y.index) ||
    (s.bankRank k x.index == s.bankRank k y.index && (decide (x.cls < y.cls) || (x.cls == y.cls && earlier)))

/-- A request loses a bank to another one that goes before it there. -/
def State.losesTo (s : State) (x y : BankReq) (earlier : Bool) : Bool :=
  y.wants.any (fun b => x.wants.contains b && s.goesBefore b.1 y x earlier)

/-- Some bank of a request has performed its access in this cycle (08 R189). -/
def State.bankTaken (s : State) (x : BankReq) : Bool := x.wants.any (fun b => s.banks.contains b)

/-- A thread's request for the banks of its own core by what its bundle puts into its access table: the entries that `t` has and `s`
has not (12 R332). -/
def issueReq (k thr : Nat) (s t : State) : Option BankReq :=
  let old := (s.thread k thr).acc.map (fun e => e.seq)
  let fresh := (t.thread k thr).acc.filter (fun e => !(old.contains e.seq))
  reqFor ((fresh.flatMap (fun e => e.pieces.flatMap (fun p => t.rangeBanks k true p.addr p.size))).filter (fun b => b.1 == k)) thr 0

end Sys2Proof.Machine
end

