-- ==== Sys2Proof/Machine/Sync.lean ====
section
/-! DEFINITION. Semaphores, barriers and the watch table (11 R311 to R320). -/

namespace Sys2Proof.Machine

/-- An event's work done as a thread of a core would do it. -/
def State.asThread (s : State) (k t : Nat) (f : State → State) : State :=
  { f { s with cur := { Cur.idle with core := k, thr := t } } with cur := s.cur }

/-- SEMW (11 R317): it joins the semaphore's list; a take of 0 is the non-consuming wait. -/
def execSemw (a : BitVec 6) (k : BitVec 8) (s : State) : Host.Outcome State Fault Refusal :=
  runSlot 0 [rn a] [] (fun s =>
    let x := s.rs a
    if !(bits x 32 32 == 0) || decide (bits x 0 16 < bits x 16 16) then .trap 3 x else
    match s.src.grant with
    | some _ => .go (fun t =>
        let t := t.acquire t.cur.core t.cur.thr (semObj t.cur.core k.toNat)
        if bits x 16 16 = 0 then t else t.noteSem t.cur.core t.cur.thr s.stampNow k.toNat)
    | none => .join (.sem k.toNat) (fun t =>
        ((t.modOwn (fun c => { c with semWait := c.semWait ++ [(t.cur.thr % 8, k.toNat)] })).modTh (fun th =>
          { th with call := [BitVec.ofNat 64 (bits x 0 16), BitVec.ofNat 64 (bits x 16 16)] })).updateSems t.cur.core)) s

/-- SEMS (11 R317): a release of the thread's earlier accesses to the core's scratchpad, which are performed before it adds (08 R218);
the semaphore file then applies what else changes in the cycle, before an engine reads it (11 R318). -/
def execSems (a : BitVec 6) (k : BitVec 8) (s : State) : Host.Outcome State Fault Refusal :=
  runSlot 0 [rn a] [] (fun s =>
    let x := s.rs a
    if !(bits x 16 48 == 0) then .trap 3 x else
    if 0xFFFF < (s.own.sem k).toNat + x.toNat then .trap 26 (BitVec.ofNat 64 k.toNat) else
    if s.scratchLeft s.cur.core s.cur.thr s.src.acount (ownKey, s.cur.core) then .park .earlierStores else
    .go (fun t => (((t.release t.cur.core t.cur.thr (semObj t.cur.core k.toNat))).modOwn (fun c =>
      c.setSem k (c.sem k + x.setWidth 16))).updateSems t.cur.core)) s

/-- SEMAPHORE_UPDATE: the signals of engine commands, then the parked SEMWs (11 R318). -/
def execSemaphoreUpdate (core : Nat) (s : State) : Host.Outcome State Fault Refusal :=
  let s := s.applySems core
  if s.semHeld core then notYet s else happened s

/-- Which field of GRP holds a group (02 R55). -/
def Thread.groupField (th : Thread) (n : Nat) : Option Nat :=
  (List.range 4).find? (fun i => bit th.grp (32 + i) && bits th.grp (8 * i) 8 == n)

/-- Time for time-outs: ticks, or quanta in deterministic mode (11 R313, 12 R337). -/
def State.waitClock (s : State) (k : Nat) : Nat := if s.detAt k then s.quantumAt k else 2 * s.clock

/-- BAR and BART (11 R312, R313): the arrival, and the wait for the phase. -/
def runBarrier (writes : List RegName) (a : BitVec 6) (timed : Bool) (put : List Word → State → State) (s : State) :
    Host.Outcome State Fault Refusal :=
  runSlot 0 [rn a] writes (fun s =>
    let x := s.rs a
    match s.src.grant with
    | some l => .go (put l)
    | none =>
      if !(bits x 8 56 == 0) || (s.src.groupField x.toNat).isNone then .trap 30 x else
      .join (if timed then .barrierTimed else .barrier) (fun t =>
        let me := (t.cur.core, t.cur.thr % 8)
        let t := t.modLaunch t.th.task.launch (fun l => { l with groups := l.groups.map (fun g =>
          if g.n = x.toNat then { g with arrived := g.arrived ++ [me] } else g) })
        let t := (t.modTh (fun th => { th with parkT := t.waitClock t.cur.core, call := [x] })).postOnce
          (.barrierPhaseComplete t.th.task.launch x.toNat)
        if timed && !(s.src.wto == 0) then t.postOnce (.bartTimeout t.cur.core (t.cur.thr % 8)) else t)) s

/-- BAR (11 R312). -/
def execBar (a : BitVec 6) (s : State) : Host.Outcome State Fault Refusal := runBarrier [] a false (fun _ t => t) s

/-- BART (11 R313). -/
def execBart (d a : BitVec 6) (s : State) : Host.Outcome State Fault Refusal := runBarrier [rn d] a true (putFirst d) s

/-- A member of a group as it stands, on its core or saved with it: a saved member has not left (11 R312; 16 R437). -/
def State.member (s : State) (launch : Nat) (m : Nat × Nat) : Thread :=
  match (s.launch? launch).bind (fun l => (s.ctx? l.ctx).bind (fun c => AMap.get? c.kept m.1)) with
  | some x => x.thread m.2
  | none => s.thread m.1 m.2

/-- A member of a group has left its launch: it counts as arrived for every phase (11 R312). -/
def State.memberGone (s : State) (launch : Nat) (m : Nat × Nat) : Bool :=
  let th := s.member launch m
  !(th.task.launch == launch) || (match th.st with | .retired | .free => true | .running | .parked | .idle => false)

/-- A completed phase counted at a member. -/
def Thread.countPhase (th : Thread) (n : Nat) : Thread :=
  match th.groupField n with
  | some i =>
    let l := th.phases ++ List.replicate (4 - th.phases.length) 0
    { th with phases := l.set i ((l.getD i 0 + 1) % 2 ^ 16) }
  | none => th

/-- BARRIER_PHASE_COMPLETE: when every member has arrived the phase completes, and every member leaves it in one cycle
(11 R312). -/
def execBarrierPhaseComplete (launch group : Nat) (s : State) : Host.Outcome State Fault Refusal :=
  match s.launch? launch with
  | none => happened s
  | some l =>
    match l.groups.find? (fun g => g.n == group) with
    | none => happened s
    | some g =>
      if g.arrived.isEmpty then happened s else
      if !(g.members.all (fun m => g.arrived.contains m || s.memberGone launch m)) then notYet s else
      let obj := 2 ^ 86 + launch * 256 + group
      let s := g.arrived.foldl (fun s m => s.release m.1 m.2 obj) s
      let s := s.modLaunch launch (fun l => { l with groups := l.groups.map (fun g =>
        if g.n = group then { g with arrived := [], phase := g.phase + 1 } else g) })
      happened (g.arrived.foldl (fun s m =>
        ((s.acquire m.1 m.2 obj).modThread m.1 m.2 (fun th => { th.countPhase group with call := [] })).grantTo m.1 m.2 [0]) s)

/-- The wait of a timed bundle of a thread is over (11 R313). -/
def State.timeUp (s : State) (k t : Nat) : Bool :=
  let th := s.thread k t
  !(th.wto == 0) && decide (th.wto.toNat ≤ s.waitClock k - th.parkT)

/-- BART_TIMEOUT: WTO has passed: the arrival is withdrawn and the status is 1; a phase that completes in the same cycle
gives 0 (11 R313). -/
def execBartTimeout (core thr : Nat) (s : State) : Host.Outcome State Fault Refusal :=
  let th := s.thread core thr
  match th.park with
  | .barrierTimed =>
    if th.grant.isSome then happened s else
    if !(s.timeUp core thr) then notYet s else
    (match s.launch? th.task.launch with
     | some l =>
       if l.groups.any (fun g => g.arrived.contains (core, thr % 8) &&
          g.members.all (fun m => g.arrived.contains m || s.memberGone th.task.launch m)) then notYet s
       else
         happened ((s.modLaunch th.task.launch (fun l => { l with groups := l.groups.map (fun g =>
           { g with arrived := g.arrived.filter (fun x => !(x == (core, thr % 8))) }) })).grantTo core thr [1])
     | none => happened s)
  | _ => happened s

/-- A thread's watch-table entry, when its cluster has one left (11 R319). -/
def State.watchOn (s : State) (k t : Nat) : State :=
  let cl := clusterOfCore k
  if (s.cluster cl).watch.contains (k, t % 8) then s else
  if (s.cluster cl).watch.length < 64 then s.modCluster cl (fun c => { c with watch := c.watch ++ [(k, t % 8)] })
  else s.postOnce (.waitwPoll k (t % 8))

/-- The plain load of a WAITW sent (11 R319). -/
def State.watchLoad (s : State) (a : Word) : State := s.takeEntry (s.newEntry .read 0x5B 0 0 a (piecesOf a 8) 0)

/-- WAITW (11 R319): it loads the word, and while the condition fails it waits on a watch-table entry. -/
def execWaitw (d a b : BitVec 6) (eq : Bool) (s : State) : Host.Outcome State Fault Refusal :=
  runSlot 0 [rn a, rn b] [rn d] (fun s =>
    let x := s.rs a
    let leave := fun (t : State) => (t.modCluster (clusterOfCore t.cur.core) (fun c =>
      { c with watch := c.watch.filter (fun w => !(w == (t.cur.core, t.cur.thr % 8))) })).modTh (fun th => { th with call := [] })
    match s.src.grant with
    | some [st] => .go (fun t => (leave t).ws d st)
    | some (w :: _) =>
      if (decide (w = s.rs b)) == eq then .go (fun t => (leave t).ws d 0)
      else if s.src.call = [2] then .go (fun t => (leave t).ws d 2)
      else .join (.watch x) (fun t => t.modTh (fun th => { th with grant := none }))
    | _ =>
      if !(x.toNat % 8 == 0) then .trap 7 x else
      match s.issueCheck .load 9 true x 8 none with
      | some (c, v) => .trap c v
      | none =>
        if s.src.accFull then .park .accessTable else
        .join (.watch x) (fun t =>
          let t := (t.watchOn t.cur.core t.cur.thr).watchLoad x
          let t := t.modTh (fun th => { th with parkT := t.waitClock t.cur.core })
          if s.src.wto = 0 then t else t.postOnce (.waitwTimeout t.cur.core (t.cur.thr % 8)))) s

/-- The word of a parked WAITW is loaded again, unless a load of it is on its way. -/
def State.reload (s : State) (k t : Nat) : Option State :=
  let th := s.thread k t
  match th.park with
  | .watch a =>
    if th.acc.any (fun e => decide (e.form = AccForm.read)) || th.accFull then none
    else some ((s.modThread k t (fun th => { th with grant := none })).asThread k t (fun s => s.watchLoad a))
  | _ => some s

/-- WATCH_WAKE: the word of a watch-table entry may have changed (11 R319). -/
def execWatchWake (core thr : Nat) (s : State) : Host.Outcome State Fault Refusal :=
  match (s.thread core thr).grant with
  | some [_] => happened s
  | _ =>
    match s.reload core thr with
    | some t => happened t
    | none => notYet s

/-- WAITW_POLL: a thread that found the watch table full loads its word every 1,024 cycles (11 R319). -/
def execWaitwPoll (core thr : Nat) (s : State) : Host.Outcome State Fault Refusal :=
  let th := s.thread core thr
  match th.park with
  | .watch _ =>
    if th.grant.isSome || s.clock < th.since + 1024 then notYet s else
    (match s.reload core thr with
     | some t => happened ((t.modThread core thr (fun th => { th with since := s.clock })).postOnce (.waitwPoll core thr))
     | none => notYet s)
  | _ => happened s

/-- WAITW_TIMEOUT: WTO has passed and no load is on its way: the status is 1; a condition met in the same cycle gives 0
(11 R319). -/
def execWaitwTimeout (core thr : Nat) (s : State) : Host.Outcome State Fault Refusal :=
  let th := s.thread core thr
  match th.park with
  | .watch _ =>
    if !(s.timeUp core thr) || th.grant.isSome || th.acc.any (fun e => decide (e.form = AccForm.read)) then notYet s
    else happened (s.grantTo core thr [1])
  | _ => happened s

end Sys2Proof.Machine
end

