-- ==== Sys2Proof/Machine/Tasks.lean ====
section
/-! DEFINITION. Tasks (11 R282 to R310; 04 R102 to R107): SPAWN, SYNC, TRET, THROW, END, YIELD, the steal search, ticket
loops and donation. -/

namespace Sys2Proof.Machine

/-- A logical die index inside a context's partition (13 R351, 01 R15). -/
def Ctx.hasDie (c : Ctx) (d : Nat) : Bool :=
  decide (c.lx0 ≤ d % 8) && decide (d % 8 ≤ c.lx1) && decide (c.ly0 ≤ d / 8) && decide (d / 8 ≤ c.ly1)

/-- Logical distance of two dies (01 R15). -/
def dieDistance (a b : Nat) : Nat := (a % 8 - b % 8) + (b % 8 - a % 8) + ((a / 8 - b / 8) + (b / 8 - a / 8))

/-- The launch of the issuing thread's task. -/
def State.launchOf (s : State) (k t : Nat) : Option Launch := s.launch? (s.thread k t).task.launch

/-- A plan that needs a frame: it waits, with a report, while the frame cannot be accessed (11 R288). -/
def needFrame (s : State) (fr : Word) (f : Nat → Plan) : Plan :=
  match s.frameAt s.cur.core fr with
  | none => .join .release (fun t => t.frameFault t.cur.core t.cur.thr fr)
  | some p => f p

/-- The die whose ready queue serves a whole context in deterministic mode (12 R337). -/
def Ctx.readyDie (c : Ctx) : Nat := c.ly0 * 8 + c.lx0

/-- The frame whose LINK names the next task placed on a die's ready queue: the queue's tail (11 R288). -/
def State.readyTail (s : State) (d : Nat) : Option Word := (s.cdie d).ready.getLast?.map (fun x => x.task.frame)

/-- A plan that writes the LINK of a queue's tail: it waits, with a report, while that frame cannot be accessed (11 R288). -/
def needTail (s : State) (d : Nat) (f : Plan) : Plan :=
  match s.readyTail d with
  | none => f
  | some fr => needFrame s fr (fun _ => f)

/-- A task placed at the tail of a die's ready queue: its record in its frame, chained through LINK (11 R288, R295). -/
def State.placeReady (s : State) (k d p : Nat) (c : Cont) : State :=
  let s := s.writeCont p c 0
  let s := match (s.readyTail d).bind (fun x => s.frameAt k x) with
    | some q => s.wrWake (q + 0x40) 8 c.task.frame.toNat
    | none => s
  s.modCDie d (fun x => { x with ready := x.ready ++ [c] })

/-- The registers a spawn takes into a record: sp, fp and s16 to s31 of the continuation, or s1 to s8 of a placed task (11 R295). -/
def spawnReads (d : BitVec 6) : List RegName :=
  if d = 0 then RegName.s 61 :: RegName.s 62 :: (List.range 16).map (fun i => RegName.s (16 + i))
  else (List.range 8).map (fun i => RegName.s (1 + i))

/-- The registers it writes: sp and fp of the child it enters (11 R292). -/
def spawnWrites (d : BitVec 6) : List RegName := if d = 0 then [.s 61, .s 62] else []

/-- SPAWN and SPAWNR (11 R295). -/
def runSpawn (d : BitVec 6) (reads : List RegName) (target : State → Word) (s : State) : Host.Outcome State Fault Refusal :=
  runSlot 0 (reads ++ spawnReads d) (spawnWrites d) (fun s =>
    let x := s.rs d
    let k := s.cur.core
    let thr := s.cur.thr % 8
    let pc := target s
    let F := s.src.task
    if !(bits pc 0 3 == 0) then .trap 6 pc else
    if !(d == 0) && !(bits x 7 57 == 0) then .trap 3 x else
    if !(d == 0) && !(match s.ctxOfCore k with | some c => c.hasDie x.toNat | none => false) then .trap 33 x else
    match s.launchOf k thr with
    | none => .trap 27 0
    | some l =>
      match s.own.takeFrame l.id with
      | none => .trap 27 (BitVec.ofNat 64 l.nf)
      | some (f, _) =>
        let take := fun (c : Core) => match c.takeFrame l.id with | some (_, c) => c | none => c
        let fr := l.frame k f
        let C : Task := { frame := fr, parent := F.frame, sidx := F.nspawn, nspawn := 0, kind := 0, pubmask := 0, tiles := 0,
                          pin := false, launch := l.id }
        let F' := { F with nspawn := F.nspawn + 1 }
        if d = 0 then
          if 64 ≤ s.own.dequeHeld then .join .dequeFull (spillTo 48 k 64) else
          let cont := { s.capture (s.src.pc + 8) F' with child := true }
          .go (fun t =>
            let t := ((t.modCore k take).release k thr (contObj F.frame)).pushDeque k thr cont
            t.modTh (fun th => { (((th.writeS 62 (l.stackTop k f)).writeS 61 fr)) with
              pc := pc, task := C, xh := 0, spawns := th.spawns + 1 }))
        else
          needFrame s F.frame (fun pf => needFrame s fr (fun pc' =>
            let place := fun (p : Plan) => if s.detAt k then p else needTail s (bits x 0 7) p
            let cont : Cont := { s.capture pc C with
              sp := l.stackTop k f, fp := fr, fpm := 0, wto := 0, saved := List.replicate 16 0, ranges := [],
              args := (List.range 8).map (fun i => s.src.readS (BitVec.ofNat 6 (1 + i))), fresh := true, rel := F.pubmask }
            place (.go (fun t =>
              let t := t.modCore k take
              let t := (((t.joinAdd pf true).frameTouch k F.frame pf).frameGood k thr).release k thr (contObj fr)
              let t := t.modTh (fun th => { th with task := F', spawns := th.spawns + 1 })
              if t.detAt k then
                t.modCtx (t.core k).owner (fun c => { c with reqs := c.reqs ++ [{ core := k, thr := thr, cont := cont }] })
              else t.placeReady k (bits x 0 7) pc' cont))))) s

/-- SPAWN (11 R295): the target is computed as JAL does. -/
def execSpawn (d : BitVec 6) (i : BitVec 19) (s : State) : Host.Outcome State Fault Refusal :=
  runSpawn d [rn d] (fun s => s.src.pc + sx i * 8) s

/-- SPAWNR (11 R295). -/
def execSpawnr (d a : BitVec 6) (s : State) : Host.Outcome State Fault Refusal := runSpawn d [rn d, rn a] (fun s => s.rs a) s

/-- PUBL (11 R294). -/
def execPubl (a b : BitVec 6) (s : State) : Host.Outcome State Fault Refusal :=
  runSlot 0 [rn a, rn b] [] (fun s =>
    let x := s.rs a
    let y := s.rs b
    if !(bits x 16 48 == 0) then .trap 3 x else
    if !(bits y 33 31 == 0) then .trap 3 y else
    .go (fun t => t.modTh (fun th => { th with task :=
      { th.task with pubmask := x.setWidth 16, tiles := y.setWidth 32, pin := bit y 32 } }))) s

/-- A continuation resumed on a thread, with the value of SYNC where it is a SYNC continuation (11 R292, R297): none while
its frame cannot be accessed. -/
def State.resumeCont (s : State) (k t : Nat) (c : Cont) : Option State :=
  match c.sync with
  | none =>
    some (((s.modThread k t (fun th => th.resume c)).drainOn k t).acquire k t (contObj c.task.frame))
  | some d =>
    match s.frameAt k c.task.frame with
    | none => none
    | some p =>
      let x := s.excValue p
      let c := { c with task := { c.task with nspawn := 0 } }
      let s := (((s.clearExc p).frameTouch k c.task.frame p).modThread k t (fun th => th.resume c)).drainOn k t
      some ((s.modThread k t (fun th => th.writeS d x)).acquire k t (frameObj c.task.frame))

/-- SYNC (11 R297). Its continuation resumes behind the join line, which carries what the task has done so far too (12 R340). -/
def execSync (d : BitVec 6) (s : State) : Host.Outcome State Fault Refusal :=
  runSlot 0 [] [rn d] (fun s =>
    if !s.src.pend.isEmpty then .park .pendingReg else
    let k := s.cur.core
    let thr := s.cur.thr % 8
    let F := s.src.task
    needFrame s F.frame (fun p =>
      let cont := { s.capture (s.src.pc + 8) F with sync := some d }
      if s.joinCount p = 0 then
        if s.was.mmasAny thr then .park .mmasOnStream else
        .go (fun t => ((t.frameGood k thr).resumeCont k thr cont).getD t)
      else
        .go (fun t =>
          let t := ((t.setJoin p (t.joinCount p) true (t.joinTerm p)).frameTouch k F.frame p).frameGood k thr
          let t := (t.writeCont p cont 0).release k thr (frameObj F.frame)
          (t.modLaunch F.launch (fun l => { l with susps := l.susps ++ [cont] })).goIdle k thr))) s

/-- The continuation a SYNC or a THROW left, by its frame. -/
def State.suspended (s : State) (launch : Nat) (fr : Word) : Option Cont :=
  (s.launch? launch).bind (fun l => l.susps.find? (fun c => c.task.frame == fr))

/-- That continuation taken. -/
def State.takeSuspended (s : State) (launch : Nat) (fr : Word) : State :=
  s.modLaunch launch (fun l => { l with susps := l.susps.filter (fun c => !(c.task.frame == fr)) })

/-- A root, ticket or donated task has ended (11 R287). -/
def State.countEnd (s : State) (task : Task) : State :=
  (s.modLaunch task.launch (fun l =>
    if task.kind = 1 then { l with rootsLeft := l.rootsLeft - 1 } else { l with tasks := l.tasks - 1 })).postOnce
      (.launchWorkEnd task.launch)

/-- How the end of a task goes: done, or held, with what the panel does while it is. -/
inductive EndAns where
  | done (s : State)
  | held (f : State → State)

/-- A thief that loses its claim searches on (11 R296, R301). -/
def State.loseClaim (s : State) (e : DqEntry) : State :=
  match e.claimed with
  | none => s
  | some (k, t) => (s.modThread k t (fun th => { th with steal := none })).postOnce (.stealSearch k (t % 8))

/-- The entry that a thread's child pops when it ends: the continuation of its parent that the thread pushed for it (11 R298). -/
def State.popEntry (s : State) (k t : Nat) (F : Task) : Option DqEntry :=
  (s.core k).deque.find? (fun e => e.cont.child && e.cont.task.frame == F.parent && e.cont.thr == t % 8 && e.cont.core == k &&
    e.cont.task.nspawn == F.sidx + 1 && e.cont.task.launch == F.launch)

/-- A claim made in this very cycle: the owner's pop wins over it (11 R296, R321). In a replay the log decides (12 R345). -/
def State.freshClaim (s : State) (k : Nat) (e : DqEntry) : Bool :=
  e.claimed.isSome && e.claimT == s.clock && !(s.detAt k) &&
    (match s.launch? e.cont.task.launch with | some l => l.rmode != 2 | none => true)

/-- The owner pops an entry and resumes its parent (11 R296, R298). A pop waits for a steal that has claimed the entry, and for the
thread that a replay has reserved its frame for (12 R345); a pop of a frame that a log names for a steal that has not been asked for yet is a
divergence, whichever of the frame's continuations that steal took (12 R346; DEDUCED, log 28). `busy`: the thread has an MMAS on a stream that the resumption would unbind. -/
def State.popTry (s : State) (busy : Bool) (k t : Nat) (e : DqEntry) : EndAns :=
  let fr := e.cont.task.frame
  let l? := s.launch? e.cont.task.launch
  if e.claimed.isSome && !(s.freshClaim k e) then .held id else
  if (match l? with | some l => l.reserved.any (fun x => x.1 == fr) | none => false) then .held id else
  match l?.bind (fun l => (s.loggedTake l fr).bind (fun x => if bit (s.rdw (x.1 + 24)) 1 then none else some (l.ctx, x))) with
  | some (id, p, a) => .held (fun s => s.diverge k id p (logWord 1 k t 0 (s.thread k t).rseq) fr a)
  | none =>
    if busy then .held id else
    match s.entryCont k e, s.removeEntry k e with
    | none, _ => .held (fun s => s.frameFault k t fr)
    | _, .error x => .held (fun s => s.frameFault k t x)
    | some c, .ok u =>
      match (u.loseClaim e).resumeCont k t c with
      | some v => .done v
      | none => .held (fun s => s.frameFault k t fr)

/-- The last child of a suspended task ends (R298): a PIN task goes back to the deque of its own core, a task of this core goes on
at once, and another is resumed here like a stolen one. -/
def State.joined (s : State) (busy : Bool) (k t : Nat) (P : Word) (c : Cont) : EndAns :=
  if c.task.pin then
    if 64 ≤ (s.core c.core).dequeHeld then .held (spillTo 48 c.core 64) else
    .done ((s.pushDeque c.core c.thr { c with pushT := s.time.setWidth 48 }).goIdle k t)
  else if c.core = k then
    if busy then .held id else
    match s.resumeCont k t c with
    | some u => .done u
    | none => .held (fun s => s.frameFault k t P)
  else
    .done ((s.modThread k t (fun th => { th with
      st := .idle, park := .none, grant := none,
      steal := some { cont := c, spilled := false, claimed := none, claimT := 0, logged := true, order := (0, 0, 0, 0) } })).postOnce
        (.stealResume k (t % 8)))

/-- A task ends on a thread after its release (11 R298, R299): its frame returns to its pool, and the thread resumes the
parent, or counts down at the parent's join line and resumes the SYNC it completes, or ends a parent that has thrown, or goes
idle. It is held, with a report, while a frame cannot be accessed (11 R288), and while the deque a pinned continuation is pushed to is
full (11 R290). -/
def endTask (busy : Bool) : Nat → Nat → Nat → Task → State → EndAns
  | 0, _, _, _, _ => .held id
  | n + 1, k, t, F, s =>
    match s.frameAt k F.frame with
    | none => .held (fun s => s.frameFault k t F.frame)
    | some p =>
      let s := s.returnFrame F.launch F.frame p
      let P := F.parent
      if P = 0 then .done ((s.countEnd F).goIdle k t) else
      match s.popEntry k t F with
      | some e => s.popTry busy k t e
      | none =>
        match s.frameAt k P with
        | none => .held (fun s => s.frameFault k t P)
        | some q =>
          let s := (((s.joinAdd q false).frameTouch k P q).releaseClock k (frameObj P) ((s.thread k t).clock k t)).newInterval k t
          if s.joinCount q != 0 then .done (s.goIdle k t) else
          if s.joinSusp q then
            match s.suspended F.launch P with
            | none => .done (s.goIdle k t)
            | some c =>
              let s := (s.setJoin q 0 false (s.joinTerm q)).takeSuspended F.launch P
              s.joined busy k t P (s.readCont k q c)
          else if s.joinTerm q then
            match s.suspended F.launch P with
            | none => .done (s.goIdle k t)
            | some c => endTask busy n k t c.task (s.takeSuspended F.launch P)
          else .done (s.goIdle k t)

/-- Parents that the end of a task can end in turn: each has suspended a continuation of the launch (11 R299). -/
def State.endFuel (s : State) (F : Task) : Nat := ((s.launch? F.launch).map (fun l => l.susps.length)).getD 0 + 2

/-- A plan that ends a task, waiting while it cannot. -/
def endPlan (s : State) (F : Task) (before : State → State) : Plan :=
  let k := s.cur.core
  let thr := s.cur.thr % 8
  let busy := s.was.mmasAny thr
  match endTask busy (s.endFuel F) k thr F (before s) with
  | .held f => .join .release f
  | .done _ => .go (fun t => match endTask busy (t.endFuel F) k thr F (before t) with
      | .done u => u
      | .held _ => t)

/-- TRET (11 R298). -/
def execTret (s : State) : Host.Outcome State Fault Refusal :=
  runSlot 0 [] [] (fun s =>
    if !s.src.pend.isEmpty then .park .pendingReg else
    if s.src.latch.isSome then .park .latchBusy else
    let F := s.src.task
    needFrame s F.frame (fun p =>
      if s.joinCount p != 0 then .trap 28 (BitVec.ofNat 64 (s.joinCount p)) else
      if s.releaseWaits s.cur.core s.cur.thr F.pubmask s.src.spawns then .park .release else
      endPlan s F (fun t => t.frameGood s.cur.core s.cur.thr))) s

/-- The exception store at a parent's join line: the lower spawn index is kept (11 R299). -/
def State.storeExc (s : State) (p : Nat) (sidx : BitVec 32) (x : Word) : State :=
  if sidx.toNat < (s.exci p).toNat then (s.wr (p + 0x208) 8 sidx.toNat).wrWake (p + 0x210) 8 x.toNat else s

/-- THROW (04 R102, 11 R299). -/
def execThrow (a : BitVec 6) (s : State) : Host.Outcome State Fault Refusal :=
  runSlot 0 [rn a] [] (fun s =>
    let x := s.rs a
    let k := s.cur.core
    let thr := s.cur.thr % 8
    let F := s.src.task
    if !(s.src.xh == 0) then .go (fun t => t.modTh (fun th => { th with xv := x, pc := s.src.xh, xh := 0 })) else
    if !(F.kind == 0 && !(F.parent == 0)) then .trap 38 x else
    needFrame s F.frame (fun p => needFrame s F.parent (fun q =>
      let throwIt := fun (t : State) => ((t.storeExc q F.sidx x).frameTouch k F.parent q).frameGood k thr
      if s.releaseWaits k thr F.pubmask s.src.spawns then .join .release throwIt else
      if s.joinCount p = 0 then endPlan s F throwIt else
      .go (fun t =>
        let t := (throwIt t).setJoin p (t.joinCount p) (t.joinSusp p) true
        let cont := s.capture (s.src.pc + 8) F
        (t.modLaunch F.launch (fun l => { l with susps := l.susps ++ [cont] })).goIdle k thr)))) s

/-- A thread retires: its groups may complete a phase, and its launch may end (11 R287, R312). What it did precedes the completion of its
launch (08 R218). -/
def State.retire (s : State) (k t : Nat) : State :=
  let th := s.thread k t
  let s := s.modThread k t (fun th => { th with st := .retired, park := .none, grant := none })
  match s.launch? th.task.launch with
  | none => s
  | some l => (l.groups.foldl (fun s g => s.postOnce (.barrierPhaseComplete l.id g.n)) (s.releaseClock k (launchObj l.id) (th.clock k t))).postAll
      [.launchWorkEnd l.id, .launchCompletion l.id]

/-- END (04 R104, R107). Which children are 'not yet joined by SYNC' the spec does not say further: the model takes JOIN.COUNT, so that a
child that has ended, popped or counted down, without a SYNC raises nothing (DESIGN CHOICE, log 25). -/
def execEndThread (s : State) : Host.Outcome State Fault Refusal :=
  runSlot 0 [] [] (fun s =>
    match s.src.mode with
    | .supervisor => .join .endParked (fun t => t.postOnce (.reportTaken t.cur.core))
    | .firmware =>
      (match s.src.grant with
       | some _ => .go id
       | none => .join .endParked id)
    | .user =>
      if !s.src.pend.isEmpty then .park .pendingReg else
      if s.src.latch.isSome then .park .latchBusy else
      let F := s.src.task
      let k := s.cur.core
      let thr := s.cur.thr % 8
      match s.launch? F.launch with
      | none => .go (fun t => t.retire k thr)
      | some _ =>
        needFrame s F.frame (fun p =>
          if s.joinCount p != 0 then .trap 28 (BitVec.ofNat 64 (s.joinCount p)) else
          if F.kind = 0 then .trap 28 0 else
          .go (fun t => (((t.frameGood k thr).returnFrame F.launch F.frame p).countEnd F).retire k thr))) s

/-- YIELD (11 R310): the continuation stands in its frame too (11 R288). -/
def execYield (s : State) : Host.Outcome State Fault Refusal :=
  runSlot 0 [] [] (fun s =>
    if !s.src.pend.isEmpty then .park .pendingReg else
    let k := s.cur.core
    let thr := s.cur.thr % 8
    if 64 ≤ s.own.dequeHeld then .join .dequeFull (spillTo 48 k 64) else
    let cont := s.capture (s.src.pc + 8) s.src.task
    needFrame s cont.task.frame (fun p =>
      .go (fun t =>
        let t := (((t.frameGood k thr).writeCont p cont 0).release k thr (contObj cont.task.frame)).pushDeque k thr cont
        (t.modTh (fun th => { th with spawns := th.spawns + 1 })).goIdle k thr))) s

/-- Chunks left in a die's share of a loop. -/
def Loop.left (l : Loop) (d : Nat) : Nat := (l.shares.filter (fun x => x.1 == d)).foldl (fun n x => n + (x.2.2 - x.2.1)) 0

/-- The lowest chunk of a die's share taken. -/
def takeLowest (d : Nat) : List (Nat × Nat × Nat) → Option (Nat × List (Nat × Nat × Nat))
  | [] => none
  | x :: r =>
    if x.1 = d && decide (x.2.1 < x.2.2) then some (x.2.1, (x.1, x.2.1 + 1, x.2.2) :: r)
    else (takeLowest d r).map (fun y => (y.1, x :: y.2))

/-- The nearest die with chunks left, ties to the lower index (11 R307). -/
def Loop.nearest (l : Loop) (d : Nat) : Option Nat :=
  (l.shares.filter (fun x => decide (x.2.1 < x.2.2))).foldl (fun b x =>
    match b with
    | none => some x.1
    | some y => if dieDistance d x.1 < dieDistance d y || (dieDistance d x.1 == dieDistance d y && decide (x.1 < y)) then some x.1
                else b) none

/-- A chunk handed out by a die's ticket unit (11 R307): from its own share, or after it has taken the upper half of the
nearest die's. -/
def Loop.grab (l : Loop) (d : Nat) : Option (Nat × Loop) :=
  match takeLowest d l.shares with
  | some (c, r) => some (c, { l with shares := r })
  | none =>
    match l.nearest d with
    | none => none
    | some y =>
      match l.shares.find? (fun x => x.1 == y && decide (x.2.1 < x.2.2)) with
      | none => none
      | some x =>
        let r := x.2.2 - x.2.1
        let n := if r = 1 then 1 else r / 2
        let keep := fun (z : Nat × Nat × Nat) => if z = x then (x.1, x.2.1, x.2.2 - n) else z
        some (x.2.2 - n, { l with shares := (l.shares.map keep) ++ [(d, x.2.2 - n + 1, x.2.2)] })

/-- The chunk of a first index removed from the shares, for a grant that a replay forces. -/
def Loop.removeChunk (l : Loop) (c : Nat) : Loop :=
  { l with shares := l.shares.flatMap (fun x =>
      if x.2.1 ≤ c && c < x.2.2 then [(x.1, x.2.1, c), (x.1, c + 1, x.2.2)] else [x]) }

/-- The first index of a chunk. -/
def Loop.indexOf (l : Loop) (c : Nat) : Word := BitVec.ofNat 64 (l.first + c * l.chunk)

/-- A loop of a launch changed. -/
def State.setLoop (s : State) (launch n : Nat) (x : Loop) : State :=
  s.modLaunch launch (fun l => { l with loops := l.loops.set n x })

/-- Ticket units' die: one counter per loop in deterministic mode (12 R337). -/
def State.ticketDie (s : State) (k : Nat) : Nat := if s.detAt k then 0 else dieOfCore k

/-- A parked TICKET is answered: the state, and the first index handed out or the mark of an exhausted loop (11 R308). -/
def State.ticketServe (s : State) (k t : Nat) (l : Launch) (n : Nat) (forced : Option Word) : State :=
  match l.loops[n]? with
  | none => s.grantTo k t [0x8000000000000000]
  | some x =>
    match forced with
    | some w =>
      let c := (w.toNat - x.first) / max 1 x.chunk
      (if w = 0x8000000000000000 then s else s.setLoop l.id n (x.removeChunk c)).grantTo k t [w]
    | none =>
      match x.grab (s.ticketDie k) with
      | none => s.grantTo k t [0x8000000000000000]
      | some (c, y) => (s.setLoop l.id n y).grantTo k t [x.indexOf c]

/-- TICKET (11 R308). -/
def execTicket (d a : BitVec 6) (s : State) : Host.Outcome State Fault Refusal :=
  runSlot 0 [rn a] [rn d] (fun s =>
    let x := s.rs a
    match s.src.grant with
    | some l => .go (putFirst d l)
    | none =>
      match (s.launchOf s.cur.core s.cur.thr).bind (fun l => (l.loops.zip (List.range l.loops.length)).find? (fun y => y.1.addr == x && !(x == 0))) with
      | none => .trap 29 x
      | some y => .join .ticket (fun t =>
          ((t.modTh (fun th => { th with call := [BitVec.ofNat 64 y.2] })).modCDie (t.ticketDie t.cur.core) (fun d =>
            { d with grabq := d.grabq ++ [(t.cur.core, t.cur.thr % 8)] })).postOnce (.ticketGrant t.cur.core (t.cur.thr % 8)))) s

/-- A parked TICKET served through the launch's log (12 R343 to R345): none while it waits. -/
def State.ticketTry (s : State) (k t : Nat) : State × Bool :=
  match s.launchOf k t with
  | none => (s, true)
  | some l =>
    let n := ((s.thread k t).call.getD 0 0).toNat
    let put := fun (s : State) => s.modThread k t (fun th => { th with call := [] })
    match s.logCheck k t 3 n with
    | .wait s => (s, false)
    | .free =>
      let s := (put s).ticketServe k t l n none
      (s.logServe k t 3 n (((s.thread k t).grant.getD []).headD 0), true)
    | .forced w => (((put s).ticketServe k t l n (some w)).logServe k t 3 n w, true)

/-- A TICKET that waits for its answer. -/
def Thread.asksTicket (th : Thread) : Bool := decide (th.park = Wait.ticket) && th.grant.isNone

/-- An idle thread without a task in hand, not stopped yet: a quantum's end serves its search though it is to stop then (12 R336; 14
R388). -/
def Thread.seeks (th : Thread) : Bool :=
  (match th.st with | .idle => true | .free | .running | .parked | .retired => false) && th.steal.isNone && !th.stopped

/-- An idle thread that may search. -/
def Thread.searches (th : Thread) : Bool :=
  th.seeks && !th.anyStop

/-- The threads whose grabs wait at a die's ticket unit, in arrival order. A grab of a replayed launch waits for its log, and holds no
other one (12 R345); one whose bundle's other slot would park has not come (02 R36). -/
def State.grabsAt (s : State) (d : Nat) : List (Nat × Nat) :=
  (s.cdie d).grabq.filter (fun x => (((s.thread x.1 x.2).asksTicket && !(s.isBlocked x.1 x.2)) || (s.thread x.1 x.2).searches) &&
    (match s.launchOf x.1 x.2 with | some l => l.rmode != 2 | none => true))

/-- A die's ticket unit has served no grab in this cycle (12 R331). -/
def State.unitFree (s : State) (d : Nat) : Bool := decide ((s.cdie d).grabT ≤ s.clock)

/-- It is a thread's turn at a die's ticket unit: the unit is free, and no grab that came before its own waits (12 R331). -/
def State.grabTurn (s : State) (d k t : Nat) : Bool :=
  s.unitFree d &&
    (match s.grabsAt d with
     | [] => true
     | x :: _ => x == (k, t % 8) || !((s.grabsAt d).contains (k, t % 8)))

/-- A chunk take of a steal engine has come to a die's ticket unit, behind the grabs that came before it (12 R331). -/
def State.joinGrab (s : State) (d k t : Nat) : State :=
  s.modCDie d (fun x => if x.grabq.contains (k, t % 8) then x else { x with grabq := x.grabq ++ [(k, t % 8)] })

/-- A thread has nothing to ask a ticket unit for. -/
def State.leaveGrab (s : State) (d k t : Nat) : State :=
  s.modCDie d (fun x => { x with grabq := x.grabq.filter (fun y => !(y == (k, t % 8))) })

/-- A grab served at a die's ticket unit. -/
def State.grabbed (s : State) (d k t : Nat) : State :=
  s.modCDie d (fun x => { x with grabq := x.grabq.filter (fun y => !(y == (k, t % 8))), grabT := s.clock + 1 })

/-- TICKET_GRANT: the die's ticket unit answers (11 R307, R308), one grab a cycle, in arrival order (12 R331). In deterministic mode the
end of the quantum does. -/
def execTicketGrant (core thr : Nat) (s : State) : Host.Outcome State Fault Refusal :=
  if !(s.thread core thr).asksTicket || s.detAt core then happened s else
  let d := s.ticketDie core
  if s.isBlocked core thr || !(s.grabTurn d core thr) then notYet s else
  match s.ticketTry core thr with
  | (t, true) => happened (t.grabbed d core thr)
  | (t, false) => notYet t

/-- The region check of a donation queue (11 R309). -/
def donateRegion (a : Word) : Bool :=
  match vaRegion a with
  | 0x8 | 0x9 | 0xB => true
  | _ => false

/-- DONATE (11 R309): its record is read, its release awaited, and the record placed at the queue's owning core. -/
def execDonate (a b : BitVec 6) (s : State) : Host.Outcome State Fault Refusal :=
  runSlot 0 [rn a, rn b] [] (fun s =>
    let x := s.rs a
    let y := s.rs b
    match s.src.grant with
    | some [_] => .go (fun t => t.modTh (fun th => { th with spawns := th.spawns + 1, call := [] }))
    | some l => .join .donation (fun t => (t.modTh (fun th => { th with grant := none, call := x :: l.take 8 })).postOnce
        (.donateRetry t.cur.core (t.cur.thr % 8)))
    | none =>
      if !(x.toNat % 64 == 0) then .trap 7 x else
      if !(y.toNat % 64 == 0) then .trap 7 y else
      if formatBad x || !(donateRegion x) then .trap 10 x else
      match s.issueCheck .store 10 true x 64 none with
      | some (c, v) => .trap c v
      | none =>
        match s.issueCheck .load 9 true y 64 none with
        | some (c, v) => .trap c v
        | none =>
          if s.src.accFull then .park .accessTable else
          .join .donation (fun t => (t.takeEntry (t.newEntry .read 0x56 0 0 y (piecesOf y 64) 0)).modTh (fun th =>
            { th with call := [], parkT := 0 }))) s

/-- A donation queue at its owning core: where it lies, CAP, HEAD and TAIL (11 R309). -/
def State.dqAt (s : State) (k : Nat) (a : Word) : Option (Nat × Nat × Nat × Nat) :=
  match s.place k .user .store a with
  | .ok p => some (p, (s.rdw p).toNat, (s.rdw (p + 8)).toNat, (s.rdw (p + 16)).toNat)
  | .error _ => none

/-- A parked DONATE placed, if its queue has room (11 R309). -/
def State.donateTry (s : State) (k t : Nat) : Option State :=
  match (s.thread k t).call with
  | a :: rec =>
    (match s.dqAt k a with
     | none => none
     | some (p, cap, hd, tl) =>
       if (tl + 2 ^ 64 - hd) % 2 ^ 64 < cap then
         let a' := p + 64 + 64 * (tl % max 1 cap)
         let s := ((s.wrWords a' rec).wakeWatchers a').wrWake (p + 16) 8 ((tl + 1) % 2 ^ 64)
         some ((s.release k t (contObj a)).grantTo k t [0])
       else none)
  | [] => none

/-- A DONATE whose record is read and not placed. -/
def Thread.donates (th : Thread) : Bool := decide (th.park = Wait.donation) && th.grant.isNone && !th.call.isEmpty

/-- DONATE_RETRY: the record is placed, or the full queue is tried again after 512 cycles (11 R309). -/
def execDonateRetry (core thr : Nat) (s : State) : Host.Outcome State Fault Refusal :=
  let th := s.thread core thr
  if !th.donates || s.detAt core then happened s else
  if s.releaseWaits core thr th.task.pubmask th.spawns then notYet s else
  if !(th.parkT == 0) && decide (s.clock < th.parkT + 512) then notYet s else
  match s.donateTry core thr with
  | some t => happened t
  | none => notYet (s.modThread core thr (fun th => { th with parkT := max 1 s.clock }))

/-- Work that a steal search finds (11 R301). -/
inductive Found where
  | entry (core : Nat) (e : DqEntry)
  | ready (die : Nat) (c : Cont)
  | chunk (loop : Nat)
  | record (queue : Word)

/-- An entry is not claimed, or in this very cycle by the engine of a higher cluster, which loses it (11 R301, R321). -/
def State.unclaimed (s : State) (k : Nat) (e : DqEntry) : Bool :=
  match e.claimed with
  | none => true
  | some (j, _) => e.claimT == s.clock && !(s.detAt k) && decide (clusterOfCore k < clusterOfCore j)

/-- An entry that a thread of a core may take for a launch (11 R301). -/
def State.takeable (s : State) (e : DqEntry) (launch k from_ : Nat) : Bool :=
  s.unclaimed k e && e.cont.task.launch == launch && (!e.cont.task.pin || k == from_)

/-- The oldest entry of a core's deque that may be taken. -/
def State.oldestEntry (s : State) (launch k from_ : Nat) : Option DqEntry :=
  let l := (s.core from_).deque.filter (fun e => s.takeable e launch k from_)
  if s.detAt k then
    l.foldl (fun b e => match b with
      | none => some e
      | some x => if decide (e.order.1 < x.order.1) || (e.order.1 == x.order.1 && (decide (e.order.2.1 < x.order.2.1) ||
          (e.order.2.1 == x.order.2.1 && (decide (e.order.2.2.1 < x.order.2.2.1) ||
            (e.order.2.2.1 == x.order.2.2.1 && decide (e.order.2.2.2 < x.order.2.2.2)))))) then some e else b) none
  else l.head?

/-- The age of a push in ticks, or in quanta (11 R301, 12 R337). -/
def State.ageOf (s : State) (k : Nat) (c : Cont) (order : Nat × Nat × Nat × Nat) : Nat :=
  if s.detAt k then s.quantumAt k - order.1 else ((s.time.setWidth 48) - c.pushT).toNat

/-- The oldest of a list of entries with their cores; the earlier one in the list wins a tie. -/
def State.oldestOf (s : State) (k : Nat) (l : List (Nat × DqEntry)) : Option (Nat × DqEntry) :=
  l.foldl (fun b x => match b with
    | none => some x
    | some y => if s.ageOf k y.2.cont y.2.order < s.ageOf k x.2.cont x.2.order then some x else b) none

/-- The oldest takeable entries of a list of cores. -/
def State.entriesOf (s : State) (launch k : Nat) (cores : List Nat) : List (Nat × DqEntry) :=
  cores.filterMap (fun c => (s.oldestEntry launch k c).map (fun e => (c, e)))

/-- Cores in the order of die index, then core index. -/
def byDie (l : List Nat) : List Nat := (List.range 128).flatMap (fun d => l.filter (fun k => dieOfCore k == d))

/-- The head of a die's ready queue among a launch's tasks. -/
def State.readyHead (s : State) (launch d : Nat) : Option Cont := (s.cdie d).ready.find? (fun c => c.task.launch == launch)

/-- A loop with a BODY that has chunks a die may hand out; a thread whose pool is empty takes none (11 R308). Which of several such loops
gives its chunk the spec does not say: the lowest LOOP number (DESIGN CHOICE, log 25). -/
def State.bodyLoop (s : State) (l : Launch) (k : Nat) (ok : Loop → Bool) : Option Nat :=
  if ((s.core k).takeFrame l.id).isNone then none else
  ((l.loops.zip (List.range l.loops.length)).find? (fun x => !(x.1.body == 0) && ok x.1)).map (fun x => x.2)

/-- Distance between two cores of a rectangle (12 R337). -/
def coreDistance (a b : Nat) : Nat := (coreX a - coreX b) + (coreX b - coreX a) + ((coreY a - coreY b) + (coreY b - coreY a))

/-- The head record's queue among the donation queues of a launch, in ascending number (11 R301 step 8). A record needs a frame as a chunk
does: a thread whose pool is empty takes none, which the spec says of chunks only (11 R308, R309; DESIGN CHOICE, log 25). -/
def State.donated (s : State) (l : Launch) (k : Nat) : Option Word :=
  if ((s.core k).takeFrame l.id).isNone then none else
  l.dqs.find? (fun a => !(a == 0) && (match s.dqAt k a with | some (_, _, hd, tl) => !(hd == tl) | none => false))

/-- The search of a steal engine (11 R301). In step 7 the head of a ready queue and a deque entry of one die that are of one age tie,
which the step's rule does not separate: the deque entry is taken (DESIGN CHOICE, log 25). -/
def State.searchPlain (s : State) (l : Launch) (k : Nat) (age : Nat) : Option Found :=
  let all := s.coresOf l.ctx
  let die := dieOfCore k
  let entry := fun (x : Nat × DqEntry) => Found.entry x.1 x.2
  let others := all.filter (fun c => !(c == k))
  let cluster := others.filter (fun c => clusterOfCore c == clusterOfCore k)
  let onDie := others.filter (fun c => dieOfCore c == die && !(clusterOfCore c == clusterOfCore k))
  let steps : List (Option Found) :=
    [ (if age = 0 then none else
        (s.oldestOf k ((s.entriesOf l.id k (byDie all)).filter (fun x => decide (age < s.ageOf k x.2.cont x.2.order)))).map entry),
      (s.oldestEntry l.id k k).map (fun e => Found.entry k e),
      (s.readyHead l.id die).map (fun c => Found.ready die c),
      (s.oldestOf k (s.entriesOf l.id k cluster)).map entry,
      (s.oldestOf k (s.entriesOf l.id k onDie)).map entry,
      (s.bodyLoop l k (fun x => decide (0 < x.left die))).map Found.chunk ]
  match steps.findSome? id with
  | some f => some f
  | none =>
    let far := (List.range 22).findSome? (fun j =>
      let dies := (List.range 128).filter (fun d => dieDistance d die == j + 1)
      let es := s.oldestOf k (s.entriesOf l.id k (byDie (all.filter (fun c => dies.contains (dieOfCore c)))))
      let rs := dies.filterMap (fun d => (s.readyHead l.id d).map (fun c => (d, c)))
      let r := rs.foldl (fun (b : Option (Nat × Cont)) x => match b with
        | none => some x
        | some y => if s.ageOf k y.2 (0, 0, 0, 0) < s.ageOf k x.2 (0, 0, 0, 0) then some x else b) none
      match es, r with
      | some e, some x =>
        let ea := s.ageOf k e.2.cont e.2.order
        let ra := s.ageOf k x.2 (0, 0, 0, 0)
        if ea < ra || (ea == ra && decide (x.1 < dieOfCore e.1)) then some (Found.ready x.1 x.2) else some (entry e)
      | some e, none => some (entry e)
      | none, some x => some (Found.ready x.1 x.2)
      | none, none => (s.bodyLoop l k (fun x => dies.any (fun d => decide (0 < x.left d)))).map Found.chunk)
    match far with
    | some f => some f
    | none => (s.donated l k).map Found.record

/-- The search in deterministic mode (12 R337). -/
def State.searchDet (s : State) (l : Launch) (c : Ctx) (k : Nat) (age : Nat) : Option Found :=
  let all := s.coresOf l.ctx
  let entry := fun (x : Nat × DqEntry) => Found.entry x.1 x.2
  let steps : List (Option Found) :=
    [ (if age = 0 then none else
        (s.oldestOf k ((s.entriesOf l.id k all).filter (fun x => decide (age < s.ageOf k x.2.cont x.2.order)))).map entry),
      (s.oldestEntry l.id k k).map (fun e => Found.entry k e),
      (s.readyHead l.id c.readyDie).map (fun x => Found.ready c.readyDie x),
      ((List.range 256).findSome? (fun j => (s.entriesOf l.id k (all.filter (fun x => coreDistance x k == j + 1))).head?)).map entry,
      (s.bodyLoop l k (fun x => decide (0 < x.left 0))).map Found.chunk,
      (s.donated l k).map Found.record ]
  steps.findSome? id

/-- The search for a thread. -/
def State.search (s : State) (l : Launch) (k : Nat) : Option Found :=
  match s.ctxOfCore k with
  | none => none
  | some c => if c.det then s.searchDet l c k c.stealAge.toNat else s.searchPlain l k c.stealAge.toNat

/-- What a replay forces a search to: the logged frame wherever it may be taken, the logged chunk, the logged queue
(12 R345). -/
def State.searchForced (s : State) (l : Launch) (k : Nat) (kind loop : Nat) (w : Word) : Option Found :=
  if kind = 1 then
    (s.coresOf l.ctx).findSome? (fun c => ((s.core c).deque.find? (fun e => e.cont.task.frame == w && e.claimed.isNone &&
      e.cont.task.launch == l.id)).map (fun e => Found.entry c e))
  else if kind = 2 then
    (List.range 128).findSome? (fun d => ((s.cdie d).ready.find? (fun c => c.task.frame == w && c.task.launch == l.id)).map (fun c => Found.ready d c))
  else if kind = 3 then (if ((s.core k).takeFrame l.id).isSome then some (Found.chunk loop) else none)
  else if kind = 5 then (s.donated { l with dqs := [w] } k).map Found.record
  else none

/-- The log's kind, loop and word of a find (12 R343). -/
def Found.logged (f : Found) (l : Launch) (s : State) (k : Nat) : Nat × Nat × Word :=
  match f with
  | .entry _ e => (1, 0, e.cont.task.frame)
  | .ready _ c => (2, 0, c.task.frame)
  | .chunk n => (3, n, match l.loops[n]?.bind (fun x => (x.grab (s.ticketDie k)).map (fun y => x.indexOf y.1)) with
      | some w => w
      | none => 0)
  | .record q => (5, 0, q)

/-- A new task of KIND 2 or 3 on a thread, with a frame of its core's pool (11 R308, R309). -/
def State.startFresh (s : State) (l : Launch) (k t kind : Nat) (pc : Word) (args : List Word) : State :=
  match (s.core k).takeFrame l.id with
  | none => s
  | some (f, own) =>
    let fr := l.frame k f
    let task : Task := { frame := fr, parent := 0, sidx := 0, nspawn := 0, kind := kind, pubmask := 0, tiles := 0, pin := false,
                         launch := l.id }
    let c : Cont := { task := task, pc := pc, sp := l.stackTop k f, fp := fr, fpm := 0, wto := 0, saved := [], ranges := [],
                      args := args, pushT := 0, sync := none, core := k, thr := t % 8, spawn := 0, fresh := true, child := false,
                      rel := 0 }
    let s := ((s.setCore k own).modThread k t (fun th => th.startTask c)).drainOn k t
    (s.modLaunch l.id (fun l => { l with tasks := l.tasks + 1 })).newInterval k t

/-- The take of a deque entry or of a ready task is logged, or matched with its log entry, when the task resumes: until then the claim
may be lost, or abandoned at a stop (11 R296, R301; 12 R343, R345). The end of a quantum logs at once. -/
def State.logsTake (s : State) (l : Launch) (k : Nat) : Bool := l.rmode != 0 && !(s.detAt k)

/-- The task before a task in a die's ready queue: its frame's LINK passes the task by when that is taken (11 R288). -/
def State.readyBefore (s : State) (d : Nat) (c : Cont) : Option Word :=
  ((s.cdie d).ready.takeWhile (fun x => !(decide (x = c)))).getLast?.map (fun x => x.task.frame)

/-- A find's queue cannot be relinked: the frame before it cannot be accessed (11 R288). -/
def State.linkBad (s : State) (k : Nat) (f : Found) : Option Word :=
  match f with
  | .ready d c => (s.readyBefore d c).filter (fun fr => (s.frameAt k fr).isNone)
  | .entry _ _ | .chunk _ | .record _ => none

/-- A ready queue relinked around a task that is taken (11 R288). -/
def State.relinkReady (s : State) (k d : Nat) (c : Cont) : State :=
  match (s.readyBefore d c).bind (fun fr => s.frameAt k fr) with
  | none => s
  | some q =>
    let next := (((s.cdie d).ready.dropWhile (fun x => !(decide (x = c)))).drop 1).head?.map (fun x => x.task.frame)
    s.wrWake (q + 0x40) 8 (next.getD 0).toNat

/-- A find claimed by an idle thread: an entry or a ready task waits for its release; a chunk or a record starts its task at
once (11 R295, R301, R303). -/
def State.claim (s : State) (l : Launch) (k t : Nat) (f : Found) (forced : Option Word) : State :=
  let s := s.modLaunch l.id (fun l => { l with reserved := l.reserved.filter (fun x => !(x.2 == (k, t % 8))) })
  match f with
  | .entry c e =>
    let e' := { e with claimed := some (k, t % 8), claimT := s.clock, logged := !(s.logsTake l k) }
    let mark := fun (x : DqEntry) => if x = e then e' else x
    (((s.loseClaim e).modCore c (fun x => { x with deque := x.deque.map mark })).modThread k t (fun th => { th with steal := some e' })).postOnce
      (.stealResume k (t % 8))
  | .ready d c =>
    let e : DqEntry := { cont := c, spilled := true, claimed := some (k, t % 8), claimT := s.clock, logged := !(s.logsTake l k),
                         order := (d, 0, 0, 0) }
    (((s.relinkReady k d c).modCDie d (fun x => { x with ready := x.ready.erase c })).modThread k t (fun th => { th with steal := some e })).postOnce
      (.stealResume k (t % 8))
  | .chunk n =>
    match l.loops[n]? with
    | none => s
    | some x =>
      match forced with
      | some w => (s.setLoop l.id n (x.removeChunk ((w.toNat - x.first) / max 1 x.chunk))).startFresh l k t 2 x.body [w, x.addr]
      | none =>
        match x.grab (s.ticketDie k) with
        | none => s
        | some (c, y) => ((s.setLoop l.id n y).grabbed (s.ticketDie k) k t).startFresh l k t 2 x.body [x.indexOf c, x.addr]
  | .record q =>
    match s.dqAt k q with
    | none => s
    | some (p, cap, hd, _) =>
      let a := p + 64 + 64 * (hd % max 1 cap)
      let words := (List.range 8).map (fun i => s.rdw (a + 8 * i))
      ((s.wrWake (p + 8) 8 ((hd + 1) % 2 ^ 64)).startFresh l k t 3 (words.headD 0) (words.drop 1)).acquire k t (contObj q)

/-- A find whose take is logged only when it resumes. -/
def Found.deferred : Found → Bool
  | .entry _ _ | .ready _ _ => true
  | .chunk _ | .record _ => false

/-- A find that its engine takes at the die's ticket unit (12 R331). -/
def State.takesUnit (s : State) (k : Nat) (f : Found) : Bool :=
  match f with
  | .chunk _ => !(s.detAt k)
  | .entry _ _ | .ready _ _ | .record _ => false

/-- A frame reserved for a thread of a replayed launch (12 R345). -/
def State.reserveFrame (s : State) (launch : Nat) (fr : Word) (k t : Nat) : State :=
  s.modLaunch launch (fun l => if l.reserved.contains (fr, k, t % 8) then l else { l with reserved := l.reserved ++ [(fr, k, t % 8)] })

/-- The frame of an idle thread's own next entry reserved, where a log has it behind entries of others (12 R345). -/
def State.reserveAhead (s : State) (l : Launch) (k t : Nat) (seg : Nat × Word × Word) : State :=
  match (s.logEntries k seg).find? (fun e => logIsFor e.2.1 k t (s.thread k t).rseq) with
  | some e => if bits e.2.1 0 4 = 1 then s.reserveFrame l.id e.2.2 k t else s
  | none => s

/-- A search of an idle thread in a replay (12 R344 to R346): it takes what the next entry of its die's log names, waiting until it may.
The frame of its own next entry is reserved for it from then on, wherever in the log that entry stands. A search that finds work while the segment is exhausted raises RECORD_LOG_FULL; one that finds work
while the next entry is the thread's and of no take, and no ordered operation of it is left, or work that no owner pops while no log of
the launch has an entry left, is a divergence. -/
def State.searchReplay (s : State) (l : Launch) (k t : Nat) : State × Option Bool :=
  match s.logSegment l k with
  | none => (s, none)
  | some seg =>
    let split := fun (a : Word) (f : Found) =>
      let (kind, loop, w) := f.logged l s k
      (s.diverge k l.ctx seg.1 (logWord kind k t loop (s.thread k t).rseq) w a, (none : Option Bool))
    match s.logEntry k seg, s.search l k with
    | none, none => (s, some false)
    | none, some f =>
      if seg.2.2.toNat < seg.2.1.toNat + 16 then (s.logFull k l.ctx seg.1 (l.logTable k), none) else
      (match f with
       | .entry _ _ => (s, some false)
       | f => if s.logsLeft l then (s, some false) else split (l.logTable k) f)
    | some (a, w0, w1), f =>
      if !(logIsFor w0 k t (s.thread k t).rseq) then (s.reserveAhead l k t seg, some false) else
      let kind := bits w0 0 4
      let loop := bits w0 7 3
      if [1, 2, 3, 5].contains kind then
        match s.searchForced l k kind loop w1 with
        | some g =>
          if let some fr := s.linkBad k g then (s.frameFault k t fr, none) else
          let u := s.claim l k t g (some w1)
          (if g.deferred && s.logsTake l k then u else u.logServe k t kind loop w1, some true)
        | none => (if kind == 1 then s.reserveFrame l.id w1 k t else s, none)
      else
        match f with
        | some g => if (s.ordOps k t).isEmpty then split a g else (s, some false)
        | none => (s, some false)

/-- One search of an idle thread (11 R301): found and claimed, nothing found, or held: by the log, by the ticket unit, or while an MMAS is
on a stream that a new task would unbind (10 R268, 11 R292). -/
def State.searchTry (s : State) (k t : Nat) : State × Option Bool :=
  match s.launchOf k t with
  | none => (s, some true)
  | some l =>
    if (s.core k).mmasAny t then (s, none) else
    if l.rmode = 2 then s.searchReplay l k t else
    let d := s.ticketDie k
    match s.search l k with
    | none => (s.leaveGrab d k t, some false)
    | some f =>
      let s := if s.takesUnit k f then s.joinGrab d k t else s.leaveGrab d k t
      if s.takesUnit k f && !(s.grabTurn d k t) then (s, none) else
      if let some fr := s.linkBad k f then (s.frameFault k t fr, none) else
      let (kind, loop, w) := f.logged l s k
      match s.logCheck k t kind loop with
      | .wait s => (s, none)
      | .free => ((if f.deferred && s.logsTake l k then s else s.logServe k t kind loop w).claim l k t f none, some true)
      | .forced _ => (s, none)

/-- The searches that have arrived at a cluster's steal engine and are not done, in arrival order (12 R331). -/
def State.searchesAt (s : State) (cl : Nat) : List (Nat × Nat) :=
  (s.cluster cl).searchq.filter (fun x => (s.thread x.1 x.2).searches)

/-- A search arrives at its cluster's steal engine. -/
def State.joinSearch (s : State) (k t : Nat) : State :=
  s.modCluster (clusterOfCore k) (fun c => { c with
    searchq := c.searchq.filter (fun x => (s.thread x.1 x.2).searches && !(x == (k, t % 8))) ++ [(k, t % 8)] })

/-- A search leaves its cluster's steal engine. -/
def State.leaveSearch (s : State) (k t : Nat) : State :=
  s.modCluster (clusterOfCore k) (fun c => { c with searchq := c.searchq.filter (fun x => !(x == (k, t % 8))) })

/-- The steal engine of a cluster has taken up a search: it does at most 4 at once, in arrival order (12 R331). A search of a replayed
launch waits for its log, and holds no other one. -/
def State.takenUp (s : State) (k t : Nat) : Bool :=
  let plain := fun (x : Nat × Nat) => match s.launchOf x.1 x.2 with
    | some l => l.rmode != 2
    | none => true
  !(plain (k, t)) || (((s.searchesAt (clusterOfCore k)).filter plain).take 4).contains (k, t % 8)

/-- STEAL_SEARCH: the cluster's steal engine searches for an idle thread (11 R301; 12 R331). In deterministic mode the end of the
quantum does. -/
def execStealSearch (core thr : Nat) (s : State) : Host.Outcome State Fault Refusal :=
  if !(s.thread core thr).searches || s.detAt core then happened s else
  let s := if (s.cluster (clusterOfCore core)).searchq.contains (core, thr % 8) then s else s.joinSearch core thr
  if !(s.takenUp core thr) then notYet s else
  match s.searchTry core thr with
  | (t, some true) => happened (t.leaveSearch core thr)
  | (t, some false) =>
    happened (((t.leaveSearch core thr).modThread core thr (fun th => { th with parkT := s.clock })).postOnce (.stealSearchRetry core thr))
  | (t, none) => notYet t

/-- STEAL_SEARCH_RETRY: an engine that found nothing searches again after 64 cycles (11 R301). -/
def execStealSearchRetry (core thr : Nat) (s : State) : Host.Outcome State Fault Refusal :=
  let th := s.thread core thr
  if !th.searches then happened s else
  if s.clock < th.parkT + 64 then notYet s else happened (s.postOnce (.stealSearch core thr))

/-- The tiles of a mask. -/
def tileList (m : BitVec 32) : List Nat := (List.range 32).filter (fun i => m.getLsbD i)

/-- Published tiles copied with their shapes to the same numbers of another core (11 R303). -/
def State.copyTiles (s : State) (a b : Nat) (l : List Nat) : State :=
  l.foldl (fun s t =>
    let c := s.core a
    s.modCore b (fun x =>
      let x := (List.range 32).foldl (fun x r => x.setTileRow t r (c.tileRow t r)) x
      { x with tsh := x.tsh.set (t % 32) (c.shape t) (Nat.mod_lt _ (by decide)) })) s

/-- Stolen or placed work resumes on a thread once its release is complete, the join increment has taken effect and its published tiles
have been copied (11 R295, R296, R303, R305): the state after it, or the state in which it waits. -/
def State.resumeSteal (s : State) (core thr : Nat) (e : DqEntry) : Except State State :=
  let c := e.cont
  if s.releaseWaits c.core c.thr c.rel c.spawn || (s.core core).mmasAny thr then .error s else
  match s.entryCont core e with
  | none => .error (s.frameFault core thr c.task.frame)
  | some c =>
    if c.fresh then
      .ok ((((s.modThread core thr (fun th => th.startTask c)).drainOn core thr).acquire core thr
        (contObj c.task.frame)).frameGood core thr)
    else
      let tiles := if c.core = core then [] else tileList c.task.tiles
      if tiles.any (fun t => (s.core c.core).isW t || (s.core core).isW t || (s.core core).isBusy core t) then .error s else
      match s.frameAt core c.task.frame with
      | none => .error (s.frameFault core thr c.task.frame)
      | some p =>
        let s' := if c.child then (s.joinAdd p true).frameTouch core c.task.frame p else s
        let s' := (s'.copyTiles c.core core tiles).frameGood core thr
        match if e.claimed.isSome then s'.removeEntry c.core e else .ok s' with
        | .error x => .error (s.frameFault core thr x)
        | .ok u =>
          match u.resumeCont core thr c with
          | some v => .ok v
          | none => .error (s.frameFault core thr c.task.frame)

/-- STEAL_RESUME: stolen or placed work resumes (11 R303), not in the cycle of its claim, in which the owner's pop may still win (11
R296); a recorded or replayed launch logs the take then (12 R343, R345). -/
def execStealResume (core thr : Nat) (s : State) : Host.Outcome State Fault Refusal :=
  let th := s.thread core thr
  match th.steal with
  | none => happened s
  | some e =>
    if th.stopped || (e.claimed.isSome && decide (s.clock ≤ e.claimT) && !(s.detAt core)) then notYet s else
    let kind := if e.cont.fresh then 2 else 1
    match if e.logged then LogAnswer.free else s.logCheck core thr kind 0 with
    | .wait t => notYet t
    | _ =>
      match s.resumeSteal core thr e with
      | .error t => notYet t
      | .ok t => happened (if e.logged then t else t.logServe core thr kind 0 e.cont.task.frame)

end Sys2Proof.Machine
end

