-- ==== Sys2Proof/Machine/Save.lean ====
section
/-! DEFINITION. The groundsheet (14 R391 to R399): the layout of core and thread records, saving and restoring cores, and
passing a core to a context (13 R352, R353). -/

namespace Sys2Proof.Machine

/-- The rank of a user core among the user cores of a context's partition, in ascending core index (14 R391). -/
def Ctx.userRank (c : Ctx) (k : Nat) : Nat :=
  let w := c.lx1 + 1 - c.lx0
  let x := coreX k - 16 * c.lx0
  let y := coreY k - 8 * c.ly0
  y * (16 * w) + x - (y / 8 * w + if y % 8 = 7 then x / 16 else 0)

/-- The user cores of a partition on this panel (14 R391). -/
def Ctx.userCount (c : Ctx) : Nat := (c.lx1 + 1 - c.lx0) * (c.ly1 + 1 - c.ly0) * 127

/-- Where a core's record lies in memory (14 R391). -/
def Ctx.recordAt (c : Ctx) (k : Nat) : Nat := physLpddr (c.gsb.toNat + 0x100000 * (1 + c.userRank k))

/-- A field of a record: its offset, its bytes and its value (14 R392 to R396). -/
abbrev Field := Nat × Nat × Nat

/-- Words one after another from an offset on. -/
def wordFields (off : Nat) (l : List Word) : List Field := (l.zip (List.range l.length)).map (fun x => (off + 8 * x.2, 8, x.1.toNat))

/-- The bytes of fields. -/
def fieldCells (l : List Field) : Memory := l.foldl (fun m f => writeBytes m f.1 f.2.1 f.2.2) []

/-- KSTAT (02 R62). -/
def Thread.kstat (th : Thread) : Word := BitVec.ofNat 64 (th.mode.level + th.pmode.level * 4 + if th.intrap then 16 else 0)

/-- KSTAT written whole, MODE included (14 R395). -/
def Thread.setKstat (th : Thread) (x : Word) : Thread :=
  { th with mode := Mode.ofLevel (bits x 0 2), pmode := Mode.ofLevel (bits x 2 2), intrap := bit x 4 }

/-- LATCH (02 R62). -/
def Thread.latchWord (th : Thread) : Word :=
  match th.latch with
  | none => 0
  | some l => BitVec.ofNat 64 (1 + (if l.sent then 2 else 0) + (if l.armed then 4 else 0) + l.op.toNat * 2 ^ 3 + l.fn.toNat * 2 ^ 10 +
      l.d.toNat * 2 ^ 17)

/-- EST (02 R58). -/
def Core.est (c : Core) : Word :=
  BitVec.ofNat 64 ((if c.copies.isEmpty && c.batches.isEmpty then 0 else 1) + (if c.cfault then 2 else 0) + (if c.mq.isEmpty && c.drains.isEmpty then 0 else 4) +
    (if c.mfault then 8 else 0) + (if c.drains.any (fun d => decide (d.offered < d.rows)) && c.drnList.isEmpty then 16 else 0) +
    c.cdone.toNat * 2 ^ 8 + c.cnext.toNat * 2 ^ 24)

/-- STATE of a thread record (14 R395). -/
def Thread.stateNum (th : Thread) : Nat :=
  if th.held.isSome then 5 else
  match th.st with | .free => 0 | .running => 1 | .parked => 2 | .idle => 3 | .retired => 4

/-- The state word of a thread record (14 R395). -/
def Thread.stateWord (th : Thread) (dbg : Bool) : Nat :=
  th.stateNum + (if th.stopS then 8 else 0) + (if th.stopF then 16 else 0) + (if th.stopD then 32 else 0) + if dbg then 64 else 0

/-- The bit that stands for a piece in the mask of elements performed (14 R395): its element for VLDX and VSTX, else its place among
the pieces of the access. -/
def AccEntry.maskBit (e : AccEntry) (pieces : List Piece) (x : Piece) : Nat :=
  if e.op = 0x37 || e.op = 0x38 then x.off / 2 ^ (e.fn.toNat / 2 % 4) else (pieces.filter (fun y => decide (y.off < x.off))).length

/-- The elements of an access that have been performed (14 R395). -/
def AccEntry.doneMask (e : AccEntry) : Nat := (e.pieces.take e.done).foldl (fun m p => Nat.lor m (2 ^ e.maskBit e.pieces p)) 0

/-- The data of an access: for a message its words (14 R395). -/
def AccEntry.payload (e : AccEntry) : Nat :=
  match e.form with
  | .msg _ w _ => packElems 64 (w.map (fun x => x.toNat))
  | .load _ _ | .loadPair | .store | .vload | .vstore | .sto | .fe | .read | .clean _ => e.data.toNat

/-- An access entry of a thread record (14 R395). -/
def AccEntry.fields (off : Nat) (e : AccEntry) : List Field :=
  [(off, 8, e.op.toNat + e.fn.toNat * 2 ^ 7 + e.d % 64 * 2 ^ 14 + e.seq.toNat * 2 ^ 20 + (if e.held.isSome then 1 else 2) * 2 ^ 36 +
      e.held.getD 0 * 2 ^ 38),
   (off + 8, 8, e.addr.toNat), (off + 16, 16, e.doneMask), (off + 32, 128, e.payload), (off + 160, 128, e.offs.toNat)]

/-- A latch of a thread record (14 R395). -/
def Latch.fields (off : Nat) (l : Latch) : List Field :=
  [(off + 8, 8, l.addr.toNat), (off + 16, 16, l.operand.toNat), (off + 32, 16, l.expected.toNat),
   (off + 48, 8, l.cause.getD 0 + l.seq.toNat * 2 ^ 6)]

/-- The records of a stream that stand in its buffer at a save: what has arrived, or what is still to be sent (14 R395). -/
def Stream.keptRecs (w : Stream) : List StreamRec :=
  if w.writing then w.recs else (w.recs.drop (w.head - w.first)).takeWhile (fun r => r.arrived)

/-- A stream of a thread record (14 R395). -/
def Stream.fields (off data : Nat) (w : Stream) : List Field :=
  wordFields off [w.base, w.shape, BitVec.ofNat 64 (w.head % 2 ^ 32 + w.keptRecs.length % 8 * 2 ^ 32 + (if w.bound then 2 ^ 35 else 0) +
    if w.writing then 2 ^ 36 else 0)] ++
  (w.keptRecs.zip (List.range 4)).map (fun x => (data + 128 * x.2, 128, x.1.data.toNat))

/-- The TASK words of a thread record (14 R396). -/
def State.taskFields (s : State) (k t off : Nat) : List Field :=
  let th := s.thread k t
  let fence := th.fence.filter (fun f => s.fenceWaits k t f)
  let kind := fun (f : Fence) => match f.kind with | .acq => 0 | .rel => 1 | .acqrel => 2 | .seq => 3
  wordFields off
    [th.task.frame,
     if s.detAt k then th.qseq.setWidth 64 else th.oseq.setWidth 64,
     BitVec.ofNat 64 th.retired,
     BitVec.ofNat 64 (packElems 16 (th.phases.map (fun n => n % 2 ^ 16))),
     BitVec.ofNat 64 (th.spawns % 2 ^ 32)] ++
  (match fence with
   | some f => wordFields (off + 40) [BitVec.ofNat 64 (1 + kind f * 2 + (if f.e then 8 else 0) + if f.m then 16 else 0),
       f.mask.setWidth 64, f.scope]
   | none => [])

/-- A thread record (14 R395, R396). A poisoned register is written as zero (15 R402). -/
def State.threadFields (s : State) (k t off : Nat) (dbg : Bool) : List Field :=
  let th := s.thread k t
  let bad := fun (r : RegName) => (s.core k).poison.contains (.reg (t % 8) r)
  [(off, 8, th.stateWord dbg), (off + 8, 8, th.pc.toNat)] ++
  (th.s.toList.zip (List.range 64)).map (fun x => (off + 0x10 + 8 * x.2, 8, if x.2 = 0 || bad (.s x.2) then 0 else x.1.toNat)) ++
  wordFields (off + 0x210) th.ssup.toList ++
  (th.q.toList.zip (List.range 8)).map (fun x => (off + 0x240 + 16 * x.2, 16, if bad (.q x.2) then 0 else (th.readQ (BitVec.ofNat 3 x.2)).toNat)) ++
  wordFields (off + 0x2C0) [th.fpm, th.fpf, th.rngk, th.srseq, th.xh, th.xv, th.wto, th.grp, th.twin, th.dbgc, th.kstat, th.kcause, th.kepc, th.kval] ++
  s.taskFields k t (off + 0x340) ++
  (th.v.toList.zip (List.range 32)).map (fun x => (off + 0x400 + 128 * x.2, 128, if bad (.v x.2) then 0 else x.1.toNat)) ++
  (th.ranges.toList.zip (List.range 16)).flatMap (fun x => wordFields (off + 0x1400 + 16 * x.2) x.1.words) ++
  (th.streams.toList.zip (List.range 8)).flatMap (fun x => x.1.fields (off + 0x1500 + 32 * x.2) (off + 0x3000 + 512 * x.2)) ++
  (th.acc.zip (List.range 16)).flatMap (fun x => x.1.fields (off + 0x1600 + 288 * x.2)) ++
  [(off + 0x2800, 8, th.latchWord.toNat)] ++
  (match th.latch with | some l => l.fields (off + 0x2800) | none => [])

/-- A matrix-queue entry of a core record (14 R394). -/
def MatOp.fields (off : Nat) (o : MatOp) : List Field :=
  let m := matSpec o.instr
  let four := match o.instr with | .mmag _ _ _ true _ => 8 | _ => 0
  let e := (matCmd o.instr).getD { wsem := 0, wthr := 0, ssem := 0, sinc := 0 }
  [(off, 8, matOpCode o.instr + m.d * 2 ^ 7 + m.a * 2 ^ 12 + m.b * 2 ^ 17 + (match matStream o.instr with | some w => w.toNat | none => 0) * 2 ^ 22 +
      (mflagsCode m.f + four) * 2 ^ 25 + o.thr % 8 * 2 ^ 29 +
      (e.wsem.toNat + e.wthr.toNat * 2 ^ 8 + e.ssem.toNat * 2 ^ 16 + e.sinc.toNat * 2 ^ 24) * 2 ^ 32 + if o.waitMet then 2 ^ 60 else 0),
   (off + 8, 8, o.tshd.toNat), (off + 16, 8, o.tsha.toNat), (off + 24, 8, o.tshb.toNat), (off + 32, 8, o.twin.toNat),
   (off + 40, 8, o.groups % 2 ^ 16 + o.entry % 64 * 2 ^ 16 + o.dense % 256 * 2 ^ 22 + if o.started then 2 ^ 30 else 0),
   (off + 48, 8, o.seq.toNat + (o.gang.foldl (fun n k => Nat.lor n (2 ^ gangPos k)) 0) * 2 ^ 16)]

/-- The elements of one count of a command's `next`: TLD and TLDW count whole tile rows. -/
def CopyCmd.grain (c : CopyCmd) : Nat :=
  match c.instr with
  | .tld .. | .tldw .. => max 1 (tshElems c.tsh)
  | _ => 1

/-- A copy-queue entry of a core record (14 R394). -/
def CopyCmd.fields (off : Nat) (c : CopyCmd) : List Field :=
  [(off, 8, (encode c.instr).getD 0), (off + 8, 8, c.va.toNat), (off + 16, 8, c.vb.toNat), (off + 24, 8, c.vc.toNat),
   (off + 32, 8, c.next * c.grain),
   (off + 40, 8, c.state % 4 + c.batch % 2 ^ 16 * 2 ^ 2 + (if c.closed then 2 ^ 18 else 0) + c.fault % 8 * 2 ^ 19 + c.thr % 8 * 2 ^ 22)] ++
  wordFields (off + 64) c.dst ++ wordFields (off + 128) c.src

/-- The matrix-queue entries of a record: drained operations with rows not yet released, then the queue (07 R176; 14 R393). -/
def Core.mqEntries (c : Core) : List MatOp := c.drains.map (fun d => d.op) ++ c.mq

/-- The frame numbers of a core's free stack, top last (14 R393). -/
def Core.poolFrames (c : Core) : List Nat := (c.pool.map (fun x => x.2)).reverse

/-- The LPDDR6 address of block `j` of a core's inbox overflow chain: 64 KiB aligned, the choice of firmware (14 R393; log 6). -/
def chainBlock (k j : Nat) : Nat := (Config.overflowChain (k + 16384 * j)).toNat % 2 ^ 41 / 65536 * 65536

/-- The messages of a block of the chain: 72 bytes each behind the link, the number of words and then 8 words (14 R393; log 6). -/
def chainRoom : Nat := 910

/-- The fields of a core record but for its tiles, its scratchpad and its threads (14 R393). -/
def State.coreFields (s : State) (k : Nat) : List Field :=
  let c := s.core k
  let spilled := c.deque.filter (fun e => e.spilled)
  [(0, 8, 1), (8, 8, c.est.toNat), (0x10, 8, spilled.length), (0x18, 8, match spilled with | e :: _ => e.cont.task.frame.toNat | [] => 0),
   (0x20, 8, c.pool.length), (0x28, 8, c.mseq.toNat + c.mqEntries.length % 16 * 2 ^ 16), (0x30, 8, c.copies.length % 32),
   (0x38, 8, c.inbox.length % 128), (0x40, 8, if c.overflow.isEmpty then 0 else chainBlock k 0), (0x48, 8, c.overflow.length),
   (0x50, 8, c.reports.length)] ++
  wordFields 0x100 c.tsh.toList ++
  (c.sems.toList.zip (List.range 256)).map (fun x => (0x200 + 2 * x.2, 2, x.1.toNat)) ++
  (c.mqEntries.zip (List.range 8)).flatMap (fun x => x.1.fields (0x400 + 64 * x.2)) ++
  (List.range 8).map (fun t => (0x600 + 8 * t, 8, match c.granted? t with | some (d, r) => (rowDesc d r).toNat | none => 0)) ++
  (c.drains.zip (List.range 8)).map (fun x => (0x640 + 8 * x.2, 8, x.1.rel.foldl (fun n r => Nat.lor n (2 ^ (r % 64))) 0)) ++
  [(0x1000, 4096, c.fe.foldl (fun n w => Nat.lor n (2 ^ w)) 0)] ++
  (c.inbox.zip (List.range 64)).flatMap (fun x => wordFields (0x2000 + 64 * x.2) (x.1.words.take 8)) ++
  (c.reports.zip (List.range 64)).flatMap (fun x => wordFields (0x3000 + 16 * x.2) [BitVec.ofNat 64 x.1.1, x.1.2]) ++
  (c.refuse.zip (List.range 64)).map (fun x => (0x3400 + 4 * x.2, 4, x.1.2 + x.1.1 % 2 ^ 14 * 2 ^ 3 +
    (if x.1.1 < 2 ^ 14 then s.panel.toNat else x.1.1 / 2 ^ 14 - 1) * 2 ^ 17)) ++
  (c.inbox.zip (List.range 64)).map (fun x => (0x3500 + x.2, 1, x.1.words.length)) ++
  (c.copies.zip (List.range 16)).flatMap (fun x => x.1.fields (0x4000 + 256 * x.2)) ++
  (c.poolFrames.zip (List.range c.poolFrames.length)).map (fun x => (0xA0000 + 2 * x.2, 2, x.1))

/-- Cells of a range moved to another address. -/
def moveCells (m : Memory) (lo n dst : Nat) : Memory :=
  (m.filter (fun c => decide (lo ≤ c.1) && decide (c.1 < lo + n))).map (fun c => (c.1 - lo + dst, c.2))

/-- The tiles of a core without its poisoned rows, which are saved as zero (15 R402). -/
def Core.goodTiles (c : Core) : Memory := c.tiles.filter (fun x => !(c.poison.contains (.tileRow (x.1 / 4096) (x.1 / 128 % 32))))

/-- The cells of a core record: tiles and scratchpad as they stand, poisoned units as zero (14 R393; 15 R402). -/
def State.recordCells (s : State) (k : Nat) : Memory :=
  let c := s.core k
  let scr := (moveCells s.mem (physScratch ownKey k 0) (2 ^ 18) 0).filter (fun x => !(c.poison.contains (.scratch (x.1 / 8))))
  fieldCells (s.coreFields k ++ (List.range 8).flatMap (fun t => s.threadFields k t (0x8000 + 0x4000 * t) false)) ++
    moveCells c.goodTiles 0 (2 ^ 17) 0x40000 ++ moveCells scr 0 (2 ^ 18) 0x60000

/-- Cells written over a cleared part of memory. -/
def State.putCells (s : State) (base n : Nat) (l : Memory) : State :=
  let rest := s.mem.filter (fun c => decide (c.1 < base) || decide (base + n ≤ c.1))
  { s with mem := l.foldl (fun m c => Memory.set m (base + c.1) c.2) rest }

/-- The messages of an inbox overflow chain written into its blocks from block `j` on (14 R393; log 6). -/
def putChain (k : Nat) : Nat → Nat → List Msg → State → State
  | 0, _, _, s => s
  | n + 1, j, l, s =>
    if l.isEmpty then s else
    let rest := l.drop chainRoom
    let s := s.putCells (physLpddr (chainBlock k j)) 65536 (fieldCells ((0, 8, if rest.isEmpty then 0 else chainBlock k (j + 1)) ::
      ((l.take chainRoom).zip (List.range chainRoom)).flatMap (fun x =>
        wordFields (8 + 72 * x.2) (BitVec.ofNat 64 x.1.words.length :: x.1.words.take 8))))
    putChain k n (j + 1) rest s

/-- The words of the messages in a chain, from a block on (14 R393; log 6). -/
def State.readChain (s : State) : Nat → Nat → Nat → List (List Word)
  | 0, _, _ => []
  | fuel + 1, a, n =>
    let p := physLpddr a
    (List.range (min n chainRoom)).map (fun i =>
      (List.range (min 8 (s.rd (p + 8 + 72 * i) 8))).map (fun j => s.rdw (p + 16 + 72 * i + 8 * j))) ++
    if n ≤ chainRoom then [] else State.readChain s fuel (s.rdw p).toNat (n - chainRoom)

/-- A core's record written, with its overflow chain (14 R393, R397). -/
def State.putRecord (s : State) (c : Ctx) (k : Nat) : State :=
  let l := (s.core k).overflow
  putChain k (l.length + 1) 0 l (s.putCells (c.recordAt k) 0x100000 (s.recordCells k))

/-- What a save finds poisoned is in the error log of its die (15 R402, R414). -/
def State.logSaved (s : State) (k : Nat) : State :=
  (s.core k).poison.foldl (fun s x => match x with
    | .reg t r => s.logReg k t r.code
    | .tileRow t r => s.logRow k t r
    | .scratch w => s.logScratch k (8 * w)) s

/-- A thread's record written into its place (14 R390). -/
def State.putThread (s : State) (k t : Nat) : State :=
  match s.ctxOfCore k with
  | none => s
  | some c => s.putCells (c.recordAt k + 0x8000 + 0x4000 * (t % 8)) 0x4000 (fieldCells (s.threadFields k t 0 true))

/-- The number of the quantum that a context begins next: the one behind a quantum that has ended (12 R335; 14 R388). -/
def Ctx.nextQuantum (c : Ctx) : Nat := if c.stopping then c.quantum + 1 else c.quantum

/-- The header of a groundsheet after a save (14 R392). -/
def State.putHeader (s : State) (id : Nat) (rect : Word) : State :=
  match s.ctx? id with
  | none => s
  | some c => s.wrWords (physLpddr c.gsb.toNat)
      [1, BitVec.ofNat 64 c.id, BitVec.ofNat 64 c.kept.length, rect, s.time, BitVec.ofNat 64 (if c.det then c.nextQuantum else 0),
       BitVec.ofNat 64 c.userCount]

/-- NSAVED of a header after a restore (14 R392, R398). -/
def State.putSaved (s : State) (id : Nat) : State :=
  match s.ctx? id with
  | none => s
  | some c => s.wr (physLpddr c.gsb.toNat + 0x10) 8 c.kept.length

/-- The context of a task. -/
def State.taskCtx (s : State) (x : Cont) : Option Nat := (s.launch? x.task.launch).map (fun l => l.ctx)

/-- The die record of a context, written when every core of it on the die is saved (14 R392). -/
def State.putDie (s : State) (id d : Nat) : State :=
  match s.ctx? id with
  | none => s
  | some c =>
    let q := (s.cdie d).ready.filter (fun x => s.taskCtx x == some id)
    let fr := fun (o : Option Cont) => match o with | some x => x.task.frame.toNat | none => 0
    let loops := (s.launches.filter (fun l => l.2.ctx == id)).flatMap (fun l => l.2.loops.flatMap (fun x =>
      (x.shares.filter (fun y => y.1 == d)).map (fun y => [x.addr, BitVec.ofNat 64 y.2.1, BitVec.ofNat 64 y.2.2])))
    s.putCells (physLpddr (c.gsb.toNat + 0x80000 + 0x1000 * d)) 0x1000 (fieldCells
      ([(0, 8, fr q.head?), (8, 8, fr q.getLast?), (16, 8, loops.length)] ++
        (loops.zip (List.range 120)).flatMap (fun x => wordFields (0x40 + 32 * x.2) x.1)))

/-- A whole die of a context saved: its part of the die's ready queue goes with its record (14 R392, R397). -/
def State.saveDie (s : State) (id d : Nat) : State :=
  let mine := fun (x : Cont) => s.taskCtx x == some id
  ((s.putDie id d).modCtx id (fun c => { c with keptReady := AMap.set c.keptReady d ((s.cdie d).ready.filter mine) })).modCDie d (fun x =>
    { x with ready := x.ready.filter (fun y => !(mine y)) })

/-- A core's own state emptied as it passes on (13 R352; 02 R49): its watch-table entries go with it, its cycle count goes
on, its L1 lines stay, and so does the panel index it shows. The intervals of its threads are not counted anew (12 R340). -/
def State.clearCore (s : State) (k : Nat) : State :=
  let s := s.modCluster (clusterOfCore k) (fun c => { c with watch := c.watch.filter (fun w => !(w.1 == k)) })
  let lo := physScratch ownKey k 0
  let s := { s with mem := s.mem.filter (fun c => decide (c.1 < lo) || decide (lo + 2 ^ 18 ≤ c.1)) }
  s.modCore k (fun c => { Core.reset with
    cyc0 := c.cyc0, cidPanel := c.cidPanel, threads := c.threads.map (fun th => { Thread.reset with ivl := th.ivl }) })

/-- One core saved (14 R397): its deque is spilled, its record written, and the core cleared and left without an owner. -/
def State.saveCore (s : State) (id launch k : Nat) : State :=
  match s.ctx? id with
  | none => s
  | some c =>
    let s := ((spillTo 0 k 64 s).logSaved k).putRecord c k
    let own := s.core k
    (s.modCtx id (fun c => { c with kept := AMap.set c.kept k own, keptFor := AMap.set c.keptFor k launch })).clearCore k

/-- Cores saved, with the headers and the die records they complete (14 R392, R397). -/
def State.saveCores (s : State) (id launch : Nat) (rect : Word) (cores : List Nat) : State :=
  let s := cores.foldl (fun s k => s.saveCore id launch k) s
  let dies := (cores.map dieOfCore).eraseDups.filter (fun d => !((s.coresOf id).any (fun k => dieOfCore k == d)))
  dies.foldl (fun s d => s.saveDie id d) (s.putHeader id rect)

/-- The deques of cores spilled whole for a save (14 R397). -/
def State.spillAll (s : State) (cores : List Nat) : State := cores.foldl (fun s k => spillTo 0 k 64 s) s

/-- A spill waits for a frame to be repaired (11 R288). -/
def State.spillsLeft (s : State) (cores : List Nat) : Bool := cores.any (fun k => !((s.core k).dequeHeld == 0))

/-- CONTEXT_SAVE: firmware saves the stopped cores of a context that a rectangle names, for the launch that needs them or,
with 0, for a teardown or a replacement (14 R397). The input holds the scope and the launch. -/
def execContextSave (ctx : Nat) (s : State) : Host.Outcome State Fault Refusal :=
  let cores := (s.coresOf ctx).filter (fun k => s.inScope s.input.word k)
  if !(s.stopDone cores) then notYet s else
  let s := s.spillAll cores
  if s.spillsLeft cores then notYet s else
  happened (s.saveCores ctx s.input.unit s.input.word cores)

/-! ### Reading a record -/

/-- A word of a record. -/
def recWord (g : Nat → Nat → Nat) (off : Nat) : Word := BitVec.ofNat 64 (g off 8)

/-- A condition of access-table data: the form of an op and fn (03 R76; 09 R230 to R248), for the target and words of a
message. -/
def accForm (op fn : Nat) (target : Nat) (words : List Word) (det : Bool) : Option AccForm :=
  match op with
  | 0x28 => some (.load 1 true) | 0x29 => some (.load 1 false) | 0x2A => some (.load 2 true) | 0x2B => some (.load 2 false)
  | 0x2C => some (.load 4 true) | 0x2D => some (.load 4 false) | 0x2E => some (.load 8 false) | 0x2F => some .loadPair
  | 0x30 | 0x31 | 0x32 | 0x33 | 0x34 => some .store
  | 0x35 | 0x37 => some .vload
  | 0x36 | 0x38 => some .vstore
  | 0x39 => some .sto
  | 0x3A | 0x3B | 0x3C | 0x3D | 0x3E | 0x59 | 0x5A => some .fe
  | 0x43 => some (.msg target words (decide (64 ≤ fn) || det))
  | 0x4C => some (.clean (fn % 2 == 1))
  | _ => none

/-- The pieces of an access by its op, fn, address and offsets (08 R208; 09 R230, R231). -/
def accPieces (op fn : Nat) (a : Word) (offs : Vec) : List Piece :=
  let size := 2 ^ (fn / 2 % 4)
  match op with
  | 0x28 | 0x29 | 0x30 => piecesOf a 1
  | 0x2A | 0x2B | 0x31 => piecesOf a 2
  | 0x2C | 0x2D | 0x32 => piecesOf a 4
  | 0x2F | 0x34 | 0x59 | 0x5A => piecesOf a 16
  | 0x35 | 0x36 => piecesOf a 128
  | 0x37 | 0x38 => elementPieces size (if fn % 2 = 1 then indexed a offs size else strided a (offs.setWidth 64) size)
  | 0x43 => []
  | _ => piecesOf a 8

/-- An access entry read from a thread record; what its place holds no field for is as it was when the core was saved
(14 R395). -/
def AccEntry.ofRecord (g : Nat → Nat → Nat) (off : Nat) (old : Thread) (det : Bool) (ord : Nat) (target : Word → Nat) : Option AccEntry :=
  let w := g off 8
  let op := w % 2 ^ 7
  let fn := w / 2 ^ 7 % 2 ^ 7
  let seq := w / 2 ^ 20 % 2 ^ 16
  let a := recWord g (off + 8)
  let offs : Vec := BitVec.ofNat 1024 (g (off + 160) 128)
  let data : Vec := BitVec.ofNat 1024 (g (off + 32) 128)
  let mask := g (off + 16) 16
  let words := (List.range (fn % 8 + 1)).map (fun i => recWord g (off + 32 + 8 * i))
  if w / 2 ^ 36 % 4 = 0 then none else
  match accForm op fn (target a) words det with
  | none => none
  | some form =>
    let e : AccEntry := match old.entry? seq with
      | some e => e
      | none => { seq := BitVec.ofNat 16 seq, form := form, op := BitVec.ofNat 7 op, fn := BitVec.ofNat 7 fn, d := 0, addr := a,
                  pieces := accPieces op fn a offs, done := 0, data := 0, slots := [0], epoch := old.epoch, spawn := old.spawns,
                  held := none, key := none, mode := old.mode, sent := false, ord := ord, since := 0, arrived := false,
                  req := 0, offs := offs, stamp := Stamp.none }
    let p := if e.op.toNat = op && e.fn.toNat = fn && e.addr = a && e.offs = offs then e.pieces else accPieces op fn a offs
    let e : AccEntry := { e with form := form, op := BitVec.ofNat 7 op, fn := BitVec.ofNat 7 fn, d := w / 2 ^ 14 % 64, addr := a, data := data,
                                 offs := offs, held := if w / 2 ^ 36 % 4 = 1 then some (w / 2 ^ 38 % 64) else none }
    let isDone := fun (x : Piece) => mask / 2 ^ e.maskBit p x % 2 == 1
    if p = e.pieces && mask == e.doneMask then some e else
    some { e with pieces := p.filter isDone ++ p.filter (fun x => !(isDone x)), done := (p.filter isDone).length }

/-- The latch read from a thread record (14 R395). -/
def Latch.ofRecord (g : Nat → Nat → Nat) (off : Nat) (old : Thread) : Option Latch :=
  let w := g off 8
  if w % 2 = 0 then none else
  let x := g (off + 48) 8
  let l : Latch := old.latch.getD
    { sent := false, armed := false, op := 0, fn := 0, d := 0, addr := 0, operand := 0, expected := 0, seq := 0, cause := none,
      answer := none, mode := old.mode, ord := old.acount, since := 0, slots := [0], epoch := old.epoch, spawn := old.spawns, key := none, req := 0 }
  some { l with
    sent := w / 2 % 2 == 1, armed := w / 4 % 2 == 1, op := BitVec.ofNat 7 (w / 2 ^ 3), fn := BitVec.ofNat 7 (w / 2 ^ 10),
    d := BitVec.ofNat 6 (w / 2 ^ 17), addr := recWord g (off + 8), operand := BitVec.ofNat 128 (g (off + 16) 16),
    expected := BitVec.ofNat 128 (g (off + 32) 16), cause := if x % 64 = 0 then none else some (x % 64), seq := BitVec.ofNat 16 (x / 2 ^ 6) }

/-- A stream read from a thread record (14 R395); one with a retired VPOP that waits for its record keeps what it had asked for. -/
def Stream.ofRecord (g : Nat → Nat → Nat) (off data : Nat) (old : Stream) : Stream :=
  let w := g (off + 16) 8
  let n := w / 2 ^ 32 % 8
  let wr := w / 2 ^ 36 % 2 == 1
  if w / 2 ^ 35 % 2 = 0 then Stream.unbound else
  let x : Stream := { old with
    bound := true, writing := wr, base := recWord g off, shape := recWord g (off + 8), head := w % 2 ^ 32, since := none }
  if !old.pops.isEmpty then x else
  { x with
    first := if wr then w % 2 ^ 32 - n else w % 2 ^ 32,
    recs := (List.range n).map (fun i =>
      let r : StreamRec := (old.keptRecs[i]?).getD
        { data := 0, mask := BitVec.allOnes 128, arrived := true, again := false, epoch := 0 }
      { r with data := BitVec.ofNat 1024 (g (data + 128 * i) 128) }) }

/-- The registers a record holds that DBGSTEP reloads: the PC, s0 to s63 of both banks, v0 to v31, q0 to q7 and the control
registers but KSTAT (14 R390). Bits that a register does not have stay zero (00 R7; 02 R30). -/
def Thread.reload (g : Nat → Nat → Nat) (off : Nat) (th : Thread) : Thread :=
  let c := fun i => recWord g (off + 0x2C0 + 8 * i)
  { th with
    pc := alignPc (recWord g (off + 8)),
    s := Vector.ofFn (fun i => if i.val = 0 then 0 else recWord g (off + 0x10 + 8 * i.val)),
    ssup := Vector.ofFn (fun i => recWord g (off + 0x210 + 8 * i.val)),
    q := Vector.ofFn (fun i => if i.val = 0 then BitVec.allOnes 128 else BitVec.ofNat 128 (g (off + 0x240 + 16 * i.val) 16)),
    v := Vector.ofFn (fun i => BitVec.ofNat 1024 (g (off + 0x400 + 128 * i.val) 128)),
    fpm := c 0 &&& 0x1FF, fpf := c 1 &&& 0x1F, rngk := c 2, srseq := c 3, xh := alignPc (c 4), xv := c 5, wto := c 6,
    grp := c 7 &&& 0xFFFFFFFFF, twin := c 8 &&& 0x1F1F1F1F, dbgc := c 9 &&& 0xFFFFFFFFFFFFFF,
    kcause := c 11 &&& 0xFF, kepc := alignPc (c 12), kval := c 13 }

/-- The fence of a thread record (14 R396). -/
def Fence.ofRecord (g : Nat → Nat → Nat) (off : Nat) (old : Thread) : Option Fence :=
  let w := g (off + 40) 8
  let kind : FenceKind := match w / 2 % 4 with | 0 => .acq | 1 => .rel | 2 => .acqrel | _ => .seq
  if w % 2 = 0 then none else
  let f : Fence := old.fence.getD { kind := kind, e := false, m := false, mask := 0, scope := 0, epoch := old.epoch - 1, mops := [] }
  some { f with kind := kind, e := w / 8 % 2 == 1, m := w / 16 % 2 == 1, mask := BitVec.ofNat 16 (g (off + 48) 8), scope := recWord g (off + 56) }

/-- A thread restored from its record (14 R395, R396, R398). -/
def Thread.ofRecord (g : Nat → Nat → Nat) (off : Nat) (det : Bool) (target : Word → Nat) (old : Thread) : Thread :=
  let w := g off 8
  let o := off + 0x340
  let th := old.reload g off
  let th := th.setKstat (recWord g (off + 0x2C0 + 80))
  let acc := (List.range 16).filterMap (fun i => AccEntry.ofRecord g (off + 0x1600 + 288 * i) old det (old.acount + i) target)
  let latch := Latch.ofRecord g (off + 0x2800) old
  let stops := w / 8 % 8
  let th : Thread := { th with
    st := (match w % 8 with | 0 => .free | 1 => .running | 2 => .parked | 3 => .idle | 4 => .retired | _ => old.st),
    stopS := stops % 2 == 1, stopF := stops / 2 % 2 == 1, stopD := stops / 4 % 2 == 1, stopped := stops != 0,
    park := .none, grant := none, grantB := false, acc := acc, latch := latch,
    held := if w % 8 = 5 then (match old.held with | some c => some c | none => (acc.findSome? (fun e => e.held))) else none,
    ranges := Vector.ofFn (fun i =>
      let b := recWord g (off + 0x1400 + 16 * i.val)
      let l := recWord g (off + 0x1408 + 16 * i.val)
      let r := old.ranges[i.val]'i.isLt
      if r.words = [b, l] then r else
      { used := !(b == 0 && l == 0), desc := if bit b 63 then some (b &&& 0x7FFFFFFFFFFFFFFF) else none,
        base := if bit b 63 then 0 else b, limit := if bit b 63 then 0 else l, cover := if bit b 63 then [] else [(b, l.toNat - b.toNat)] }),
    streams := Vector.ofFn (fun i => Stream.ofRecord g (off + 0x1500 + 32 * i.val) (off + 0x3000 + 512 * i.val) (old.streams[i.val]'i.isLt)),
    task := { old.task with frame := recWord g o },
    oseq := if det then old.oseq else BitVec.ofNat 32 (g (o + 8) 8 % 2 ^ 16),
    qseq := if det then BitVec.ofNat 32 (g (o + 8) 8) else old.qseq,
    retired := g (o + 16) 8, phases := (List.range 4).map (fun i => g (o + 24 + 2 * i) 2), spawns := g (o + 32) 8,
    fence := Fence.ofRecord g o old }
  { th with pend := th.acc.flatMap (fun e => e.dests.map (bankName e.mode)) ++
      (match th.latch with | some l => l.dests.map (bankName l.mode) | none => []) ++
      th.streams.toList.flatMap (fun w => w.pops.map (fun p => RegName.v p.vd)) }

/-- A matrix operation read from a core record (14 R394). -/
def MatOp.ofRecord (g : Nat → Nat → Nat) (off : Nat) (old : List MatOp) : Option MatOp :=
  let w := g off 8
  let fl := w / 2 ^ 25 % 16
  let word := w % 2 ^ 7 * 2 ^ 25 + w / 2 ^ 7 % 32 * 2 ^ 20 + w / 2 ^ 12 % 32 * 2 ^ 15 + w / 2 ^ 17 % 32 * 2 ^ 10 + w / 2 ^ 22 % 8 * 2 ^ 7 + fl
  let cmd := w / 2 ^ 32
  let instr : Option Instr :=
    if w % 2 ^ 7 = 0x4A then
      some (.mmal { wsem := BitVec.ofNat 8 cmd, wthr := BitVec.ofNat 8 (cmd / 2 ^ 8), ssem := BitVec.ofNat 8 (cmd / 2 ^ 16), sinc := BitVec.ofNat 4 (cmd / 2 ^ 24) }
        (BitVec.ofNat 5 (w / 2 ^ 7)) (BitVec.ofNat 5 (w / 2 ^ 12)) (BitVec.ofNat 5 (w / 2 ^ 17)) (mflagsOf fl))
    else match decodeB word with
      | .ok i => some i
      | .error _ => none
  let x := g (off + 40) 8
  let seq := g (off + 48) 8
  instr.map (fun i =>
    let o : MatOp := (old.find? (fun o => o.seq.toNat == seq % 2 ^ 16)).getD
      { instr := i, tshd := 0, tsha := 0, tshb := 0, twin := 0, thr := 0, seq := BitVec.ofNat 16 seq, groups := 0, entry := 0, dense := 0,
        ga := 0, gb := 0, waitMet := false, started := false, gang := [], leader := 0, jseq := 0, epoch := 0, ord := 0, stamp := Stamp.none }
    { o with
      instr := i, tshd := recWord g (off + 8), tsha := recWord g (off + 16), tshb := recWord g (off + 24), twin := recWord g (off + 32),
      thr := w / 2 ^ 29 % 8, groups := x % 2 ^ 16, entry := x / 2 ^ 16 % 64, dense := x / 2 ^ 22 % 256, started := x / 2 ^ 30 % 2 == 1,
      waitMet := w / 2 ^ 60 % 2 == 1 })

/-- The engine command of a copy-queue entry, if its word is one (14 R394; 10 R250). -/
def copyInstr? (w : Nat) : Option Instr :=
  match decodeBundle w with
  | .ok (.long i) =>
    (match i with
     | .cpy .. | .cpyr .. | .cbatch .. | .cwait .. | .sbind .. | .sunbind .. | .tld .. | .tst .. | .tldw .. => some i
     | _ => none)
  | _ => none

/-- A copy command read from a core record (14 R394). -/
def CopyCmd.ofRecord (g : Nat → Nat → Nat) (off : Nat) (old : CopyCmd) : Option CopyCmd :=
  let x := g (off + 40) 8
  let words := fun (o : Nat) => let l := (List.range 8).map (fun i => recWord g (o + 8 * i)); if l.all (fun w => w == 0) then [] else l
  match copyInstr? (g off 8) with
  | some i =>
    some { old with
      instr := i, va := recWord g (off + 8), vb := recWord g (off + 16), vc := recWord g (off + 24),
      next := g (off + 32) 8 / { old with instr := i }.grain, since := none,
      state := x % 4, batch := x / 4 % 2 ^ 16, closed := x / 2 ^ 18 % 2 == 1, fault := x / 2 ^ 19 % 8, thr := x / 2 ^ 22 % 8,
      dst := words (off + 64), src := words (off + 128) }
  | none => none

/-- The copy commands of a record, each over the command that stood in its place. -/
def copiesOf (g : Nat → Nat → Nat) (n : Nat) (old : List CopyCmd) : List CopyCmd :=
  ((List.range n).zip old).filterMap (fun x => CopyCmd.ofRecord g (0x4000 + 256 * x.1) x.2)

/-- The stream of a started operation at the head of a matrix queue goes on at the entry that the operation records (07 R184). -/
def Core.resumeEntry (c : Core) : Core :=
  match (c.headOp?.filter (fun o => o.started)).bind (fun o => (matStream o.instr).map (fun n => (o, n))) with
  | some (o, n) => c.setThread o.thr ((c.thread o.thr).setStream n { (c.thread o.thr).stream n with entry := o.entry })
  | none => c

/-- The rows that a drained operation has granted: those whose descriptor the record holds for a thread (07 R178; 14 R393). -/
def DrainRows.outOf (d : DrainRows) (g : Nat → Nat → Nat) : List (Nat × Nat) :=
  (List.range 8).filterMap (fun t =>
    let x := g (0x600 + 8 * t) 8
    if x = 0 then none else ((List.range d.rows).find? (fun r => (rowDesc d r).toNat == x)).map (fun r => (r, t)))

/-- The senders that an inbox has refused, in the order of the record (09 R242; 14 R393): `n` of them, and what stands behind. -/
def refusedOf (g : Nat → Nat → Nat) (n : Nat) (target : Nat → Nat → Nat) : List (Nat × Nat) :=
  (List.range 64).filterMap (fun i =>
    let x := g (0x3400 + 4 * i) 4
    if n ≤ i && x == 0 then none else some (target (x / 2 ^ 17 % 2 ^ 8) (x / 2 ^ 3 % 2 ^ 14), x % 8))

/-- The messages of a record over what the core held: what the record has no field for is as it was. -/
def messagesOf (old : List Msg) (owner : Nat) (l : List (List Word)) : List Msg :=
  (l.zip (List.range l.length)).map (fun x =>
    { (old[x.2]?).getD { words := [], core := 0, thr := 0, seq := 0, ctx := owner } with words := x.1 })

/-- A core restored from its record (14 R393, R394, R398) and the messages of its overflow chain; what the record has no field for is
as it stood at the save. `target` names a core by its panel and index. -/
def Core.ofRecord (g : Nat → Nat → Nat) (det : Bool) (target : Nat → Nat → Nat) (scratch : Memory) (chain : List (List Word)) (old : Core) :
    Core :=
  let est := g 8 8
  let nm := g 0x28 8 / 2 ^ 16 % 16
  let ops := (List.range (min nm 8)).filterMap (fun i => MatOp.ofRecord g (0x400 + 64 * i) old.mqEntries)
  let nd := old.drains.length
  let inN := min 64 (g 0x38 8 % 128)
  let head := g 0x38 8 / 2 ^ 8 % 64
  let pool := (List.range (g 0x20 8)).map (fun i => g (0xA0000 + 2 * i) 2)
  let cid := fun (x : Word) => target (bits x 32 8) (bits x 8 7 * 128 + bits x 0 7)
  { old with
    threads := Vector.ofFn (fun i => Thread.ofRecord g (0x8000 + 0x4000 * i.val) det cid (old.threads[i.val]'i.isLt)),
    tsh := Vector.ofFn (fun i => recWord g (0x100 + 8 * i.val) &&& 0xFFFFF),
    tiles := moveCells scratch 0x40000 (2 ^ 17) 0,
    sems := Vector.ofFn (fun i => BitVec.ofNat 16 (g (0x200 + 2 * i.val) 2)),
    fe := (let full := g 0x1000 4096; (List.range (2 ^ 15)).filter full.testBit),
    inbox := messagesOf old.inbox old.owner ((List.range inN).map (fun i =>
      let e := (head + i) % 64
      (List.range (g (0x3500 + e) 1)).map (fun j => recWord g (0x2000 + 64 * e + 8 * j)))),
    overflow := messagesOf old.overflow old.owner chain,
    refuse := refusedOf g old.refuse.length target,
    deque := old.deque.take (g 0x10 8),
    pool := ((pool.zip (List.range pool.length)).map (fun x =>
      (((old.pool[old.pool.length - 1 - x.2]?).map (fun y => y.1)).getD ((old.pool.head?.map (fun y => y.1)).getD 0), x.1))).reverse,
    cfault := est / 2 % 2 == 1, mfault := est / 8 % 2 == 1, cdone := BitVec.ofNat 16 (est / 2 ^ 8), cnext := BitVec.ofNat 16 (est / 2 ^ 24),
    copies := copiesOf g (g 0x30 8 % 32) old.copies,
    mq := ops.drop nd, mseq := BitVec.ofNat 16 (g 0x28 8),
    drains := ((old.drains.zip ops).zip (List.range nd)).map (fun x =>
      { x.1.1 with op := x.1.2, out := x.1.1.outOf g, rel := (List.range x.1.1.rows).filter (fun r => (g (0x640 + 8 * x.2) 8).testBit r) }),
    reports := (List.range (min 64 (g 0x50 8))).map (fun i => (g (0x3000 + 16 * i) 8 % 64, recWord g (0x3008 + 16 * i))) }

/-- The intervals of a thread record that a table names, with the bits of each word that may be set (14 R395, R396). -/
def threadNamed : List (Nat × Nat) :=
  [(0, 0x10), (0x10, 0x200), (0x210, 0x20), (0x240, 0x80), (0x2C0, 112), (0x340, 64), (0x400, 0x1000), (0x1400, 0x100), (0x1500, 0x100),
   (0x1600, 4608), (0x2800, 56), (0x3000, 0x1000)]

/-- The intervals of a core record that a table names (14 R393, R394). -/
def coreNamed : List (Nat × Nat) :=
  [(0, 0x58), (0x100, 0x100), (0x200, 0x200), (0x600, 0x80), (0x1000, 0x1000), (0x2000, 0x1000), (0x3000, 0x400),
   (0x3400, 0x100), (0x3500, 0x40), (0x40000, 0x20000), (0x60000, 0x40000), (0xA0000, 0x20000)] ++
  (List.range 8).map (fun i => (0x400 + 64 * i, 56)) ++
  (List.range 16).flatMap (fun i => [(0x4000 + 256 * i, 48), (0x4040 + 256 * i, 128)]) ++
  (List.range 8).flatMap (fun t => threadNamed.map (fun x => (0x8000 + 0x4000 * t + x.1, x.2)))

/-- Some interval of a list holds an offset. -/
def inNamed (l : List (Nat × Nat)) (x : Nat) : Bool := l.any (fun i => decide (i.1 ≤ x) && decide (x < i.1 + i.2))

/-- A thread record within its ranges: every reserved bit zero, every access a form there is (14 R395, R396, R398; 02 R51 to R62). -/
def threadRecordGood (g : Nat → Nat → Nat) (off : Nat) (det : Bool) : Bool :=
  let c := fun i => g (off + 0x2C0 + 8 * i) 8
  let o := off + 0x340
  decide (g off 8 < 2 ^ 7) && decide (g off 8 % 8 ≤ 5) && g (off + 0x10) 8 == 0 && g (off + 8) 8 % 8 == 0 &&
  decide (c 0 < 2 ^ 9) && decide (c 1 < 2 ^ 5) && c 4 % 8 == 0 && decide (c 7 < 2 ^ 36) &&
  (List.range 4).all (fun i => decide (c 8 / 2 ^ (8 * i) % 2 ^ 8 < 32)) && decide (c 8 < 2 ^ 32) && decide (c 9 < 2 ^ 56) &&
  decide (c 10 < 2 ^ 5) && decide (c 10 % 4 ≤ 2) && decide (c 10 / 4 % 4 ≤ 2) && decide (c 11 < 2 ^ 8) && c 12 % 8 == 0 &&
  c 14 == 0 && c 15 == 0 &&
  decide (g (o + 8) 8 < if det then 2 ^ 32 else 2 ^ 16) && decide (g (o + 32) 8 < 2 ^ 32) && decide (g (o + 40) 8 < 2 ^ 5) &&
  decide (g (o + 48) 8 < 2 ^ 16) &&
  (List.range 16).all (fun i => decide (g (off + 0x1400 + 16 * i) 8 < 2 ^ 63) || g (off + 0x1408 + 16 * i) 8 == 0) &&
  (List.range 8).all (fun i => decide (g (off + 0x1500 + 32 * i + 16) 8 < 2 ^ 37) && decide (g (off + 0x1500 + 32 * i + 16) 8 / 2 ^ 32 % 8 ≤ 4) &&
    g (off + 0x1500 + 32 * i + 24) 8 == 0) &&
  (List.range 16).all (fun i =>
    let w := g (off + 0x1600 + 288 * i) 8
    decide (w < 2 ^ 44) && decide (w / 2 ^ 36 % 4 ≤ 2) && (w / 2 ^ 36 % 4 == 0 || (accForm (w % 2 ^ 7) (w / 2 ^ 7 % 2 ^ 7) 0 [] det).isSome)) &&
  decide (g (off + 0x2800) 8 < 2 ^ 23) && decide (g (off + 0x2830) 8 < 2 ^ 22)

/-- A core record within its ranges (14 R393, R394, R398). -/
def coreRecordGood (g : Nat → Nat → Nat) (det : Bool) : Bool :=
  decide (g 0 8 ≤ 1) && decide (g 8 8 < 2 ^ 40) && g 8 8 / 2 ^ 5 % 8 == 0 && decide (g 0x20 8 ≤ 65536) && decide (g 0x28 8 < 2 ^ 20) &&
  decide (g 0x28 8 / 2 ^ 16 ≤ 8) && decide (g 0x30 8 ≤ 16) && decide (g 0x38 8 < 2 ^ 14) && g 0x38 8 / 2 ^ 7 % 2 == 0 && decide (g 0x38 8 % 128 ≤ 64) &&
  decide (g 0x50 8 ≤ 64) &&
  (List.range 32).all (fun i => decide (g (0x100 + 8 * i) 8 < 2 ^ 20)) &&
  (List.range 64).all (fun i => decide (g (0x3500 + i) 1 ≤ 8) && decide (g (0x3000 + 16 * i) 8 < 64) && decide (g (0x3400 + 4 * i) 4 < 2 ^ 25)) &&
  (List.range 16).all (fun i => decide (g (0x4000 + 256 * i + 40) 8 < 2 ^ 25) && decide (g (0x4000 + 256 * i + 40) 8 % 4 ≤ 2)) &&
  (List.range (min 8 (g 0x28 8 / 2 ^ 16))).all (fun i => [0x28, 0x29, 0x2A, 0x2B, 0x4A].contains (g (0x400 + 64 * i) 8 % 2 ^ 7) &&
    (MatOp.ofRecord g (0x400 + 64 * i) []).isSome && decide (g (0x428 + 64 * i) 8 < 2 ^ 31) && decide (g (0x430 + 64 * i) 8 < 2 ^ 20)) &&
  (List.range (min 16 (g 0x30 8))).all (fun i => (copyInstr? (g (0x4000 + 256 * i) 8)).isSome) &&
  (List.range 8).all (fun t => threadRecordGood g (0x8000 + 0x4000 * t) det)

/-- A byte of the first MiB of a groundsheet that the header or a die record names (14 R391, R392). -/
def headerNames (x : Nat) : Bool :=
  let o := x % 0x1000
  decide (x < 0x38) ||
    (decide (0x80000 ≤ x) && (decide (o < 0x18) || (decide (0x40 ≤ o) && decide (o < 0xF40) && decide (o % 32 < 24))))

/-- The header and the die records of a context's groundsheet are within their ranges (14 R391, R392, R398). -/
def State.headerGood (s : State) (c : Ctx) : Bool :=
  let g := fun (off : Nat) => s.rd (physLpddr c.gsb.toNat + off) 8
  g 0 == 1 && g 8 == c.id && g 0x30 == c.userCount && (c.det || g 0x28 == 0) &&
    (List.range 128).all (fun d => decide (g (0x80010 + 0x1000 * d) ≤ 120)) &&
    (moveCells s.mem (physLpddr c.gsb.toNat) 0x100000 0).all (fun x => headerNames x.1)

/-- The record of a core in memory. -/
def State.recordOf (s : State) (c : Ctx) (k : Nat) (off n : Nat) : Nat := s.rd (c.recordAt k + off) n

/-- A saved core's record may be restored: every byte that no table names is zero, every field within its range (14 R398). -/
def State.recordGood (s : State) (c : Ctx) (k : Nat) : Bool :=
  coreRecordGood (s.recordOf c k) c.det && (moveCells s.mem (c.recordAt k) 0x100000 0).all (fun x => inNamed coreNamed x.1)

/-- An empty continuation in a frame, for one that only the record names. -/
def Cont.inFrame (fr : Word) (launch core : Nat) (fresh : Bool) : Cont :=
  { task := { Task.none with frame := fr, launch := launch }, pc := 0, sp := 0, fp := 0, fpm := 0, wto := 0, saved := [], ranges := [],
    args := [], pushT := 0, sync := none, core := core, thr := 0, spawn := 0, fresh := fresh, child := false, rel := 0 }

/-- The frames of a chain through LINK, from one on, at most so many; it ends at 0, and goes on as it stood behind a frame that
cannot be read (11 R288). -/
def State.chainFrom (s : State) (k : Nat) (old : List Word) : Nat → Word → List Word
  | 0, _ => []
  | n + 1, fr =>
    if fr = 0 then [] else
    match s.frameAt k fr with
    | some p => fr :: State.chainFrom s k old n (s.rdw (p + 0x40))
    | none => fr :: ((old.dropWhile (fun x => !(x == fr))).drop 1).take n

/-- The continuation in a frame: the one that stood there, or as the frame holds it. -/
def State.contIn (s : State) (k launch : Nat) (old : List Cont) (fresh : Bool) (fr : Word) : Cont :=
  match old.find? (fun c => c.task.frame == fr) with
  | some c => c
  | none =>
    let c := Cont.inFrame fr launch k fresh
    match s.frameAt k fr with
    | some p => s.readCont k p c
    | none => c

/-- The launch of a context that has taken its cores. -/
def State.launchIn (s : State) (id : Nat) : Nat := ((s.launches.find? (fun l => l.2.ctx == id)).map Prod.fst).getD 0

/-- The spilled entries of a core's deque as its record chains them through LINK, over those that stood there (11 R290; 14 R393). -/
def State.restoreDeque (s : State) (id k head n : Nat) : State :=
  let old := (s.core k).deque
  let l := (s.chainFrom k (old.map (fun e => e.cont.task.frame)) n (BitVec.ofNat 64 head)).map (fun fr =>
    match old.find? (fun e => e.cont.task.frame == fr) with
    | some e => e
    | none => { cont := s.contIn k (s.launchIn id) [] false fr, spilled := true, claimed := none, claimT := 0, logged := false,
                order := s.pushOrder k 0 })
  s.modCore k (fun c => { c with deque := l })

/-- The share of a die in a ticket loop as the record has it; chunks that have been given since stay given (11 R307; 14 R392). -/
def Loop.withShare (l : Loop) (d next last : Nat) : Loop :=
  { l with shares := l.shares.map (fun x => if x.1 = d then (d, max x.2.1 next, last) else x) }

/-- The loop shares that a die's record lists, back in the loops of the context's launches (14 R392). -/
def State.putShares (s : State) (id d base : Nat) : State :=
  let share := fun (l : AMap Launch) (e : Nat) =>
    let w := fun i => s.rdw (base + 0x40 + 32 * e + 8 * i)
    l.map (fun x => (x.1, if x.2.ctx = id then
      { x.2 with loops := x.2.loops.map (fun y => if y.addr = w 0 then y.withShare d (w 1).toNat (w 2).toNat else y) } else x.2))
  { s with launches := (List.range (min 120 (s.rd (base + 0x10) 8))).foldl share s.launches }

/-- A die of a context restored from its record: its part of the ready queue, as the record chains it, before what has been placed
since, and its shares of ticket loops (14 R392, R398). `k` is a core of the context. -/
def State.restoreDie (s : State) (id k d : Nat) : State :=
  match s.ctx? id with
  | none => s
  | some c =>
    match AMap.get? c.keptReady d with
    | none => s
    | some old =>
      let base := physLpddr (c.gsb.toNat + 0x80000 + 0x1000 * d)
      let l := (s.chainFrom k (old.map (fun x => x.task.frame)) 8388608 (s.rdw base)).map (s.contIn k (s.launchIn id) old true)
      ((s.modCtx id (fun c => { c with keptReady := AMap.erase c.keptReady d })).modCDie d (fun x =>
        { x with ready := l ++ x.ready })).putShares id d base

/-- What a restored thread has in progress is tried again: its accesses, its latch, its streams and their drains (14 R399). -/
def State.kickThread (s : State) (k t : Nat) (th : Thread) : State :=
  let s := (th.acc.filter (fun e => e.held.isNone && e.key.isNone)).foldl (fun s e => s.postOnce (e.event k t)) s
  let s := match th.latch with
    | some l => if l.cause.isNone then s.postOnce (s.latchEvent k t l) else s
    | none => s
  let s := (List.range 8).foldl (fun s n =>
    let x := th.stream (BitVec.ofNat 3 n)
    (x.recs.filter (fun r => !r.arrived && !x.writing)).foldl (fun s _ => s.post (.streamRecordArrival k t n)) s) s
  let s := th.drains.foldl (fun s j => s.postOnce (.streamDrain k t j.n)) s
  (List.range 8).foldl (fun s n =>
    let x := th.stream (BitVec.ofNat 3 n)
    if x.bound && !x.writing then s.postOnce (.streamRefill k t n) else s) s

/-- What waits on a core goes on after a restore or a resumption: its unsent accesses, its engines, its streams and its
drained rows, the messages behind its inbox, and its reports. -/
def State.kickCore (s : State) (k : Nat) : State :=
  let c := s.core k
  let s := (List.range 8).foldl (fun s t => s.kickThread k t (c.thread t)) s
  let s := (c.copies.filter (fun x => x.state == 1 && x.key.isNone)).foldl (fun s x => s.postOnce (x.event k)) s
  let s := match c.headOp? with
    | some o => if o.started then s.postOnce (.matrixGroupComplete o.leader) else s
    | none => s
  let s := if (s.core k).reports.isEmpty then s else s.postOnce (.reportTaken k)
  s.postAll [.copyCommandStart k, .matrixOpStart k, .batchComplete k, .drainRowOffer k, .semaphoreUpdate k]

/-- One saved core restored onto its place (14 R398). -/
def State.restoreCore (s : State) (id k : Nat) : State :=
  match s.ctx? id with
  | none => s
  | some c =>
    match AMap.get? c.kept k with
    | none => s
    | some old =>
      let base := c.recordAt k
      let g := s.recordOf c k
      let cells := moveCells s.mem base 0x100000 0
      let chain := s.readChain (g 0x48 8 / chainRoom + 1) (g 0x40 8) (g 0x48 8)
      let s1 := s.clearCore k
      let s1 := s1.putCells (physScratch ownKey k 0) (2 ^ 18) (moveCells cells 0x60000 (2 ^ 18) 0)
      let s1 := s1.setCore k { Core.ofRecord g c.det s.targetCore cells chain old with
        owner := id, poison := old.poison, cidPanel := (s.core k).cidPanel }.resumeEntry
      let s1 := s1.modCtx id (fun c => { c with kept := AMap.erase c.kept k, keptFor := AMap.erase c.keptFor k })
      (((s1.restoreDeque id k (g 0x18 8) (g 0x10 8)).wr base 8 0).fillInbox k 64).kickCore k

/-- Saved cores restored, or none of them when a record is refused (14 R398). -/
def State.restoreCores (s : State) (id : Nat) (cores : List Nat) : Option State :=
  match s.ctx? id with
  | none => some s
  | some c =>
    if !(s.headerGood c) || !(cores.all (fun k => s.recordGood c k)) then none else
    let s := cores.foldl (fun s k => s.restoreCore id k) s
    some ((cores.foldl (fun s k => s.restoreDie id k (dieOfCore k)) s).putSaved id)

/-- CONTEXT_RESTORE: the cores of a context saved for a launch, or with 0 all of them, are restored; a record that is
refused leaves them saved (14 R398). The input names the launch. -/
def execContextRestore (ctx : Nat) (s : State) : Host.Outcome State Fault Refusal :=
  match s.ctx? ctx with
  | none => happened s
  | some c =>
    let cores := (c.keptFor.filter (fun x => s.input.unit == 0 || x.2 == s.input.unit)).map Prod.fst
    if cores.any (fun k => !((s.core k).owner == 0)) then notYet s else
    happened ((s.restoreCores ctx cores).getD s)

/-- A supervisor image header (13 R353): entry, trap vector, stack base and the power of a stack's size. -/
def State.svHeader (s : State) (c : Ctx) : Option (Word × Word × Word × Nat) :=
  match s.translate c .supervisor .load c.svimg with
  | .error _ => none
  | .ok p =>
    let w := fun i => s.rdw (p + 8 * i)
    if s.isPoisoned p || s.isPoisoned (p + 32) then none else
    if !(w 0 == 1) || !(bits (w 1) 0 3 == 0) || !(bits (w 2) 0 3 == 0) || !(bits (w 3) 0 12 == 0) || (w 4).toNat < 12 || 20 < (w 4).toNat ||
        !(w 5 == 0) || !(w 6 == 0) || !(w 7 == 0) then none
    else some (w 1, w 2, w 3, (w 4).toNat)

/-- A core passes to a context: it is cleared and its supervisor prepared (13 R352, R353). None while the header cannot be
read or is invalid. -/
def State.passCore (s : State) (c : Ctx) (k : Nat) : Option State :=
  match s.svHeader c with
  | none => none
  | some (entry, kvec, stkb, n) =>
    let s := s.clearCore k
    let j := c.userRank k
    some (s.modCore k (fun x =>
      let x := { x with owner := c.id, kvec := kvec }
      let x := (List.range 8).foldl (fun x t => x.setThread t
        { x.thread t with ssup := (Vector.replicate 4 0).set 2 (stkb + BitVec.ofNat 64 ((8 * j + t + 1) * 2 ^ n)) }) x
      if c.rel7 then x else x.setThread 7 { x.thread 7 with st := .running, mode := .supervisor, isSup := true, pc := entry }))

end Sys2Proof.Machine
end

