-- ==== Sys2Proof/Machine/Readback.lean ====
section
/-! DEFINITION. Firmware readback (15 R409 to R414). -/

namespace Sys2Proof.Machine

/-- RBA.OFF (15 R410). -/
def rbaOff (a : Word) : Nat := bits a 0 38

/-- RBA.THR. -/
def rbaThr (a : Word) : Nat := bits a 38 3

/-- RBA.DIE. -/
def rbaDie (a : Word) : Nat := bits a 48 8

/-- RBA.CLS. -/
def rbaCls (a : Word) : Nat := bits a 56 8

/-- The core of RBA. -/
def rbaCore (a : Word) : Nat := coreOfDie (rbaDie a) (bits a 41 7)

/-- A value that RBA refuses: OFF [2:0] set, a class above 7, or no such unit (15 R410). -/
def rbaBad (a : Word) : Bool :=
  !(bits a 0 3 == 0) ||
  (match rbaCls a with
   | 0 | 1 | 5 | 7 => decide (128 ≤ rbaDie a)
   | 2 | 3 | 4 => decide (136 ≤ rbaDie a)
   | 6 => !(rbaDie a == 0)
   | _ => true)

/-- The state code of a directory entry (15 R414). -/
def moesiCode : Moesi → Nat
  | .i => 0 | .s => 1 | .e => 2 | .o => 3 | .m => 4

/-- The state of a code. -/
def moesiOf (n : Nat) : Moesi := match n with | 1 => .s | 2 => .e | 3 => .o | 4 => .m | _ => .i

/-- The four words of a directory entry (15 R414). -/
def DirEntry.words (e : DirEntry) : List Word :=
  let ptr := fun (i : Nat) => (e.shr[i]?).getD 0x3FF
  let dies := e.vec.foldl (fun n d => Nat.lor n (2 ^ d)) 0
  [BitVec.ofNat 64 (e.line + e.ctx * 2 ^ 49 + 2 ^ 61),
   BitVec.ofNat 64 (moesiCode e.st + (e.owner.getD 0) % 2 ^ 10 * 2 ^ 3 + (if e.host then 2 ^ 13 else 0) + (if e.vec.isEmpty then 0 else 2 ^ 14) +
     (ptr 0 + ptr 1 * 2 ^ 10 + ptr 2 * 2 ^ 20) * 2 ^ 15),
   BitVec.ofNat 64 dies, BitVec.ofNat 64 (dies / 2 ^ 64)]

/-- A directory entry of a way and a place there from its words; none when VALID is 0. An owner stands only in the states O, E and
M. -/
def DirEntry.ofWords (way place : Nat) (l : List Word) : Option DirEntry :=
  let w := fun i => l.getD i 0
  let st := moesiOf (bits (w 1) 0 3)
  let dies := (w 2).toNat + (w 3).toNat * 2 ^ 64
  if !(bit (w 0) 61) then none else
  some { ctx := bits (w 0) 49 12, line := bits (w 0) 0 49, way := way, place := place, st := st,
         owner := (match st with | .m | .o | .e => some (bits (w 1) 3 10) | .s | .i => none),
         shr := ((List.range 3).map (fun i => bits (w 1) (15 + 10 * i) 10)).filter (fun x => x != 0x3FF),
         vec := if bit (w 1) 14 then (List.range 128).filter (fun d => dies.testBit d) else [], host := bit (w 1) 13 }

/-- The words of a translation-cache entry (15 R414). -/
def Tlb.words (t : Tlb) : List Word :=
  [BitVec.ofNat 64 (t.page * 2 ^ t.bits / 2 ^ 12 + t.ctx * 2 ^ 44 + (if t.bits = 16 then 1 else if t.bits = 21 then 2 else 3) * 2 ^ 56 + 2 ^ 58), t.leaf, 0, 0]

/-- A translation-cache entry from its words; none when VALID is 0. -/
def tlbOfWords (place : Nat) (l : List Word) : Option Tlb :=
  let w := l.getD 0 0
  let n := match bits w 56 2 with | 1 => 16 | 2 => 21 | _ => 30
  if !(bit w 58) then none else 
  some { place := place, ctx := bits w 44 12, page := bits w 0 44 * 2 ^ 12 / 2 ^ n, bits := n, leaf := l.getD 1 0 }

/-- The words of a remap-filter entry (15 R414); a line with BACK 0 is named by its offset in its home's memory (13 R359, R361). -/
def Remap.words (r : Remap) : List Word :=
  [BitVec.ofNat 64 ((if r.back = 3 then r.pline % 2 ^ 25 else r.pline % 2 ^ 46) +
      (match r.back with | 3 => 0 | 0 => 1 | 1 => 2 | _ => 3) * 2 ^ 46 + 2 ^ 48),
   BitVec.ofNat 64 (r.ctx + r.line * 2 ^ 12), 0, 0]

/-- A remap-filter entry of a memory die from its words, none when VALID is 0: `back` and `pline` name the physical place of the
line. -/
def Remap.ofWords (die place : Nat) (l : List Word) : Option Remap :=
  let w := l.getD 0 0
  let x := l.getD 1 0
  let n := bits w 0 46
  let back := match bits w 46 2 with | 0 => 3 | 1 => 0 | 2 => 1 | _ => 2
  if !(bit w 48) then none else
  some { place := place, back := back,
         pline := if back = 3 then physHome die (n % 2 ^ 25 * 128) / 128 else back * 2 ^ 64 / 128 + n,
         ctx := bits x 0 12, line := bits x 12 49 }

/-- The words that firmware has written into entry `n` of a memory die's tables. -/
def MDie.rawWords (d : MDie) (n : Nat) : List Word := (List.range 4).map (fun i => (AMap.get? d.raw (4 * n + i)).getD 0)

/-- The words of an entry: as firmware wrote them while they say what stands there, else those of what stands there. -/
def shownWords {α : Type} [DecidableEq α] (f : α → List Word) (g : List Word → Option α) (e : Option α) (raw : List Word) : List Word :=
  match e with
  | some x => if g raw = some x then raw else f x
  | none => if (g raw).isSome then [0, 0, 0, 0] else raw

/-- What stands at entry `n` of a directory slice, a translation cache or a remap filter, numbered through (15 R414). -/
def MDie.dirAt (d : MDie) (n : Nat) : Option DirEntry := d.dir.find? (fun e => e.way * 131072 + e.place == n)

/-- The words of entry `n` of the tables of memory die `die` (15 R414). -/
def MDie.tableWords (d : MDie) (die n : Nat) : List Word :=
  if n < tlbBase then shownWords DirEntry.words (DirEntry.ofWords (n / 131072) (n % 131072)) (d.dirAt n) (d.rawWords n)
  else if n < remapBase then
    shownWords Tlb.words (tlbOfWords (n - tlbBase)) (d.tlb.find? (fun t => tlbBase + t.place == n)) (d.rawWords n)
  else shownWords Remap.words (Remap.ofWords die (n - remapBase)) (d.remap.find? (fun r => remapBase + r.place == n)) (d.rawWords n)

/-- The bits of word `i` of entry `n` that a field has (15 R414). -/
def tableBits (n i : Nat) : Word :=
  let low := fun (b : Nat) => BitVec.ofNat 64 (2 ^ b - 1)
  if n < tlbBase then (match i with | 0 => low 62 | 1 => low 45 | _ => low 64)
  else if n < remapBase then (match i with | 0 => low 59 | 1 => low 64 | _ => 0)
  else (match i with | 0 => low 49 | 1 => low 61 | _ => 0)

/-- An entry of a table replaced at its place, taken away, or added. -/
def putEntry {α : Type} (l : List α) (p : α → Bool) (new : Option α) : List α :=
  if l.any p then l.flatMap (fun y => if p y then new.toList else [y]) else l ++ new.toList

/-- A word of entry `n` of the tables of a memory die written by firmware; the entry stands there while VALID is 1 (15 R411, R414). -/
def MDie.setTableWord (d : MDie) (die n i : Nat) (x : Word) : MDie :=
  let w := (d.tableWords die n).set i (x &&& tableBits n i)
  let raw := (w.zip (List.range 4)).foldl (fun m y => if y.1 = 0 then AMap.erase m (4 * n + y.2) else AMap.set m (4 * n + y.2) y.1) d.raw
  if n < tlbBase then
    { d with raw := raw, dir := putEntry d.dir (fun e => e.way * 131072 + e.place == n) (DirEntry.ofWords (n / 131072) (n % 131072) w) }
  else if n < remapBase then
    { d with raw := raw, tlb := putEntry d.tlb (fun t => tlbBase + t.place == n) (tlbOfWords (n - tlbBase) w) }
  else
    { d with raw := raw, remap := putEntry d.remap (fun r => remapBase + r.place == n) (Remap.ofWords die (n - remapBase) w) }

/-- The entry that an offset of class 2 or 3 names; none beyond its layout (15 R411, R414). -/
def tableEntry (cls off : Nat) : Option Nat :=
  let n := (if cls = 2 then 0 else tlbBase) + off / 32
  if n < (if cls = 2 then tlbBase else remapBase + 65536) then some n else none

/-- The fields of error counters and log (15 R414). -/
def ErrLog.fields (e : ErrLog) : List Field :=
  wordFields 0 (e.corr.map (fun n => BitVec.ofNat 64 n)) ++ wordFields 0x40 (e.uncorr.map (fun n => BitVec.ofNat 64 n)) ++
    [(0x80, 8, (e.next?.orElse (fun _ => e.order.head?)).getD 0), (0x88, 8, e.count)] ++
    e.entries.flatMap (fun x => wordFields (0x100 + 32 * (x.1 % 256)) [x.2.w0, x.2.w1, x.2.w2, x.2.w3])

/-- Error counters and log read from their layout, over what they were: the places are written on from HEAD. -/
def ErrLog.ofRecord (g : Nat → Nat → Nat) (old : ErrLog) : ErrLog :=
  let head := g 0x80 8 % 256
  let before := old.order.takeWhile (fun n => !(n == head))
  { corr := (List.range 8).map (fun i => g (8 * i) 8), uncorr := (List.range 8).map (fun i => g (0x40 + 8 * i) 8),
    order := old.order.drop before.length ++ before, count := g 0x88 8,
    entries := ((List.range 256).map (fun i => (i, LogEntry.mk (recWord g (0x100 + 32 * i)) (recWord g (0x108 + 32 * i)) (recWord g (0x110 + 32 * i))
      (recWord g (0x118 + 32 * i))))).filter (fun x => !(decide (x.2 = LogEntry.mk 0 0 0 0))) }

/-- The time word of a die (15 R414): error estimate, in sync, ticks since its last message. -/
def State.timeWord (s : State) (est : Nat) (sync : Bool) (last : Nat) : Word :=
  BitVec.ofNat 64 (min est 0xFFFF + (if sync then 2 ^ 16 else 0) + min (s.time.toNat - last) 0xFFFFFFFF * 2 ^ 32)

/-- The fields of class 6 (15 R414). -/
def State.panelFields (s : State) : List Field :=
  (List.range 128).map (fun d => (8 * d, 8, s.siteOf d)) ++
  (List.range 136).map (fun n => (0x400 + 64 * n, 64, (s.dieAtSite n).mr.toNat)) ++
  [(0x2600, 64, s.mr68.toNat), (0x2640, 8, s.time.toNat), (0x2648, 8, s.tsrc % 256)] ++
  (List.range 128).map (fun d => (0x2800 + 8 * d, 8, (s.timeWord (s.cdie d).errEst (s.cdie d).sync (s.cdie d).lastSync).toNat)) ++
  (List.range 136).map (fun m => (0x2C00 + 8 * m, 8, (s.timeWord (s.mdie m).errEst (s.mdie m).sync (s.mdie m).lastSync).toNat))

/-- The word of fields at an offset. -/
def fieldWord (l : List Field) (off : Nat) : Word := BitVec.ofNat 64 (readBytes (fieldCells l) off 8)

/-- The 8 bytes at RBA (15 R411). -/
def State.rbd (s : State) (a : Word) : Word :=
  let off := rbaOff a
  let k := rbaCore a
  match rbaCls a with
  | 0 => fieldWord (s.threadFields k (rbaThr a) 0 false) off
  | 1 => BitVec.ofNat 64 (readBytes (s.recordCells k) off 8)
  | 2 | 3 =>
    match tableEntry (rbaCls a) off with
    | some n => ((s.mdie (rbaDie a)).tableWords (rbaDie a) n).getD (off / 8 % 4) 0
    | none => 0
  | 4 => fieldWord (s.logNow (.memory (rbaDie a)) (s.mdie (rbaDie a)).log).fields off
  | 5 =>
    match (s.thread k (rbaThr a)).fwreq with
    | some r => if off < 0x40 then r.args.getD (off / 8) 0 else if off = 0x40 then r.ans0 else 0
    | none => 0
  | 6 => fieldWord s.panelFields off
  | _ => fieldWord (s.logNow (.compute (rbaDie a)) (s.cdie (rbaDie a)).log).fields off

/-- A layout with 8 of its bytes replaced. -/
def overlayWord (cells : Memory) (off : Nat) (x : Word) (o n : Nat) : Nat := readBytes (writeBytes cells off 8 x.toNat) o n

/-- A PUTC of RBD is refused: class 6, or a class 0 or 1 whose core has a thread that is neither stopped nor saved
(15 R411). -/
def State.rbdRefused (s : State) (a : Word) : Bool :=
  match rbaCls a with
  | 6 => true
  | 0 | 1 => !(((s.core (rbaCore a)).threads.toList.all (fun th => th.stopped)) || s.ctxs.any (fun c => c.2.savedCore (rbaCore a)))
  | _ => false

/-- A thread's firmware request answered: its TRAP retires (14 R381; 15 R412). -/
def State.answerFw (s : State) (k t : Nat) (a0 a1 : Word) : State :=
  if (s.thread k t).fwreq.isNone then s else
  ((s.modThread k t (fun th => { th with fwreq := none })).grantTo k t [a0, a1]).modCDie (dieOfCore k) (fun d =>
    { d with fwq := d.fwq.filter (fun x => !(x == (k, t % 8))) })

/-- The 8 bytes at RBA written (15 R411, R412). -/
def State.setRbd (s : State) (a x : Word) : State :=
  let off := rbaOff a
  let k := rbaCore a
  let t := rbaThr a
  let cid := fun (x : Word) => s.targetCore (bits x 32 8) (bits x 8 7 * 128 + bits x 0 7)
  match rbaCls a with
  | 0 =>
    if !(threadNamed.any (fun i => decide (i.1 ≤ off) && decide (off < i.1 + i.2))) then s else
    s.modThread k t (Thread.ofRecord (overlayWord (fieldCells (s.threadFields k t 0 false)) off x) 0 (s.detAt k) cid)
  | 1 =>
    if !(coreNamed.any (fun i => decide (i.1 ≤ off) && decide (off < i.1 + i.2))) then s else
    if 0x60000 ≤ off && off < 0xA0000 then s.wr (physScratch ownKey k (off - 0x60000)) 8 x.toNat else
    s.modCore k (fun c => Core.ofRecord (overlayWord (s.recordCells k) off x) (s.detAt k) s.targetCore (writeBytes (s.recordCells k) off 8 x.toNat)
      (c.overflow.map (fun m => m.words)) c)
  | 2 | 3 =>
    match tableEntry (rbaCls a) off with
    | some n => s.modMDie (rbaDie a) (fun d => d.setTableWord (rbaDie a) n (off / 8 % 4) x)
    | none => s
  | 4 => s.modMDie (rbaDie a) (fun d => { d with log := ErrLog.ofRecord (overlayWord (fieldCells d.log.fields) off x) d.log })
  | 5 =>
    match (s.thread k t).fwreq with
    | some r =>
      if off = 0x40 then s.modThread k t (fun th => { th with fwreq := some { r with ans0 := x } })
      else if off = 0x48 then s.answerFw k t r.ans0 x
      else s
    | none => s
  | 6 => s
  | _ => s.modCDie (rbaDie a) (fun d => { d with log := ErrLog.ofRecord (overlayWord (fieldCells d.log.fields) off x) d.log })

/-- RBA after an access of RBD: OFF gains 8 (15 R411). -/
def rbaNext (a : Word) : Word := setBits a 0 38 (rbaOff a + 8)

/-- RBD_READ: the 8 bytes at RBA go to a register, and OFF advances (15 R411). -/
def execRbdRead (core thr : Nat) (d : BitVec 6) (s : State) : Host.Outcome State Fault Refusal :=
  let a := (s.thread core thr).rba
  happened (s.modThread core thr (fun th => { (th.writeS d (s.rbd a)) with rba := rbaNext a }))

/-- RBD_WRITE: a word goes to the 8 bytes at RBA, and OFF advances; a refused write changes nothing (15 R411). -/
def execRbdWrite (core thr : Nat) (value : Word) (s : State) : Host.Outcome State Fault Refusal :=
  let a := (s.thread core thr).rba
  if s.rbdRefused a then happened s else
  happened ((s.setRbd a value).modThread core thr (fun th => { th with rba := rbaNext a }))

end Sys2Proof.Machine
end

