-- ==== Sys2Proof/Machine/Boot.lean ====
section
/-! DEFINITION. Measured boot (13 R369). -/

namespace Sys2Proof.Machine

/-- `n` bytes of a number, the first least significant. -/
def leBytes : Nat → Nat → List Byte
  | 0, _ => []
  | n + 1, x => BitVec.ofNat 8 x :: leBytes n (x / 256)

/-- A measurement register extended by an image of a stage (13 R369 step 5). -/
def extendMr (mr : BitVec 512) (image : List Byte) (stage : Nat) : BitVec 512 :=
  Config.shake256 (leBytes 64 mr.toNat ++ leBytes 64 (Config.shake256 image).toNat ++ leBytes 8 stage)

/-- The image of a stage for a site: the one delivered last, or the one the panel was made with (13 R369; 15 R428; log 5). -/
def State.imageOf (s : State) (stage site : Nat) : Image :=
  match AMap.get? s.images stage with
  | some i => i
  | none => { bytes := Config.bootImage stage site, sig := Config.bootSignature stage site, version := Config.bootVersion stage site }

/-- An image passes its verification on a site (13 R369 steps 3 and 4). -/
def Image.verified (i : Image) (site : Nat) : Bool :=
  Config.signatureOk (Config.shake256 i.bytes) i.sig && decide (Config.fusedMinimum site ≤ i.version)

/-- The ranger core of a logical die runs firmware (01 R21): its threads are in firmware mode, and thread 0 serves the firmware's
requests. Where the image stands in memory the spec does not say; what it does is the events' (log 10). -/
def State.startRanger (s : State) (d : Nat) : State :=
  s.modCore (rangerOf d) (fun (c : Core) =>
    let c := { c with threads := c.threads.map (fun (th : Thread) => { th with mode := Mode.firmware }) }
    c.setThread 0 { c.thread 0 with st := .parked, park := .firmware })

/-- The measurement register after a boot through stages that are each verified before they are measured and run, and the stage that is
refused, if any (13 R369). -/
def State.bootStages (s : State) (site : Nat) : BitVec 512 → List Nat → BitVec 512 × Option Nat
  | m, [] => (m, none)
  | m, st :: r =>
    let i := s.imageOf st site
    if i.verified site then s.bootStages site (extendMr m i.bytes st) r else (m, some st)

/-- A ranger core's boot through stages 0x10 and 0x11 (13 R369): the die is powered, its measurement register is extended, and firmware
runs on it; or the boot stops before the stage that is refused, and the die is reported out of service. -/
def State.bootRanger (s : State) (n : Nat) : State :=
  let b := s.bootStages n 0 [0x10, 0x11]
  let key := s.keyOfSite n
  match b.2 with
  | none =>
    let s := s.modCDie key (fun d => { d with mr := b.1, fwVer := some (s.imageOf 0x11 n).version, up := true, on := true })
    if key < 128 then s.startRanger key else s
  | some st => { s with out := s.out ++ [OutMsg.pldm st n] }.modCDie key (fun d => { d with mr := b.1, up := false, on := true })

/-- A compute die loses its power: a spare that is not mapped in, or a die that has been replaced (01 R18; 15 R418). Its last measurement is
still reported (13 R372). -/
def CDie.powerDown (d : CDie) : CDie := { d with on := false }

/-- The supervisor image fails its verification on a die (13 R369). -/
def State.supRefused (s : State) (d : Nat) : Bool := !((s.imageOf 0x20 (s.siteNo d)).verified (s.siteNo d))

/-- The supervisor image measured on a die before its supervisors run it (13 R353, R369). -/
def State.measureSupervisor (s : State) (d : Nat) : State :=
  s.modCDie d (fun x => { x with mr := extendMr x.mr (s.imageOf 0x20 (s.siteNo d)).bytes 0x20 })

end Sys2Proof.Machine
end

