-- ==== Sys2Proof/Machine/System.lean ====
section
/-! DEFINITION. Traps and the privileged instructions: SVC, TRAP, KRET, reserved encodings, GETC and PUTC, XINV, RLATCH,
GSTOP, GRESUME, DBGSTEP, and the reports to the core supervisor (02 R50 to R65; 03 R84; 04 R108; 13 R349, R366; 14). -/

namespace Sys2Proof.Machine

/-- SVC (04 R108). -/
def execSvc (n : BitVec 13) (s : State) : Host.Outcome State Fault Refusal :=
  runSlot 0 [] [] (fun _ => .trap 37 (n.setWidth 64)) s

/-- The service of a number (15 R415). -/
def serviceOf (n : Nat) : Instr :=
  match n with
  | 0 => .query | 1 => .ctxCreate | 2 => .ctxChange | 3 => .ctxDestroy | 4 => .winGrant | 5 => .winRevoke
  | 6 => .wsLoad | 7 => .queueSet | 8 => .sectorRead | 9 => .queueKick | _ => .unknownService

/-- TRAP (14 R381): a firmware request in supervisor mode, which sends s1 to s8 and writes s1 and s2; USER_TRAP in the others. -/
def execTrap (n : BitVec 13) (s : State) : Host.Outcome State Fault Refusal :=
  let sup := decide (s.src.mode = Mode.supervisor)
  runSlot 0 (if sup then (List.range 8).map (fun i => RegName.s (1 + i)) else []) (if sup then [.s 1, .s 2] else []) (fun s =>
    match s.src.mode with
    | .user | .firmware => .trap 36 (n.setWidth 64)
    | .supervisor =>
      let k := s.cur.core
      let t := s.cur.thr % 8
      match s.src.grant with
      | some l => .go (fun t => (t.ws 1 (l.getD 0 0)).ws 2 (l.getD 1 0))
      | none =>
        if s.src.fwreq.isSome then .park .firmware else
        .join .firmware (fun st =>
          let r : FwReq := { n := n.setWidth 12, args := (List.range 8).map (fun i => s.rs (BitVec.ofNat 6 (1 + i))), ans0 := 0 }
          let st := (st.modTh (fun th => { th with fwreq := some r })).fwReport (dieOfCore k) 61 (fwRequestVal n k t s.own.owner)
          (st.modCDie (dieOfCore k) (fun d => { d with fwq := d.fwq ++ [(k, t)] })).postIn (serviceOf n.toNat) { Input.none with who := .thread k t })) s

/-- KRET (14 R382): it also ends the wait of a quantum for a thread that took CONFLICT_DETECTED (12 R341). -/
def execKret (s : State) : Host.Outcome State Fault Refusal :=
  runSlot 0 [] [] (fun s =>
    if s.src.mode = .user then .trap 5 0 else
    if !s.src.intrap then .trap 3 s.cur.bundle else
    if s.src.mode.level < s.src.pmode.level then .trap 5 0 else
    .go (fun t => (t.modTh (fun th => { th.leaveTrap with pc := s.src.kepc })).modCtx s.own.owner (fun c =>
      { c with caught := c.caught.filter (fun x => !(x == (s.cur.core, s.cur.thr % 8))) }))) s

/-- A bundle that encodes no instruction (03 R84): its cause by R35 and R85, with the bundle as KVAL. -/
def execReservedEncoding (s : State) : Host.Outcome State Fault Refusal :=
  let x := match decodeBundle s.cur.bundle.toNat with
    | .error .illegalBundle => (1, 2)
    | .error (.illegalOp n) => (2, n)
    | .error (.reservedField n) => (3, n)
    | .ok _ => (1, 2)
  .next ((s.trapEntry s.cur.core s.cur.thr x.1 x.2 s.cur.bundle s.src.pc).verdict .trapped)

/-! ### Control registers -/

/-- TID (02 R52). -/
def tidOf (k t : Nat) : Word := BitVec.ofNat 64 (t % 8 + k * 2 ^ 8)

/-- CID (02 R53). -/
def State.cidOf (s : State) (k : Nat) : Word :=
  BitVec.ofNat 64 (coreX k + coreY k * 2 ^ 8 + clusterInDie k * 2 ^ 16 + coreInCluster k * 2 ^ 20 + dieOfCore k * 2 ^ 24 +
    (s.core k).cidPanel.toNat * 2 ^ 32)

/-- A control register of thread t of core k as its issuer reads it (02 R50 to R63; 15 R409 to R413). `own` is the issuing
thread; the registers of the core are read as they stood before the bundle (02 R64). -/
def State.cregOf (s : State) (k t : Nat) (own : Thread) (sel : Nat) : Word :=
  let c := s.was
  let det := s.detAt k
  let ctx := fun (f : Ctx → Word) => match s.ctxOfCore k with | some x => f x | none => 0
  let trapReg := fun (j : Nat) (th : Thread) => match j with | 0 => th.kstat | 1 => th.kcause | 2 => th.kepc | _ => th.kval
  match sel with
  | 0x000 => tidOf k t
  | 0x001 => s.cidOf k
  | 0x002 => if det then BitVec.ofNat 64 own.retired else s.timeAt (.compute (dieOfCore k))
  | 0x003 => if det then BitVec.ofNat 64 own.retired else s.cyc k
  | 0x004 => own.fpm
  | 0x005 => own.fpf
  | 0x006 => own.rngk
  | 0x007 => own.srseq
  | 0x008 => own.xh
  | 0x009 => own.xv
  | 0x00A => own.wto
  | 0x00B => own.grp
  | 0x00C => own.twin
  | 0x00D => c.est
  | 0x00E => if det then 0 else s.wref
  | 0x00F => ctx (fun x => x.qnt)
  | 0x010 => ctx (fun x => x.stealAge)
  | 0x011 => own.dbgc
  | 0x012 => s.capb
  | 0x100 => own.kstat
  | 0x101 => own.kcause
  | 0x102 => own.kepc
  | 0x103 => own.kval
  | 0x104 => c.kvec
  | 0x1000 => own.rba
  | 0x1001 => s.rbd own.rba
  | 0x1002 => s.smap
  | 0x1003 => s.rto
  | 0x1004 => s.wmlag
  | 0x1005 => BitVec.ofNat 64 ((s.cdie (dieOfCore k)).therm % 256 + (s.cdie (dieOfCore k)).throttle % 256 * 2 ^ 8)
  | n =>
    if 0x20 ≤ n && n < 0x40 then c.shape (n - 0x20)
    else if 0x110 ≤ n && n < 0x118 then (c.thread (n - 0x110)).latchWord
    else if 0x180 ≤ n && n < 0x1A0 then
      (if n % 8 = t % 8 then trapReg ((n - 0x180) / 8) own else trapReg ((n - 0x180) / 8) (c.thread (n % 8)))
    else 0

/-- What the engines of a core have accepted and not completed: copy commands, closed batches, and matrix operations, drained ones with
rows not yet released included, each as a word. -/
def Core.accepted (c : Core) : List Word :=
  c.copies.map (fun x => BitVec.ofNat 64 (4 * x.id)) ++ c.batches.map (fun b => BitVec.ofNat 64 (4 * b.n.toNat + 1)) ++
    (c.mq.map (fun o => BitVec.ofNat 64 (4 * o.seq.toNat + 2)) ++ c.drains.map (fun d => BitVec.ofNat 64 (4 * d.op.seq.toNat + 2)))

/-- Both engines of a core have completed what a list of accepted work names, or are halted by a fault (12 R339). -/
def Core.enginesIdle (c : Core) (l : List Word) : Bool :=
  c.accepted.all (fun x => !(l.contains x) || (if bits x 0 2 = 2 then c.mfault else c.cfault))

/-- EST as a GETC in deterministic mode returns it after its wait: of what had been accepted before it, everything is complete, so CBUSY,
MBUSY and DPEND read 0 and CDONE reads CNEXT - 1, unless a fault bit is set (12 R339). The list it waited on holds CNEXT as the entry
that ends in 3. -/
def Core.estAfter (c : Core) (l : List Word) : Word :=
  match l.find? (fun x => bits x 0 2 == 3) with
  | some x =>
    if c.cfault || c.mfault then c.est else
    let n := bits x 2 16
    BitVec.ofNat 64 ((n + 65535) % 65536 * 2 ^ 8 + n * 2 ^ 24)
  | none => c.est

/-- The checks of GETC and PUTC before their effect (02 R64, R65). -/
def State.cregTrap (s : State) (sel : Nat) : Option (Nat × Word) :=
  if decide (sel < 0x1000) && !(selAssigned sel) then some (3, s.cur.bundle) else
  if s.src.mode.level < lowestRight sel then some (5, 0) else
  if readbackUnassigned sel then some (3, s.cur.bundle) else none

/-- GETC (02 R64; 05 R126); of EST in deterministic mode it waits for what the engines had accepted before it (12 R339). -/
def execGetc (d : BitVec 6) (sel : BitVec 13) (s : State) : Host.Outcome State Fault Refusal :=
  runChecked (fun s => s.cregTrap sel.toNat) 0 [] [rn d] (fun s =>
    let n := sel.toNat
      if n = 5 && s.src.sfr.any (fun r => !r.back) then .park .flagResult else
      if 0x20 ≤ n && n < 0x40 && s.was.isW (n - 0x20) then .park .tileMark else
      let before := if s.src.park = .enginesIdle then s.src.call else BitVec.ofNat 64 (4 * s.was.cnext.toNat + 3) :: s.was.accepted
      if n = 0xD && s.detAt s.cur.core && !(s.was.enginesIdle before) then .join .enginesIdle (fun t => t.modTh (fun th => { th with call := before })) else
      .go (fun t =>
        let x := if n = 0xD && s.src.park = .enginesIdle then s.was.estAfter before else s.cregOf s.cur.core s.cur.thr s.src n
        let t := t.ws d x
        let t := if n = 0xD && s.detAt s.cur.core then t.modTh (fun th => { th with call := [] }) else t
        if n = 0x1001 then t.modTh (fun th => { th with rba := rbaNext s.src.rba }) else t)) s

/-- Bits of a control register that are reserved (02 R51 to R62; 15 R410, R413, R423). -/
def reservedBits (sel : Nat) (x : Word) : Bool :=
  let above := fun (n : Nat) => !(bits x n (64 - n) == 0)
  match sel with
  | 0x000 => !(bits x 3 5 == 0) || above 22
  | 0x001 => bit x 7 || bit x 15 || bit x 19 || bit x 31 || above 40
  | 0x004 => above 9
  | 0x005 => above 5
  | 0x008 | 0x102 | 0x104 => !(bits x 0 3 == 0)
  | 0x00B => above 36
  | 0x00C => !(bits x 5 3 == 0) || !(bits x 13 3 == 0) || !(bits x 21 3 == 0) || above 29
  | 0x00D => !(bits x 5 3 == 0) || above 40
  | 0x00F => !(bits x 32 31 == 0)
  | 0x011 => above 56
  | 0x100 => above 5
  | 0x101 => above 8
  | 0x1002 => above 7
  | 0x1003 | 0x1004 => above 32
  | 0x1005 => above 16
  | n =>
    if 0x20 ≤ n && n < 0x40 then above 20
    else if 0x110 ≤ n && n < 0x118 then above 23
    else if 0x180 ≤ n && n < 0x188 then above 5
    else if 0x188 ≤ n && n < 0x190 then above 8
    else if 0x190 ≤ n && n < 0x198 then !(bits x 0 3 == 0)
    else false

/-- The field checks of a control register's map (02 R60, R62; 15 R410 to R413, R423). -/
def State.fieldBad (s : State) (sel : Nat) (x : Word) : Bool :=
  match sel with
  | 0x00F => bit x 63 && bits x 0 32 == 0
  | 0x100 => bits x 2 2 == 3
  | 0x1000 => rbaBad x
  | 0x1001 => s.rbdRefused s.src.rba
  | 0x1003 => decide (x.toNat < 40000) || decide (40000000 < x.toNat)
  | 0x1004 => decide (x.toNat < 4000) || decide (4000000 < x.toNat)
  | 0x1005 => decide (bits x 8 8 < 60) || decide (95 < bits x 8 8)
  | n => decide (0x180 ≤ n) && decide (n < 0x188) && bits x 2 2 == 3

/-- A trap register of a thread written: KSTAT [4:2], KCAUSE, KEPC or KVAL (02 R62). -/
def Thread.setTrapReg (j : Nat) (x : Word) (th : Thread) : Thread :=
  match j with
  | 0 => { th with pmode := Mode.ofLevel (bits x 2 2), intrap := bit x 4 }
  | 1 => { th with kcause := x }
  | 2 => { th with kepc := x }
  | _ => { th with kval := x }

/-- QNT written by firmware (02 R60): DET takes effect at the next launch, LEN at the next quantum boundary. Whether the launch then puts
QNT back to the context entry's Initial QNT (02 R50; 13 R351) the spec does not say: the model keeps firmware's value (DESIGN CHOICE,
log 25). -/
def State.setQnt (s : State) (k : Nat) (x : Word) : State := s.modCtx (s.core k).owner (fun c => { c with qnt := x })

/-- EST's bits cleared where the value has a one; an engine whose fault bit clears goes on (02 R58; 07 R183, 10 R272). A bit that its
engine has set in the same cycle ends set (02 R58). -/
def State.clearEst (s : State) (k : Nat) (x : Word) : State :=
  let s := if bit x 1 && (s.core k).cfault && !((s.core k).cfaultT == s.clock + 1) then s.restartCopies k else s
  if bit x 3 && (s.core k).mfault && !((s.core k).mfaultT == s.clock + 1) then s.restartMatrix k else s

/-- A control register written by the issuing thread (02 R65; 13 R349): the fields on which its mode holds a right. A firmware write of
CID.PANEL sets what its core reads and also the one index by which the panel's own checks and routing know it: whether it does the
latter the spec does not say (DESIGN CHOICE, log 25). -/
def State.writeCreg (s : State) (m : Mode) (sel : Nat) (x : Word) : State :=
  let k := s.cur.core
  let fw := decide (m = Mode.firmware)
  match sel with
  | 0x001 => if fw then { s.modOwn (fun c => { c with cidPanel := BitVec.ofNat 8 (bits x 32 8) }) with panel := BitVec.ofNat 8 (bits x 32 8) } else s
  | 0x002 => if fw then { s with timeBase := x.toNat + 2 ^ 64 - 2 * s.clock % 2 ^ 64, timeFloor := 0 } else s
  | 0x004 => s.modTh (fun th => { th with fpm := x })
  | 0x005 => s.modTh (fun th => { th with fpf := x ||| s.cur.flags.setWidth 64 })
  | 0x006 => s.modTh (fun th => { th with rngk := x })
  | 0x007 => s.modTh (fun th => { th with srseq := x })
  | 0x008 => s.modTh (fun th => { th with xh := x })
  | 0x009 => s.modTh (fun th => { th with xv := x })
  | 0x00A => s.modTh (fun th => { th with wto := x })
  | 0x00B => if fw then s.modTh (fun th => { th with grp := x }) else s
  | 0x00C => s.modTh (fun th => { th with twin := x })
  | 0x00D => s.clearEst k x
  | 0x00F => if fw then s.setQnt k x else s
  | 0x010 => if fw then s.modCtx (s.core k).owner (fun c => { c with stealAge := x }) else s
  | 0x011 => s.modTh (fun th => { th with dbgc := x })
  | 0x012 => if fw then { s with capb := x } else s
  | 0x100 => s.modTh (Thread.setTrapReg 0 x)
  | 0x101 => s.modTh (Thread.setTrapReg 1 x)
  | 0x102 => s.modTh (Thread.setTrapReg 2 x)
  | 0x103 => s.modTh (Thread.setTrapReg 3 x)
  | 0x104 => s.modOwn (fun c => { c with kvec := x })
  | 0x1000 => s.modTh (fun th => { th with rba := x })
  | 0x1001 => (s.setRbd s.src.rba x).modTh (fun th => { th with rba := rbaNext s.src.rba })
  | 0x1002 => { s with smap := x }
  | 0x1003 => { s with rto := x }
  | 0x1004 => { s with wmlag := x }
  | 0x1005 => s.modCDie (dieOfCore k) (fun d => { d with throttle := bits x 8 8 })
  | n =>
    if 0x20 ≤ n && n < 0x40 then
      s.modOwn (fun c => { c with tsh := c.tsh.set ((n - 0x20) % 32) x (Nat.mod_lt _ (by decide)) })
    else if 0x180 ≤ n && n < 0x1A0 then s.modThread k (n % 8) (Thread.setTrapReg ((n - 0x180) / 8) x)
    else s

/-- PUTC (02 R65; 13 R349). -/
def execPutc (a : BitVec 6) (sel : BitVec 13) (s : State) : Host.Outcome State Fault Refusal :=
  runChecked (fun s => s.cregTrap sel.toNat) 0 [rn a] [] (fun s =>
    let n := sel.toNat
    let x := s.rs a
      if reservedBits n x || s.fieldBad n x then .trap 3 s.cur.bundle else
      if n = 0x100 && bits x 2 2 == 2 && decide (s.src.mode = Mode.supervisor) then .trap 5 0 else
      if 0x20 ≤ n && n < 0x40 && s.was.isW (n - 0x20) then .park .tileMark else
      .go (fun t => t.writeCreg s.src.mode n x)) s

/-- PRIVILEGED in user mode, a check of step 5 (02 R35, 03 R74). -/
def State.userOnly (s : State) : Option (Nat × Word) := if s.src.mode = .user then some (5, 0) else none

/-! ### XINV -/

/-- XINV over a range of the current context (13 R366). -/
def execXinv (a b : BitVec 6) (z : BitVec 2) (s : State) : Host.Outcome State Fault Refusal :=
  runChecked State.userOnly 0 [rn a, rn b] [] (fun s =>
    let x := s.rs a
    let y := s.rs b
    if !(isContextVa x) then .trap 10 x else
    if !(isContextVa (y - 1)) then .trap 10 (y - 1) else
    .go (fun t => if y.toNat ≤ x.toNat then t else t.invalidate s.own.owner z.toNat (some (x.toNat, y.toNat)))) s

/-- XINV.CTX over every page of a context (13 R366, R348). -/
def execXinvCtx (a : BitVec 6) (z : BitVec 2) (s : State) : Host.Outcome State Fault Refusal :=
  runChecked State.userOnly 0 [rn a] [] (fun s =>
    let x := s.rs a
    if !(bits x 12 52 == 0) then .trap 3 s.cur.bundle else
    if decide (s.src.mode = Mode.supervisor) && !(x.toNat == s.own.owner) then .trap 5 0 else
    .go (fun t => t.invalidate x.toNat z.toNat none)) s

/-! ### RLATCH -/

/-- The latch of a thread sent again by RLATCH (14 R383): an agent that has performed it answers from its record (09 R225, R240). -/
def State.rearm (s : State) (k t : Nat) (l : Latch) : State :=
  if l.answer.isSome && l.cause.isNone then s else
  let s := s.modThread k t (fun th => { th with latch := some { l with armed := true, cause := none, since := s.clock } })
  if l.answer.isSome then s.post (.atomicAnswer k t)
  else (s.postOnce (s.latchEvent k t l)).postOnce (.remoteTimeout k t l.seq.toNat)

/-- A stream, or a SUNBIND job, of a thread that a fault has stopped retries its record (14 R383). -/
def State.retryStream (s : State) (k t : Nat) (old : Thread) (n : Nat) : State :=
  let w := old.stream (BitVec.ofNat 3 n)
  let s := if (w.stopped && w.writing) || old.drains.any (fun j => j.n == n && j.stopped) then s.postOnce (.streamDrain k t n) else s
  if !(w.stopped && !w.writing) then s else
  (if w.inFlight?.isSome then s.post (.streamRecordArrival k t n) else s).postOnce (.streamRefill k t n)

/-- The held accesses of a thread sent again, in program order, its latch re-armed, its stopped streams retried (14 R383). -/
def State.reissue (s : State) (k t : Nat) : State :=
  let th := s.thread k t
  let held := th.acc.filter (fun e => e.held.isSome)
  let s := s.modThread k t (fun th => { th with
    held := none,
    acc := th.acc.map (fun e => if e.held.isSome then { e with held := none, key := none, since := s.clock } else e),
    streams := th.streams.map (fun w => { w with stopped := false }),
    drains := th.drains.map (fun j => { j with stopped := false }) })
  let s := held.foldl (fun s e => s.sendEntry k t { e with held := none }) s
  let s := match th.latch with
    | some l => s.rearm k t l
    | none => s
  (List.range 8).foldl (fun s n => s.retryStream k t th n) s

/-- A thread has a held access or a stream that a fault has stopped. -/
def Thread.needsRetry (th : Thread) : Bool :=
  th.held.isSome || th.streams.toList.any (fun w => w.stopped) || th.drains.any (fun j => j.stopped)

/-- A thread's held accesses discarded and their cause delivered to it as a trap entry (14 R383). -/
def State.deliver (s : State) (k t : Nat) : State :=
  let th := s.thread k t
  let gone := (th.acc.filter (fun e => e.held.isSome)).map (fun e => (e.mode, e.dests)) ++
    (match th.latch with | some l => if l.cause.isSome then [(l.mode, l.dests)] else [] | none => [])
  let s := s.withdraw k t
  let s := s.modThread k t (fun th =>
    gone.foldl (fun th x => th.unmark x.1 x.2)
      { th with held := none, acc := th.acc.filter (fun e => e.held.isNone), latch := th.latch.filter (fun l => l.cause.isNone) })
  s.trapEntry k t (bits th.kcause 0 6) (bits th.kcause 6 2) th.kval th.kepc

/-- RLATCH (14 R383). A delivery waits for a bundle of the thread whose event has come: what it was given would be lost (09 R243). -/
def execRlatch (a : BitVec 6) (s : State) : Host.Outcome State Fault Refusal :=
  runChecked State.userOnly 0 [rn a] [] (fun s =>
    let x := s.rs a
    let k := s.cur.core
    let t := bits x 0 3
    let th := s.thread k t
    if !(bits x 4 60 == 0) || t == s.cur.thr % 8 then .trap 3 s.cur.bundle else
    if bit x 3 then
      (if th.acc.any (fun e => e.held == some 47) || (match th.latch with | some l => l.cause == some 47 | none => false) then .trap 3 s.cur.bundle
       else if th.held.isSome && (th.grant.isSome || th.grantB) then .park .hold
       else .go (fun st => if th.held.isSome then st.deliver k t else st))
    else .go (fun st => if th.needsRetry then st.reissue k t else st)) s

/-! ### GSTOP, GRESUME, DBGSTEP -/

/-- The user cores of this panel that a scope names. -/
def State.scopeCores (s : State) (x : Word) : List Nat :=
  if x = podScope then s.touched.filter (fun k => !(isRanger k) && decide (k < 16384))
  else if s.ownPanel (bits x 32 8) then (rectCores (scopeRect x)).filter (fun k => !(isRanger k))
  else []

/-- The scope of a stop is refused (14 R385; 08 R210, R211): its layout, or in supervisor mode a user core that the own context
does not own. -/
def State.stopScopeBad (s : State) (x : Word) : Bool :=
  (!(decide (x = podScope)) && scopeLayoutBad x) ||
  (decide (s.src.mode = Mode.supervisor) &&
    (match s.ctxOfCore s.cur.core with
     | none => true
     | some c =>
       if x = podScope then true
       else if s.ownPanel (bits x 32 8) then !(c.holdsRect (scopeRect x)) || (s.scopeCores x).any (fun k => !((s.core k).owner == c.id))
       else !(c.panels.contains (bits x 32 8)) || !(c.holdsRect (scopeRect x))))

/-- The cores that a GSTOP or GRESUME acts on: in firmware mode those of every context. -/
def State.stopCores (s : State) (x : Word) : List Nat :=
  let l := (s.scopeCores x).filter (fun k => !((s.core k).owner == 0))
  s.widen l

/-- GSTOP (14 R385): the stop bits are set, and it parks until the sequence is complete on every core. -/
def execGstop (a : BitVec 6) (s : State) : Host.Outcome State Fault Refusal :=
  runChecked State.userOnly 0 [rn a] [] (fun s =>
    let x := s.rs a
    let sup := decide (s.src.mode = Mode.supervisor)
    if s.stopScopeBad x then .trap 33 x else
    if s.src.park = .stopping then
      (if s.stopDone (s.stopCores x) then .go id else .park .stopping)
    else
      .join .stopping (fun t => t.gangStop (t.stopCores x) sup x (if sup then some t.cur.core else none) (some (t.cur.core, t.cur.thr % 8)))) s

/-- The saved cores of a scope, by context, that no context owns now. -/
def State.savedIn (s : State) (x : Word) : List (Nat × List Nat) :=
  s.ctxs.map (fun c => (c.1, (c.2.kept.map Prod.fst).filter (fun k => s.inScope x k && (s.core k).owner == 0)))

/-- Saved cores of a scope restored by firmware (14 R386). -/
def State.restoreScope (s : State) (x : Word) : State :=
  (s.savedIn x).foldl (fun s y => if y.2.isEmpty then s else (s.restoreCores y.1 y.2).getD s) s

/-- GRESUME (14 R386). -/
def execGresume (a : BitVec 6) (s : State) : Host.Outcome State Fault Refusal :=
  runChecked State.userOnly 0 [rn a] [] (fun s =>
    let x := s.rs a
    let sup := decide (s.src.mode = Mode.supervisor)
    if s.stopScopeBad x then .trap 33 x else
    if !(s.stopDone (s.stopCores x)) then .park .stopping else
    .go (fun t =>
      let t := if sup then t else t.restoreScope x
      t.gangResume (t.stopCores x) sup (some (t.cur.core, t.cur.thr % 8)))) s

/-- A thread's record reloaded from the groundsheet (14 R390): none when a reserved bit of it is nonzero. -/
def State.reloadThread (s : State) (k t : Nat) : Option State :=
  match s.ctxOfCore k with
  | none => some s
  | some c =>
    let g := fun off n => s.recordOf c k (0x8000 + 0x4000 * (t % 8) + off) n
    if !(s.thread k t).stopped then some s else
    if !(threadRecordGood g 0 (s.detAt k)) then none else some (s.modThread k t (fun th => th.reload g 0))

/-- DBGSTEP's action on a thread (14 R389, R390): HALT, STEP, RUN, SETDBG. -/
def State.dbgAct (s : State) (k t : Nat) (x : Word) (addr : Word) : State :=
  let by_ : Option (Nat × Word) := some (s.cur.core, x)
  let bad := fun (s : State) => s.report s.cur.core 60 (x ||| 0x8000000000000000)
  match bits x 25 3 with
  | 0 => ((s.modThread k t (fun th => { th with stopD := true, stepped := by_ })).postOnce (.threadStop k t)).postOnce (.debugHalt k t)
  | 1 =>
    (match s.reloadThread k t with
     | none => bad s
     | some s => (s.modThread k t (fun th => { th with stepOne := true, stopD := false, stepped := by_ })).unstop k t)
  | 2 =>
    (match s.reloadThread k t with
     | none => bad s
     | some s => (s.modThread k t (fun th => { th with stopD := false, stepOne := false })).unstop k t)
  | _ => s.modThread k t (fun th => { th with dbgc := setBits (setBits addr 0 3 (bits x 28 3)) 56 8 0 })

/-- DBGSTEP (14 R389). -/
def execDbgstep (a : BitVec 6) (s : State) : Host.Outcome State Fault Refusal :=
  runChecked State.userOnly 0 [rn a] [] (fun s =>
    let x := s.rs a
    let t := bits x 0 3
    let k := bits x 3 14
    let act := bits x 25 3
    let own := s.ownPanel (bits x 17 8)
    if !(bits x 31 33 == 0) || decide (3 < act) || (act != 3 && bits x 28 3 != 0) then .trap 3 s.cur.bundle else
    if own && k == s.cur.core && t == s.cur.thr % 8 then .trap 3 s.cur.bundle else
    if decide (s.src.mode = Mode.supervisor) &&
        (match s.ctxOfCore s.cur.core with
         | none => true
         | some c => if own then !((s.core k).owner == c.id) || (s.thread k t).isSup
                     else !(c.panels.contains (bits x 17 8)) || !(c.inPartition k) || isRanger k) then .trap 33 x else
    if own && act == 1 && !(s.thread k t).stopD then .trap 3 s.cur.bundle else
    .go (fun st => if own then st.dbgAct k t x s.src.dbgc else st)) s

/-- DEBUG_HALT: a halted or stepped thread's record is written and the halt reported to the core that asked (14 R390). -/
def execDebugHalt (core thr : Nat) (s : State) : Host.Outcome State Fault Refusal :=
  let th := s.thread core thr
  if !th.stopD then happened s else
  if !th.stopped || !(s.accessesSettled core thr) then notYet s else
  match th.stepped with
  | none => happened s
  | some (k, x) =>
    happened (((s.putThread core thr).modThread core thr (fun th => { th with stepped := none })).report k 60 x)

/-- REPORT_TAKEN: the core supervisor takes the oldest report as a trap entry at a boundary with INTRAP = 0, parked by END
or running, after a class A cause that is pending there (14 R376, R379). A report that waits at its source then joins the queue. -/
def execReportTaken (core : Nat) (s : State) : Host.Outcome State Fault Refusal :=
  let c := s.core core
  match c.reports, (List.range 8).find? (fun t => (c.thread t).isSup) with
  | [], _ => happened s
  | _, none => if c.owner = 0 then happened s else notYet s
  | (cause, v) :: r, some t =>
    let th := c.thread t
    let atEnd := decide (th.st = TState.parked) && decide (th.park = Wait.endParked)
    if th.intrap || th.stopped || th.held.isSome || th.anyStop || !(atEnd || (decide (th.st = TState.running) && th.classA.isEmpty)) then
      notYet s else
    let s := s.modCore core (fun c => { c with
      reports := r ++ c.repWait.take 1, repWait := c.repWait.drop 1 })
    let s := s.trapEntry core t cause 3 v (if atEnd then th.pc + 8 else th.pc)
    happened (if (s.core core).reports.isEmpty then s else s.postOnce (.reportTaken core))

end Sys2Proof.Machine
end

