-- ==== Sys2Proof/Machine/Queues.lean ====
section
/-! DEFINITION. Command queues (12 R322 to R328): kicks, reading commands, their checks, completion records, the dispatcher's
order of service, and teardown (12 R330). -/

namespace Sys2Proof.Machine

/-- Where an address lies in a queue's space: host memory, or the context memory of its context with supervisor rights
(12 R322). -/
def State.ringPlace (s : State) (n ctx : Nat) (kind : AccKind) (a : Word) : Option Nat :=
  if n < 64 then some (physHost a.toNat) else
  if !(isContextVa a) then none else
  match s.ctx? ctx with
  | none => none
  | some c =>
    match s.translate c .supervisor kind a with
    | .ok p => some p
    | .error _ => none

/-- Where the command at the consumer index lies (12 R322). -/
def Queue.headAddr (q : Queue) : Word := q.base + BitVec.ofNat 64 (q.cidx.toNat % 2 ^ q.log2cap * 256)

/-- The 32 words of a command (12 R324); none when it cannot be read. -/
def State.commandAt (s : State) (n ctx : Nat) (a : Word) : Option (List Word) :=
  match s.ringPlace n ctx .load a with
  | none => none
  | some p =>
    if (List.range 8).any (fun j => s.isPoisoned (p + 32 * j)) then none
    else some ((List.range 32).map (fun i => s.rdw (p + 8 * i)))

/-- A word of a command. -/
def cw (w : List Word) (i : Nat) : Word := w.getD i 0

/-- The event that takes a command, by its OP (12 R324). -/
def commandEvent (n : Nat) (w : List Word) : Instr :=
  match bits (cw w 0) 0 4 with
  | 1 => .launchCommand n
  | 2 => .teardownCommand n
  | 3 => .barrierCommand n
  | _ => .refusedCommand n

/-- An event put among the waiting events unless it waits there without operands. -/
def State.postHeadEvent (s : State) (i : Instr) : State :=
  if s.agenda.any (fun e => decide (e.what = i) && e.input.code == 0) then s else s.post i

/-- The command at the consumer index has been read: the index moves on, and is written at CIDX (12 R322). -/
def State.consume (s : State) (n : Nat) : State :=
  let s := s.modQueue n (fun q => { q with skip := q.skip.filter (fun i => !(i == q.cidx)), cidx := q.cidx + 1, since := s.clock })
  let q := s.queue n
  match s.ringPlace n q.ctx .store q.cidxA with
  | some p => s.wrWake p 4 q.cidx.toNat
  | none => s

/-- The head of a queue looked at: a discarded command is passed over, an unreadable one sets RERR, another one goes to the
dispatcher (12 R322, R330). -/
def lookAtHead : Nat → Nat → State → State
  | 0, _, s => s
  | fuel + 1, n, s =>
    let q := s.queue n
    if !q.en || q.rerr || q.cidx == q.pidx then s else
    if q.skip.contains q.cidx then lookAtHead fuel n (s.consume n) else
    match s.commandAt n q.ctx q.headAddr with
    | none => s.modQueue n (fun q => { q with rerr := true })
    | some w => s.postHeadEvent (commandEvent n w)

/-- The head of a queue looked at. -/
def State.lookAt (s : State) (n : Nat) : State := lookAtHead 65537 n s

/-- A value written to a queue's kick register (12 R323). -/
def State.kick (s : State) (n : Nat) (v : Word) : State :=
  let q := s.queue n
  let x : BitVec 32 := v.setWidth 32
  let d := (x - q.pidx).toNat
  if !q.en || decide (s.bring < 10) then s else
  if !(bits v 32 32 == 0) then s.modQueue n (fun q => { q with err := true }) else
  if d = 0 || 2 ^ 31 ≤ d then s else
  if 2 ^ q.log2cap < (x - q.cidx).toNat then s.modQueue n (fun q => { q with err := true }) else
  (s.modQueue n (fun q => { q with pidx := x, since := if q.cidx = q.pidx then s.clock else q.since })).lookAt n

/-- KICK_REGISTER_WRITE: a host writes a kick register; the input names the queue and the value (12 R323). -/
def execKickRegisterWrite (s : State) : Host.Outcome State Fault Refusal :=
  happened (if s.input.unit < 128 then s.kick s.input.unit s.input.word else s)

/-- A completion record written at COMP, word 0 last (12 R325). -/
def State.record (s : State) (n ctx : Nat) (comp compv : Word) (status count : Nat) : State :=
  if comp = 0 || !(bits comp 0 3 == 0) then s else
  match s.ringPlace n ctx .store comp, s.ringPlace n ctx .store (comp + 8), s.ringPlace n ctx .store (comp + 16) with
  | some p, some q, some r => ((s.wrWake q 8 status).wrWake r 8 count).wrWake p 8 compv.toNat
  | _, _, _ => s

/-! ### Checks -/

/-- A word of the memory of a context read with user rights (12 R325). -/
def State.userWord (s : State) (c : Ctx) (a : Word) : Option Word :=
  if !(isContextVa a) then none else
  match s.translate c .user .load a with
  | .ok p => if s.isPoisoned p then none else some (s.rdw p)
  | .error _ => none

/-- 4 bytes of the memory of a context read with user rights, at any address: they may lie in two words. -/
def State.userHalf (s : State) (c : Ctx) (a : Word) : Option Nat :=
  let j := a.toNat % 8
  let lo := a - BitVec.ofNat 64 j
  (s.userWord c lo).bind (fun v =>
    if j ≤ 4 then some (bits v (8 * j) 32)
    else (s.userWord c (lo + 8)).map (fun u => (v.toNat + u.toNat * 2 ^ 64) / 2 ^ (8 * j) % 2 ^ 32))

/-- Words of the memory of a context read with user rights. -/
def State.userWords (s : State) (c : Ctx) (a : Word) (n : Nat) : Option (List Word) :=
  (List.range n).mapM (fun i => s.userWord c (a + BitVec.ofNat 64 (8 * i)))

/-- A ticket loop of a launch, by its descriptor (11 R306, R307); 0 stands for none. None when it is invalid or cannot be
read. In deterministic mode one counter serves the loop (12 R337). -/
def State.readLoop (s : State) (c : Ctx) (rect : BitVec 32) (a : Word) : Option Loop :=
  if a = 0 then some { addr := 0, first := 0, count := 0, body := 0, chunk := 1, shares := [] } else
  match s.userWords c a 8 with
  | none => none
  | some w =>
    let first := (cw w 0).toNat
    let count := (cw w 1).toNat
    let chunk := bits (cw w 3) 0 16
    if 2 ^ 62 ≤ first || count = 0 || 2 ^ 48 < count || 2 ^ 62 < first + count || !(bits (cw w 2) 0 3 == 0) || chunk = 0 || 4096 < chunk ||
        !(bits (cw w 3) 16 48 == 0) || !(cw w 4 == 0) || !(cw w 5 == 0) || !(cw w 6 == 0) || !(cw w 7 == 1) then none else
    let k := (count + chunk - 1) / chunk
    let dies := (List.range 128).filter (fun d => (rectCores rect).any (fun x => dieOfCore x == d))
    let n := dies.length
    some { addr := a, first := first, count := count, body := cw w 2, chunk := chunk,
           shares := if bit c.qnt 63 then [(0, 0, k)] else
             (dies.zip (List.range n)).map (fun x => (x.1, x.2 * k / n, (x.2 + 1) * k / n)) }

/-- The cores of the panel in a rectangle whose corners are any bytes: no core has an x above 127 (11 R311). -/
def patternCores (r : BitVec 32) : List Nat :=
  (rectCores (BitVec.ofNat 32 (r.toNat % 2 ^ 16 + min 127 (r.toNat / 2 ^ 16 % 2 ^ 8) * 2 ^ 16 + min 127 (r.toNat / 2 ^ 24) * 2 ^ 24)))

/-- The members a group-table entry names (11 R311). None when a member list cannot be read. -/
def State.readGroup (s : State) (c : Ctx) (w : List Word) : Option (List (Nat × Nat)) :=
  let x := cw w 0
  if !(bit x 40) then some [] else
  if bit x 41 then
    let n := bits (cw w 3) 0 16
    let a := cw w 2
    (List.range n).mapM (fun i => (s.userHalf c (a + BitVec.ofNat 64 (4 * i))).map (fun e => (e / 2 ^ 3 % 2 ^ 14, e % 8)))
  else
    some ((patternCores (x.setWidth 32)).flatMap (fun k =>
      if (coreX k - bits x 0 8) % bits (cw w 1) 0 8 == 0 && (coreY k - bits x 8 8) % bits (cw w 1) 8 8 == 0 then
        ((List.range 8).filter (fun t => bit x (32 + t))).map (fun t => (k, t))
      else []))

/-- The groups of a launch, by its group table (11 R311). None when the table or a member list cannot be read. -/
def State.readGroups (s : State) (c : Ctx) (a : Word) : Option (List Group) :=
  (List.range 256).mapM (fun g =>
    match s.userWords c (a + BitVec.ofNat 64 (32 * g)) 4 with
    | none => none
    | some w => (s.readGroup c w).map (fun m => { n := g, members := m, arrived := [], phase := 0 }))

/-- A core rectangle laid out as scope bits [31:0] is in range (08 R210). -/
def rectGood (r : BitVec 32) : Bool :=
  decide (r.toNat % 2 ^ 8 ≤ r.toNat / 2 ^ 16 % 2 ^ 8) && decide (r.toNat / 2 ^ 8 % 2 ^ 8 ≤ r.toNat / 2 ^ 24) &&
    decide (r.toNat / 2 ^ 16 % 2 ^ 8 < 128) && decide (r.toNat / 2 ^ 24 < 128)

/-- A rectangle of cores inside a context's partition (12 R325). -/
def Ctx.holdsCores (c : Ctx) (r : BitVec 32) : Bool :=
  c.inPartition (r.toNat / 2 ^ 8 % 2 ^ 8 * 128 + r.toNat % 2 ^ 8) && c.inPartition (r.toNat / 2 ^ 24 * 128 + r.toNat / 2 ^ 16 % 2 ^ 8)

/-- The words of a LAUNCH are out of range, nonzero where 0 is required, or misaligned (12 R324, R325 status 1). -/
def launchWordsBad (w : List Word) : Bool :=
  let x := cw w 0
  let y := cw w 25
  let nf := bits y 0 17
  let stkl := bits y 24 5
  bits x 6 2 == 3 || bits x 20 3 == 0 || decide (bits x 20 3 < bits x 23 3) || !(bits x 26 38 == 0) || !(bits (cw w 1) 32 32 == 0) ||
    !(rectGood ((cw w 1).setWidth 32)) || !(bits (cw w 2) 0 3 == 0) ||
    (List.range 12).any (fun i => !(bits (cw w (12 + i)) 0 6 == 0)) || !(bits (cw w 24) 0 12 == 0) || decide (nf < 16) || decide (65536 < nf) ||
    !(bits y 17 7 == 0) || !(bits y 29 35 == 0) || decide (stkl < 12) || decide (24 < stkl) || !(bits (cw w 26) 0 stkl == 0) ||
    !(bits (cw w 28) 0 3 == 0)

/-- The words of a command that must be 0 are not, for a command that uses only OP, `fields` of word 0, COMP and COMPV
(12 R324). -/
def otherWordsBad (w : List Word) (fields : Nat) : Bool :=
  !((cw w 0).toNat % 16 + fields == (cw w 0).toNat) || (List.range 27).any (fun i => !(cw w (1 + i) == 0)) || !(cw w 30 == 0) || !(cw w 31 == 0) ||
    !(bits (cw w 28) 0 3 == 0)

/-- The status that refuses a LAUNCH of a queue, if any, in the order 1, 4, 5, 2 (12 R325). -/
def State.launchStatus (s : State) (q : Queue) (w : List Word) : Option Nat :=
  let x := cw w 0
  let rect : BitVec 32 := (cw w 1).setWidth 32
  match s.ctx? (bits x 8 12) with
  | none => some 1
  | some c =>
    if launchWordsBad w || !(bits x 8 12 == q.ctx) || decide (q.pmax < bits x 4 2) || decide (c.pmax < bits x 4 2) then some 1 else
    if !(c.holdsCores rect) then some 4 else
    if !(bits x 6 2 == 0) && bit c.qnt 63 then some 5 else
    if ((List.range 8).mapM (fun i => s.readLoop c rect (cw w (12 + i)))).isNone || (s.readGroups c (cw w 11)).isNone then some 2 else none

/-! ### Holding and order -/

/-- A thread context that no launch holds (11 R282): free, or retired with its accesses and the records of its writing streams
completed (04 R104). -/
def Thread.gone (th : Thread) : Bool :=
  match th.st with
  | .free => true
  | .retired => th.acc.isEmpty && th.latch.isNone && th.drains.isEmpty && th.streams.toList.all (fun w => !w.writing || w.recs.isEmpty)
  | .running | .parked | .idle => false

/-- The user cores of a rectangle. -/
def userCores (r : BitVec 32) : List Nat := (rectCores r).filter (fun k => !(isRanger k))

/-- The thread contexts that launches hold on a core. -/
def State.holders (s : State) (k : Nat) : List Nat :=
  (List.range 8).filter (fun t => !((s.thread k t).isSup) && !((s.thread k t).gone))

/-- The contexts of a core a launch may take, in ascending number (11 R285). -/
def State.freeThreads (s : State) (c : Ctx) (k : Nat) : List Nat :=
  (List.range 8).filter (fun t => (decide (t < 7) || c.rel7) && (s.thread k t).gone)

/-- The contexts of a core that a launch takes (11 R285). -/
def State.takes (s : State) (c : Ctx) (quota k : Nat) : List Nat :=
  (s.freeThreads c k).take (quota - (s.holders k).length)

/-- The host lines of the records that a thread's writing streams have sent (10 R268). -/
def Thread.streamLines (th : Thread) : List Nat := th.streams.toList.flatMap (fun w => w.lines)

/-- A thread has retired and nothing of it is in flight any more (04 R105). -/
def State.settled (s : State) (k t : Nat) : Bool :=
  let th := s.thread k t
  let c := s.core k
  decide (th.st = TState.retired) && th.gone && th.hosts.isEmpty && !(th.streamLines.any (fun n => s.hostOutstanding (n * 128))) && !(c.copies.any (fun x => x.thr % 8 == t % 8)) &&
    !(c.mq.any (fun x => x.thr % 8 == t % 8)) && !(c.drains.any (fun x => x.op.thr % 8 == t % 8)) &&
    !(s.ordered.any (fun p => p.core == k && p.thr == t % 8))

/-- What a retired thread, whose context another launch takes, leaves under way: kind, core and number of each of its engine
commands, and of its stores and stream records with host reach (04 R105). The kinds are 0 a copy command by its id, 1 a matrix operation by its
sequence number, and 2 a store by the line that the host answers for. -/
def State.leftBy (s : State) (k t : Nat) : List (Nat × Nat × Nat) :=
  let c := s.core k
  ((c.copies.filter (fun x => x.thr % 8 == t % 8)).map (fun x => (0, k, x.id))) ++
    ((c.mq.filter (fun x => x.thr % 8 == t % 8)).map (fun x => (1, k, x.seq.toNat))) ++
    ((c.drains.filter (fun x => x.op.thr % 8 == t % 8)).map (fun x => (1, k, x.op.seq.toNat))) ++
    (((s.thread k t).hosts.map (fun h => h.2) ++ (s.thread k t).streamLines).map (fun n => (2, k, n)))

/-- Something that a retired thread left is still under way (04 R105). -/
def State.underWay (s : State) (x : Nat × Nat × Nat) : Bool :=
  let c := s.core x.2.1
  match x.1 with
  | 0 => c.copies.any (fun y => y.id == x.2.2)
  | 1 => c.mq.any (fun y => y.seq.toNat == x.2.2) || c.drains.any (fun y => y.op.seq.toNat == x.2.2)
  | _ => s.hostOutstanding (x.2.2 * 128)

/-- The threads of a core, its supervisor apart, that a launch holds or that have something in flight. -/
def State.busyThreads (s : State) (k : Nat) : List Nat :=
  (List.range 8).filter (fun t => !((s.thread k t).isSup) && !(decide ((s.thread k t).st = TState.free)) && !(s.settled k t))

/-- A core on which a launch holds threads or has something in flight. -/
def State.busy (s : State) (k : Nat) : Bool :=
  !(s.busyThreads k).isEmpty || s.launches.any (fun l => l.2.left.any (fun x => x.2.1 == k && s.underWay x))

/-- The highest priority of the launches at work on a core. -/
def State.corePrio (s : State) (k : Nat) : Nat :=
  (s.busyThreads k).foldl (fun p t => max p (match s.launchOf k t with | some l => l.prio | none => 0)) 0

/-- The cores of a rectangle that another context holds threads on. -/
def State.occupied (s : State) (id : Nat) (r : BitVec 32) : List Nat :=
  (userCores r).filter (fun k => !((s.core k).owner == id) && s.busy k)

/-- The contexts of lower priority that occupy cores of a rectangle: those that a launch pre-empts (12 R328, R329). -/
def State.victims (s : State) (id prio : Nat) (r : BitVec 32) : List Nat :=
  let ks := s.occupied id r
  (ks.map (fun k => (s.core k).owner)).eraseDups.filter (fun o =>
    (ks.filter (fun k => (s.core k).owner == o)).all (fun k => decide (s.corePrio k < prio)))

/-- A launch not seeded yet waits for contexts that it pre-empts to be saved (12 R329). -/
def State.waitsPreempt (s : State) (l : Launch) : Bool :=
  !l.seeded && (s.occupied l.ctx l.rect).any (fun k => l.preempted.contains (s.core k).owner)

/-- A launch that is not seeded yet keeps the cores of its rectangle for its context (log 3). -/
def State.keptFrom (s : State) (id : Nat) (r : BitVec 32) : Bool :=
  s.launches.any (fun l => !l.2.seeded && !(l.2.ctx == id) && (userCores r).any (fun k => inRect l.2.rect k))

/-- A context of which some part is saved, or is being pre-empted or torn down (12 R329, R330). -/
def State.setAside (s : State) (c : Ctx) : Bool :=
  c.dying || !c.kept.isEmpty || s.launches.any (fun l => !l.2.seeded && l.2.preempted.contains c.id) ||
    s.agenda.any (fun e => decide (e.what = .contextSave c.id))

/-- A LAUNCH whose checks pass is held (12 R327 to R329; 01 R18). The last two conditions are rows 3 and 5 of 12 R328, with row 4
between them: a core that no context occupies can be seeded after row 2, and row 3 counts no core that another context
occupies, of which rows 4 and 5 speak (log 25). -/
def State.launchHeld (s : State) (n : Nat) (w : List Word) : Bool :=
  let x := cw w 0
  let id := bits x 8 12
  let rect : BitVec 32 := (cw w 1).setWidth 32
  match s.ctx? id with
  | none => false
  | some c =>
    (match s.replacing with
     | some (d, _) => (rectCores rect).any (fun k => dieOfCore k == d)
     | none => false) ||
    s.setAside c || s.keptFrom id rect || s.launches.any (fun l => l.2.queue == n && !l.2.seeded) ||
    (decide (64 ≤ n) && s.queues.any (fun q => q.2.en && !q.2.rerr && !(q.2.cidx == q.2.pidx) && q.2.since == (s.queue n).since &&
      (match s.commandAt q.1 q.2.ctx q.2.headAddr with
       | some v => bits (cw v 0) 0 4 == 2 && bits (cw v 0) 8 12 == id
       | none => false))) ||
    (userCores rect).all (fun k => (s.core k).owner == id && (s.takes c (bits x 20 3) k).isEmpty) ||
    ((s.victims id (bits x 4 2) rect).isEmpty && !(s.occupied id rect).isEmpty)

/-- What the dispatcher does with the command at the head of a queue: it takes it or refuses it with a status, or passes over
the queue (12 R327, R328, R330). -/
inductive Judged where
  | refuse (status : Nat)
  | hold
  | take
  deriving DecidableEq

/-- A teardown of a context may not begin: one is under way, or a launch of the context is being seeded (12 R330). -/
def State.tearHeld (s : State) (c : Ctx) : Bool :=
  c.dying || s.launches.any (fun l => l.2.ctx == c.id && !l.2.seeded && !(s.waitsPreempt l.2))

/-- The command at the head of queue `n` judged. -/
def State.judge (s : State) (n : Nat) (w : List Word) : Judged :=
  let q := s.queue n
  let id := bits (cw w 0) 8 12
  match bits (cw w 0) 0 4 with
  | 1 =>
    (match s.launchStatus q w with
     | some st => .refuse st
     | none => if s.launchHeld n w then .hold else .take)
  | 2 =>
    (match s.ctx? id with
     | none => .refuse 1
     | some c =>
       if otherWordsBad w (id * 2 ^ 8) || !(id == q.ctx) then .refuse 1 else
       if s.tearHeld c then .hold else .take)
  | 3 => if otherWordsBad w 0 then .refuse 1 else if q.open_.isEmpty then .take else .hold
  | _ => .refuse 1

/-- The queues whose head command is not held, with its priority. -/
def State.ready (s : State) : List (Nat × Nat) :=
  s.queues.filterMap (fun q =>
    if !q.2.en || q.2.rerr || q.2.cidx == q.2.pidx then none else
    match s.commandAt q.1 q.2.ctx q.2.headAddr with
    | none => none
    | some w => if s.judge q.1 w = .hold then none else some (q.1, bits (cw w 0) 4 2))

/-- The queue that the dispatcher visits next: the highest priority, and within it ascending numbers in rotation (12 R327). -/
def State.nextQueue (s : State) : Option (Nat × Nat) :=
  s.ready.foldl (fun b x =>
    match b with
    | none => some x
    | some y =>
      let place := fun (z : Nat × Nat) => (z.1 + 127 - s.rotation[z.2 % 4]'(Nat.mod_lt _ (by decide))) % 128
      if y.2 < x.2 || (y.2 == x.2 && decide (place x < place y)) then some x else some y) none

/-- The dispatcher's turn of a queue: its head command, or none while another queue comes first or the command is held. -/
def State.turnOf (s : State) (n : Nat) : Option (List Word) :=
  match s.nextQueue with
  | some (m, _) => if m = n then s.commandAt n (s.queue n).ctx (s.queue n).headAddr else none
  | none => none

/-- The queue's visit is over: its command is consumed, and its next one comes to the head. -/
def State.visited (s : State) (n : Nat) (w : List Word) : State :=
  let p := bits (cw w 0) 4 2
  { s.consume n with rotation := s.rotation.set (p % 4) n (Nat.mod_lt _ (by decide)) }

/-- A head command gone by: an event whose command is no longer at the head ends, and the head is looked at again. -/
def State.headGone (s : State) (n : Nat) (i : Instr) : Bool :=
  let q := s.queue n
  if !q.en || q.rerr || q.cidx == q.pidx then true else
  match s.commandAt n q.ctx q.headAddr with
  | none => true
  | some w => !(decide (commandEvent n w = i))

/-- A command refused with a status (12 R325). -/
def State.refuseHead (s : State) (n : Nat) (w : List Word) (status : Nat) : State :=
  ((s.visited n w).record n (s.queue n).ctx (cw w 28) (cw w 29) status 0).lookAt n

/-- REFUSED_COMMAND: a command whose OP is not 1, 2 or 3 is refused with status 1 (12 R324). -/
def execRefusedCommand (queue : Nat) (s : State) : Host.Outcome State Fault Refusal :=
  if s.headGone queue (.refusedCommand queue) then happened (s.lookAt queue) else
  match s.turnOf queue with
  | none => notYet s
  | some w => happened (s.refuseHead queue w 1)

/-- BARRIER_COMMAND: a BARRIER completes once every earlier command of its queue has (12 R327). -/
def execBarrierCommand (queue : Nat) (s : State) : Host.Outcome State Fault Refusal :=
  if s.headGone queue (.barrierCommand queue) then happened (s.lookAt queue) else
  match s.turnOf queue with
  | none => notYet s
  | some w =>
    match s.judge queue w with
    | .refuse st => happened (s.refuseHead queue w st)
    | .hold => notYet s
    | .take => happened (((s.visited queue w).record queue (s.queue queue).ctx (cw w 28) (cw w 29) 0 0).lookAt queue)

/-! ### Teardown -/

/-- The queued and held LAUNCH commands of a context in a queue discarded with status 3, counted (12 R330 step 1). -/
def discardIn (id n : Nat) : Nat → BitVec 32 → State × Nat → State × Nat
  | 0, _, x => x
  | fuel + 1, i, (s, count) =>
    let q := s.queue n
    if i = q.pidx then (s, count) else
    let next := discardIn id n fuel (i + 1)
    if q.skip.contains i then next (s, count) else
    match s.commandAt n q.ctx (q.base + BitVec.ofNat 64 (i.toNat % 2 ^ q.log2cap * 256)) with
    | none => next (s, count)
    | some w =>
      if bits (cw w 0) 0 4 == 1 && bits (cw w 0) 8 12 == id then
        next ((s.modQueue n (fun q => { q with skip := q.skip ++ [i] })).record n q.ctx (cw w 28) (cw w 29) 3 0, count + 1)
      else next (s, count)

/-- Every LAUNCH of a context that is queued or held discarded, and their number (12 R330 step 1). -/
def State.discard (s : State) (id : Nat) : State × Nat :=
  s.queues.foldl (fun x q => if q.2.ctx == id then discardIn id q.1 65536 q.2.cidx x else x) (s, 0)

/-- What a launch's completion orders: what its threads did until they retired, and the accesses of their engine commands (08 R218; 12
R340). -/
def State.launchClock (s : State) (c : Ctx) (l : Launch) : AMap Nat :=
  (c.sigs.filter (fun g => (s.thread g.core g.thr).task.launch == l.id)).foldl (fun m g => joinClocks m [(g.who, g.ivl)])
    (c.clock (launchObj l.id))

/-- A launch's completion record is written: a load that reads its signal observes it (08 R218). -/
def State.signalClock (s : State) (l : Launch) : State :=
  match s.ctx? l.ctx, s.ringPlace l.queue l.ctx .store l.comp with
  | some c, some p => if c.det && !(l.comp == 0) then
      s.modCtx l.ctx (fun c => { c with clocks := AMap.set c.clocks (compObj p) (joinClocks (c.clock (compObj p)) (s.launchClock c l)) }) else s
  | _, _ => s

/-- A launch is over: its completion record is written, its thread contexts and frames are free, and what waits for it goes on
(11 R282; 12 R325, R329). -/
def State.closeLaunch (s : State) (l : Launch) (status : Nat) : State :=
  let s := (s.signalClock l).mapCores (fun c => { c with
    threads := c.threads.map (fun th => if th.task.launch = l.id && !th.isSup then { th with st := .free, task := Task.none } else th)
    pool := c.pool.filter (fun x => !(x.1 == l.id)) })
  let s := { s with launches := AMap.erase s.launches l.id }
  let s := s.modQueue l.queue (fun q => { q with open_ := q.open_.filter (fun i => !(i == l.index)) })
  (((s.record l.queue l.ctx l.comp l.compv status 0)).post (.preemptionRestore l.id)).lookAt l.queue

/-- The launches of a context that still wait for a pre-emption discarded with status 3, and their number (12 R330 step 1). -/
def State.discardWaiting (s : State) (id : Nat) : State × Nat :=
  s.launches.foldl (fun x l => if l.2.ctx == id && s.waitsPreempt l.2 then (x.1.closeLaunch l.2 3, x.2 + 1) else x) (s, 0)

/-- A teardown begins: its launches are discarded, and its cores gang-stopped by firmware (12 R330 steps 1 and 2). -/
def State.beginTeardown (s : State) (id : Nat) : State × Nat :=
  let (s, m) := s.discardWaiting id
  let (s, n) := s.discard id
  let s := s.queues.foldl (fun s q => if q.2.ctx == id then s.lookAt q.1 else s) s
  ((s.modCtx id (fun c => { c with dying := true })).gangStop (s.coresOf id) false podScope none none, m + n)

/-- A context's launches leave the dispatcher, with everything of theirs that waits outside its cores. -/
def State.dropLaunches (s : State) (id : Nat) : State :=
  let mine := (s.launches.filter (fun l => l.2.ctx == id)).map Prod.fst
  let s := mine.foldl (fun s l =>
    match s.launch? l with
    | some x => s.modQueue x.queue (fun q => { q with open_ := q.open_.filter (fun i => !(i == x.index)) })
    | none => s) s
  let s := { s with
    launches := s.launches.filter (fun l => !(l.2.ctx == id))
    cdies := s.cdies.map (fun d => (d.1, { d.2 with ready := d.2.ready.filter (fun c => !(mine.contains c.task.launch)) }))
    ordered := s.ordered.filter (fun p => !(p.ctx == id)) }
  (mine.foldl (fun s l => s.post (.preemptionRestore l)) s)

/-- A teardown may end: the context's cores are stopped, and their deques are spilled into their frames (12 R330; 14 R397). -/
def State.tearReady (s : State) (id : Nat) : Option State :=
  let cores := s.coresOf id
  if s.stopDone cores then some (s.spillAll cores) else none

/-- A teardown ends: the cores are saved, their supervisors told, and the cores
cleared (12 R330 steps 2 to 4). Nothing of the context waits for a restore. -/
def State.endTeardown (s : State) (id : Nat) : State :=
  let cores := s.coresOf id
  let s := cores.foldl (fun s k =>
    match s.ctx? id with
    | none => s
    | some c =>
      let s := ((s.logSaved k).putRecord c k).report k 59 (BitVec.ofNat 64 id)
      let left := (s.core k).reports.filter (fun r => decide (r.1 = 59))
      (s.clearCore k).modCore k (fun x => { x with reports := left })) s
  let s := ((cores.map dieOfCore).eraseDups).foldl (fun s d => s.putDie id d) (s.putHeader id podScope)
  (s.dropLaunches id).modCtx id (fun c => { c with
    dying := false, kept := [], keptFor := [], keptReady := [], stopping := false, reqs := [], sigs := [], clocks := [], caught := [] })

/-- TEARDOWN_COMMAND: the dispatcher takes a TEARDOWN; when the context's cores are stopped it ends, and its completion counts
the discarded launches (12 R330). The input of its second part holds the context, COMP, COMPV, and the command's index with
that count. -/
def execTeardownCommand (queue : Nat) (s : State) : Host.Outcome State Fault Refusal :=
  let x := s.input
  if x.code = 0 then
    if s.headGone queue (.teardownCommand queue) then happened (s.lookAt queue) else
    match s.turnOf queue with
    | none => notYet s
    | some w =>
      match s.judge queue w with
      | .refuse st => happened (s.refuseHead queue w st)
      | .hold => notYet s
      | .take =>
        let i := (s.queue queue).cidx
        let id := bits (cw w 0) 8 12
        let s := (s.visited queue w).modQueue queue (fun q => { q with open_ := q.open_ ++ [i] })
        let (s, n) := s.beginTeardown id
        happened ((s.lookAt queue).postIn (.teardownCommand queue)
          { Input.none with code := 1, unit := id, addr := cw w 28, word := cw w 29, pairs := [(i.toNat, n)] })
  else
    match s.tearReady x.unit with
    | none => notYet s
    | some s =>
    if s.spillsLeft (s.coresOf x.unit) then notYet s else
    let (i, n) := x.pairs.headD (0, 0)
    let s := s.endTeardown x.unit
    let s := s.modQueue queue (fun q => { q with open_ := q.open_.filter (fun j => !(j == BitVec.ofNat 32 i)) })
    happened ((s.record queue (s.queue queue).ctx x.addr x.word 0 n).lookAt queue)

end Sys2Proof.Machine
end

