-- ==== Sys2Proof/Machine/Launch.lean ====
section
/-! DEFINITION. Launches (11 R284 to R287; 12 R327 to R330; 04 R105): taking a LAUNCH, seeding, the end of its work, its
completion, and restoring what it pre-empted. -/

namespace Sys2Proof.Machine

/-- A launch from the words of its command (12 R324). -/
def Launch.ofCommand (id queue : Nat) (index : BitVec 32) (w : List Word) (loops : List Loop) (groups : List Group) (victims : List Nat) :
    Launch :=
  let x := cw w 0
  { id := id, queue := queue, index := index, ctx := bits x 8 12, prio := bits x 4 2, rmode := bits x 6 2, quota := bits x 20 3,
    roots := bits x 23 3, rect := (cw w 1).setWidth 32, entry := cw w 2, seeds := (List.range 8).map (fun i => cw w (3 + i)),
    loops := loops, dqs := (List.range 4).map (fun i => cw w (20 + i)), pb := cw w 24, nf := bits (cw w 25) 0 17,
    stkl := bits (cw w 25) 24 5, sb := cw w 26, rngk := cw w 27, comp := cw w 28, compv := cw w 29, rlog := cw w 30, crec := cw w 31,
    groups := groups, rootsLeft := 0, tasks := 0, seeded := false, ended := false, preempted := victims, reserved := [], susps := [],
    passed := [], left := [] }

/-- Contexts are gang-stopped over the whole of what they own of a rectangle, and will be saved there (12 R329). -/
def State.preempt (s : State) (launch : Nat) (victims : List Nat) (rect : BitVec 32) : State :=
  victims.foldl (fun s o =>
    let cores := s.widen ((s.coresOf o).filter (inRect rect))
    let scope : Word := rect.setWidth 64 + 0xFF00000000
    (s.gangStop cores false scope none none).postIn (.contextSave o) { Input.none with word := scope, unit := launch }) s

/-- LAUNCH_COMMAND: the dispatcher takes a LAUNCH: it is refused with a status, held, or taken to be seeded, with a
pre-emption of the contexts that occupy its cores (12 R325 to R329). -/
def execLaunchCommand (queue : Nat) (s : State) : Host.Outcome State Fault Refusal :=
  if s.headGone queue (.launchCommand queue) then happened (s.lookAt queue) else
  match s.turnOf queue with
  | none => notYet s
  | some w =>
    match s.judge queue w with
    | .refuse st => happened (s.refuseHead queue w st)
    | .hold => notYet s
    | .take =>
      match s.ctx? (bits (cw w 0) 8 12) with
      | none => notYet s
      | some c =>
        let rect : BitVec 32 := (cw w 1).setWidth 32
        let i := (s.queue queue).cidx
        let id := s.nextLaunch
        match (List.range 8).mapM (fun j => s.readLoop c rect (cw w (12 + j))), s.readGroups c (cw w 11) with
        | some loops, some groups =>
          let victims := s.victims c.id (bits (cw w 0) 4 2) rect
          let l := Launch.ofCommand id queue i w loops groups victims
          let s := (s.visited queue w).modQueue queue (fun q => { q with open_ := q.open_ ++ [i] })
          let s := { s with launches := AMap.set s.launches id l, nextLaunch := id + 1 }
          happened (((s.preempt id victims rect).postOnce (.launchSeeding id)).lookAt queue)
        | _, _ => notYet s

/-! ### Seeding -/

/-- A thread's groups, ascending (02 R55). -/
def Launch.groupsOf (l : Launch) (m : Nat × Nat) : List Nat := (l.groups.filter (fun g => g.members.contains m)).map (fun g => g.n)

/-- GRP from a thread's groups (02 R55). -/
def grpWord (l : List Nat) : Word :=
  BitVec.ofNat 64 ((l.zip (List.range 4)).foldl (fun n x => n + x.1 * 2 ^ (8 * x.2) + 2 ^ (32 + x.2)) 0)

/-- A thread context seeded (11 R285, R286; 02 R49): running as a root, or idle. What 02 R49 and the L column of 02 R51 to R61
do not name is kept: the banked registers, the trap registers, KSTAT's PMODE and INTRAP among them, and DBGC. Its intervals go on from
those of the launch before it (12 R340). -/
def Launch.seed (l : Launch) (k t : Nat) (root : Bool) (limit : Nat) (th : Thread) : Thread :=
  let fr := l.frame k t
  let base : Thread := { Thread.reset with
    ssup := th.ssup, sfw := th.sfw, dbgc := th.dbgc, kcause := th.kcause, kepc := th.kepc, kval := th.kval,
    pmode := th.pmode, intrap := th.intrap, rba := th.rba, classA := th.classA, ivl := th.ivl + 1, vc := th.vc,
    stopS := th.stopS, stopF := th.stopF, stopD := th.stopD, stopped := th.stopped,
    rngk := l.rngk, grp := grpWord (l.groupsOf (k, t)), phases := [0, 0, 0, 0], qlim := limit,
    task := { Task.none with frame := fr, launch := l.id } }
  if root then
    let base := (l.seeds.zip (List.range 8)).foldl (fun (th : Thread) x => th.writeS (BitVec.ofNat 6 (1 + x.2)) x.1) base
    let base := (base.writeS 62 (l.stackTop k t)).writeS 61 fr
    { base with st := .running, pc := l.entry }
  else { base with st := .idle, pc := l.entry }

/-- The cores that a launch seeds: those of its rectangle that no other context occupies (11 R285; 12 R328). -/
def State.seedCores (s : State) (l : Launch) : List Nat :=
  let ks := s.occupied l.ctx l.rect
  (userCores l.rect).filter (fun k => !(ks.contains k))

/-- The thread contexts that a launch takes, by core in ascending index, each with whether it starts as a root (11 R285). -/
def State.seeds (s : State) (c : Ctx) (l : Launch) : List (Nat × Nat × Bool) :=
  (s.seedCores l).flatMap (fun k =>
    let ts := s.takes c l.quota k
    (ts.zip (List.range ts.length)).map (fun x => (k, x.1, decide (x.2 < l.roots))))

/-- The join lines of every frame of a core initialised, and its free pool (11 R286, R291). -/
def State.seedFrames (s : State) (l : Launch) (k : Nat) (taken : List Nat) : State :=
  let s := (List.range l.nf).foldl (fun s f =>
    match s.frameAt k (l.frame k f) with
    | some p => (s.initJoin p).frameTouch k (l.frame k f) p
    | none => s) s
  s.modCore k (fun c => { c with
    pool := (((List.range l.nf).filter (fun f => !(taken.contains f))).map (fun f => (l.id, f))) ++ c.pool.filter (fun x => !(x.1 == l.id)) })

/-- The dies of cores whose supervisors will run the supervisor image. -/
def supDies (c : Ctx) (cores : List Nat) : List Nat := if c.rel7 then [] else (cores.map dieOfCore).eraseDups

/-- The cores of a launch that another context or none owns passed to its context (13 R352, R353), with the supervisor image
measured on their dies (13 R369): none when the image header is refused. -/
def State.passFor (s : State) (c : Ctx) (l : Launch) (cores : List Nat) : Option State :=
  let s := (supDies c cores).foldl State.measureSupervisor s
  (cores.foldl (fun (o : Option State) k => o.bind (fun s => s.passCore c k)) (some s)).map (fun s =>
    s.modLaunch l.id (fun l => { l with passed := l.passed ++ cores }))

/-- A die on which the supervisor image fails its verification stops: firmware gang-stops its cores, reports it out of service and maps a
spare in, or tears its contexts down (13 R369; 15 R418). -/
def State.stopDie (s : State) (d : Nat) : State :=
  let s := { s with out := s.out ++ [OutMsg.pldm 0x20 d] }.modCDie d (fun x => { x with up := false })
  (s.gangStop ((s.touched.filter (fun k => dieOfCore k == d && !((s.core k).owner == 0)))) false podScope none none).postIn .dieReplacement
    { Input.none with unit := d, port := 15 }

/-- Dies stopped so. -/
def State.stopDies (s : State) (l : List Nat) : State := l.foldl State.stopDie s

/-- What the retired threads whose contexts a launch takes leave under way stays with their launches (04 R105). -/
def State.keepLeft (s : State) (seeds : List (Nat × Nat)) : State :=
  seeds.foldl (fun s m => s.modLaunch (s.thread m.1 m.2).task.launch (fun l => { l with left := l.left ++ s.leftBy m.1 m.2 })) s

/-- A core supervisor has parked by END (13 R353). -/
def State.supParked (s : State) (k : Nat) : Bool :=
  (List.range 8).all (fun t => let th := s.thread k t
    !th.isSup || (decide (th.st = TState.parked) && decide (th.park = Wait.endParked) && !th.intrap))

/-- The supervisors of the cores that passed to a context for any launch not seeded yet have parked by END (13 R353). -/
def State.supsReady (s : State) (id : Nat) (cores : List Nat) : Bool :=
  s.launches.all (fun l => !(l.2.ctx == id) || l.2.seeded || l.2.passed.all (fun k => !(cores.contains k) || s.supParked k))

/-- LEN of QNT (02 R60). -/
def Ctx.len (c : Ctx) : Nat := bits c.qnt 0 32

/-- A launch takes the context's STEAL_AGE (02 R51; 13 R351 word 8) and its DET (02 R60): the first launch into an idle context begins at quantum 0; threads that run
already have a whole quantum from then on (12 R335). -/
def State.seedDet (s : State) (c : Ctx) (l : Launch) : State :=
  let det := bit c.qnt 63
  let busy := s.launches.any (fun x => x.2.ctx == c.id && x.2.seeded && !(x.1 == l.id))
  let s := if det && busy && !c.det then
      (s.coresOf c.id).foldl (fun s k => s.modCore k (fun x => { x with threads := x.threads.map (fun th => { th with qlim := th.retired + c.len }) })) s
    else s
  let s := s.modCtx c.id (fun c =>
    let c := { c with stealAge := c.image.getD 8 c.stealAge }
    if det && !busy then { c with det := true, quantum := 0, reqs := [], sigs := [], clocks := [], caught := [], advanced := s.time, stopping := false }
    else { c with det := det })
  if det then s.postOnce (.quantumEnd c.id) else s

/-- LAUNCH_SEEDING: the cores of a launch pass to its context, and once their supervisors have parked, the ranger cores seed its
threads, frames, pools and groups, all in one step (11 R285, R286, R311; 12 R331; 13 R353). A frame that cannot be accessed
keeps it waiting, with a report (11 R288). -/
def execLaunchSeeding (launch : Nat) (s : State) : Host.Outcome State Fault Refusal :=
  match s.launch? launch with
  | none => happened s
  | some l =>
    match s.ctx? l.ctx with
    | none => happened s
    | some c =>
      if l.seeded then happened s else
      if s.waitsPreempt l then notYet s else
      let cores := s.seedCores l
      let foreign := cores.filter (fun k => !((s.core k).owner == c.id))
      let refused := (supDies c foreign).filter s.supRefused
      if !refused.isEmpty then happened ((s.stopDies refused).closeLaunch l 1)
      else if !foreign.isEmpty then
        (match s.passFor c l foreign with
         | none => happened (s.closeLaunch l 1)
         | some t => notYet t)
      else if !(s.supsReady c.id cores) then notYet s else
      match cores.findSome? (fun k => ((List.range l.nf).find? (fun f => (s.frameAt k (l.frame k f)).isNone)).map (fun f => (k, f))) with
      | some (k, f) => notYet (s.frameFault k 0 (l.frame k f))
      | none =>
        let seeds := s.seeds c l
        let all := seeds.map (fun x => (x.1, x.2.1))
        let l := { l with groups := l.groups.map (fun g => { g with members := g.members.filter (fun m => all.contains m) }) }
        if all.any (fun m => 4 < (l.groupsOf m).length) then happened (s.closeLaunch l 2) else
        let s := cores.foldl (fun s k => s.seedFrames l k ((seeds.filter (fun x => x.1 == k)).map (fun x => x.2.1))) s
        let s := (s.keepLeft all).seedDet c l
        let s := seeds.foldl (fun s x => s.modThread x.1 x.2.1 (l.seed x.1 x.2.1 x.2.2 c.len)) s
        let s := s.modLaunch l.id (fun _ => { l with seeded := true, rootsLeft := (seeds.filter (fun x => x.2.2)).length })
        let s := seeds.foldl (fun s x => if x.2.2 then s else s.postOnce (.stealSearch x.1 x.2.1)) s
        happened ((s.postAll [.launchWorkEnd l.id, .launchCompletion l.id]).lookAt l.queue)

/-! ### The end of a launch -/

/-- The thread contexts of a launch on the cores of its rectangle. -/
def State.threadsOf (s : State) (l : Launch) : List (Nat × Nat) :=
  (userCores l.rect).flatMap (fun k => ((List.range 8).filter (fun t =>
    let th := s.thread k t
    decide (th.task.launch = l.id) && !th.isSup && !(decide (th.st = TState.free)))).map (fun t => (k, t)))

/-- Some core of a launch is saved. -/
def State.partSaved (s : State) (l : Launch) : Bool :=
  match s.ctx? l.ctx with
  | some c => c.kept.any (fun x => inRect l.rect x.1)
  | none => false

/-- A launch's work has ended (11 R287). -/
def State.workEnded (s : State) (l : Launch) : Bool :=
  l.rootsLeft == 0 && l.tasks == 0 && l.loops.all (fun x => x.shares.all (fun y => decide (y.2.2 ≤ y.2.1))) &&
    l.dqs.all (fun a => a == 0 || (match ((userCores l.rect).find? (fun k => (s.core k).owner == l.ctx)).bind (fun k => s.dqAt k a) with
      | some (_, _, hd, tl) => hd == tl
      | none => false))

/-- LAUNCH_WORK_END: a launch's work has ended, and every idle thread of it retires (11 R287). A replayed launch with entries
left diverges first (12 R346). -/
def execLaunchWorkEnd (launch : Nat) (s : State) : Host.Outcome State Fault Refusal :=
  match s.launch? launch with
  | none => happened s
  | some l =>
    if !l.seeded || l.ended then happened s else
    if s.partSaved l || !(s.workEnded l) then notYet s else
    match s.logLeft l with
    | some (k, at_) =>
      (match s.logAt k (l.logTable k) with
       | some p => if bit (s.rdw (p + 24)) 1 then notYet s else notYet (s.diverge k l.ctx p 0 0 at_)
       | none => notYet s)
    | none =>
      let ths := s.threadsOf l
      if ths.any (fun m => (s.thread m.1 m.2).stopped) then notYet s else
      let s := s.modLaunch launch (fun l => { l with ended := true })
      let s := ths.foldl (fun s m => if (s.thread m.1 m.2).st = .idle then s.retire m.1 m.2 else s) s
      happened ((s.postOnce (.launchCompletion launch)).postOnce (.preemptionRestore launch))

/-- A deterministic launch has accesses that no quantum's end has examined yet (12 R341). -/
def State.unexamined (s : State) (l : Launch) : Bool :=
  match s.ctx? l.ctx with
  | some c => c.det && c.sigs.any (fun g => decide (c.quantum + (if c.stopping then 1 else 0) ≤ g.q) &&
      (s.thread g.core g.thr).task.launch == l.id)
  | none => false

/-- LAUNCH_COMPLETION: when the last thread of a launch has retired and everything of the launch is performed towards every
observer, its completion record is written (04 R105, 12 R325). In deterministic mode the end of its last quantum comes first, whose
conflict record goes to the launch's CREC (12 R341; DEDUCED, log 23). -/
def execLaunchCompletion (launch : Nat) (s : State) : Host.Outcome State Fault Refusal :=
  match s.launch? launch with
  | none => happened s
  | some l =>
    if !l.seeded || s.partSaved l || !((s.threadsOf l).all (fun m => s.settled m.1 m.2)) || l.left.any s.underWay then notYet s else
    if (s.threadsOf l).isEmpty && !(s.workEnded l) then notYet s else
    if s.unexamined l then notYet s else
    happened (s.closeLaunch l 0)

/-- PREEMPTION_RESTORE: when a launch's work on the cores it took has ended and its threads there have retired, the contexts it
pre-empted are restored and resumed by firmware (12 R329; 14 R386, R398). -/
def execPreemptionRestore (launch : Nat) (s : State) : Host.Outcome State Fault Refusal :=
  let victims := s.ctxs.filter (fun c => c.2.keptFor.any (fun x => x.2 == launch))
  if s.agenda.any (fun e => (match e.what with | .contextSave _ => true | _ => false) && e.input.unit == launch) then notYet s else
  if victims.isEmpty then happened s else
  if (match s.launch? launch with | some l => !l.ended | none => false) then notYet s else
  let cores := victims.flatMap (fun c => (c.2.keptFor.filter (fun x => x.2 == launch)).map Prod.fst)
  if cores.any (fun k => s.busy k || s.launches.any (fun l => !l.2.seeded && inRect l.2.rect k)) then notYet s else
  let s := cores.foldl (fun s k => if (s.core k).owner = 0 then s else s.clearCore k) s
  happened (victims.foldl (fun s v =>
    let mine := (v.2.keptFor.filter (fun x => x.2 == launch)).map Prod.fst
    match s.restoreCores v.1 mine with
    | none => s
    | some s => s.gangResume (s.widen mine) false none) s)

end Sys2Proof.Machine
end

