-- ==== Sys2Proof/Machine/Quantum.lean ====
section
/-! DEFINITION. Deterministic mode (12 R335 to R341; 14 R388): when a quantum ends, the service of its requests, and the report of
the conflict detector. -/

namespace Sys2Proof.Machine

/-- The threads of a context but for its core supervisors. -/
def State.ctxThreads (s : State) (id : Nat) : List (Nat × Nat) :=
  (s.coresOf id).flatMap (fun k => ((List.range 8).filter (fun t =>
    !((s.thread k t).isSup) && !(decide ((s.thread k t).st = TState.free)))).map (fun t => (k, t)))

/-- A copy command that a quantum's service will inject (12 R336, R338). -/
def CopyCmd.unserved (c : CopyCmd) : Bool := c.ordered && c.state == 1 && c.key.isNone

/-- An engine of a core is at work, or can go on, by itself: a copy command in progress that the service will not inject, a command
that can start, or a matrix operation that neither a semaphore nor a drained row holds (12 R335). -/
def State.enginesGo (s : State) (k : Nat) : Bool :=
  let c := s.core k
  c.copies.any (fun x => x.state != 0 && !x.unserved) ||
    (match c.copies.find? (fun x => x.state == 0) with
     | none => false
     | some x => !(s.startWaits k x) &&
       (match s.openCopy k x with
        | .ok (_, y) => !((c.copies.filter (fun z => z.state == 1)).any (fun z => y.clashes z))
        | .error _ => true)) ||
    (match c.headOp? with
     | none => false
     | some o => o.started || !(s.opReady k o) || (!(c.drainHolds k) &&
       (match matCmd o.instr with
        | some e => c.waitMet e
        | none => true)))

/-- A parked thread waits for its core's engines, and they wait for rows that only the quantum's service grants (12 R335, R336). -/
def State.rowsHold (s : State) (k t : Nat) : Bool :=
  (s.core k).nextDrain.isSome && !(s.enginesGo k) &&
    (match (s.thread k t).park with
     | .enginesIdle | .tileMark | .queueFull | .batch | .mmasOnStream | .gang => true
     | _ => false)

/-- An injected message waits for a full inbox, an object with a bivouac list (10 R278; 11 R283; log 11). -/
def State.atFullInbox (s : State) (e : AccEntry) : Bool :=
  match e.form with
  | .msg k _ _ => e.held.isNone && e.key.isSome && decide (64 ≤ (s.core k).inbox.length)
  | _ => false

/-- Nothing of a thread can go on before the quantum's service, or before a full inbox takes a message: it has ordered operations that
are not injected, or its core's copy queue has, or such a message; every access of it that is not performed is one of them or waits
behind one; and neither engine of its core goes on (12 R335, R336). -/
def State.onlyService (s : State) (k t : Nat) : Bool :=
  let th := s.thread k t
  (!(s.ordOps k t).isEmpty || (s.core k).copies.any CopyCmd.unserved || th.acc.any s.atFullInbox) && th.sfr.isEmpty &&
    th.streams.toList.all (fun w => w.pops.isEmpty) &&
    th.acc.all (fun e => s.atFullInbox e || (e.held.isNone && e.key.isNone &&
      (e.form.isOrdered || s.mustWait k t e.ord e.epoch e.slots e.isStore e.cover))) &&
    (match th.latch with
     | some l => l.cause.isNone && l.answer.isNone && l.key.isNone
     | none => true) && !(s.enginesGo k)

/-- A parked thread waits on an object with a bivouac list, a barrier, TICKET, DRNWAIT or DONATE, and nothing it has sent for is
still under way (12 R335; 11 R283). -/
def State.onObject (s : State) (k t : Nat) : Bool :=
  let th := s.thread k t
  th.grant.isNone &&
    (match th.park with
     | .sem _ | .inbox | .barrier | .barrierTimed | .drain | .ticket => true
     | .feWord _ | .channel _ => s.cores.any (fun c => c.2.felist.any (fun x => x.1 == k && x.2.1 == t % 8))
     | .watch _ => !(th.acc.any (fun e => decide (e.form = AccForm.read)))
     | .donation => !th.call.isEmpty && !(s.releaseWaits k t th.task.pubmask th.spawns)
     | _ => false)

/-- A thread keeps the quantum open (12 R335). One that DBGSTEP has halted still owes the quantum its bundles (14 R388). -/
def State.opens (s : State) (k t : Nat) : Bool :=
  let th := s.thread k t
  match th.st with
  | .free | .retired => false
  | .idle =>
    (match th.steal with
     | none => false
     | some e => !(s.releaseWaits e.cont.core e.cont.thr e.cont.rel e.cont.spawn && s.onlyService e.cont.core e.cont.thr))
  | .running | .parked =>
    if th.stopped && !th.stopD then false else
    if th.qlim ≤ th.retired then false else
    if th.held.isSome then true else
    decide (th.st = TState.running) || !(s.onObject k t || s.rowsHold k t || (th.grant.isNone && s.onlyService k t))

/-! ### Service -/

/-- Every ordered operation of a thread that may leave takes its key and is injected (12 R336). -/
def injectAll : Nat → Nat → Nat → State → State
  | 0, _, _, s => s
  | n + 1, k, t, s =>
    match s.injectable k t with
    | none => s
    | some x =>
      match s.readOut k x with
      | .error e => s.readOutStops k t x e
      | .ok (u, l) => injectAll n k t (u.inject k t x l (s.time.setWidth 48).toNat (s.thread k t).oseq.toNat)

/-- The affinity spawns of a thread placed on the context's ready queue, in program order (12 R336, R337). A frame that cannot be
accessed keeps its task for the next quantum's end. -/
def State.placeSpawns (s : State) (id k t : Nat) : State :=
  match s.ctx? id with
  | none => s
  | some c =>
    (c.reqs.filter (fun r => r.core == k && r.thr == t % 8)).foldl (fun s r =>
      match s.frameAt k r.cont.task.frame with
      | none => s.frameFault k t r.cont.task.frame
      | some p =>
        if let some fr := (s.readyTail c.readyDie).filter (fun fr => (s.frameAt k fr).isNone) then s.frameFault k t fr else
        (s.placeReady k c.readyDie p r.cont).modCtx id (fun c => { c with reqs := c.reqs.filter (fun x => !(decide (x = r))) })) s

/-- The requests of a thread served in program order (12 R336): its ordered operations and placements, then the one it waits
on. -/
def State.serveThread (s : State) (id k t : Nat) : State :=
  let s := (injectAll (s.ordOps k t).length k t s).placeSpawns id k t
  let th := s.thread k t
  if th.seeks then (s.searchTry k t).1
  else if th.asksTicket && decide (th.st = TState.parked) then (s.ticketTry k t).1
  else if th.donates && decide (th.st = TState.parked) && !(s.releaseWaits k t th.task.pubmask th.spawns) then (s.donateTry k t).getD s
  else if decide (th.park = Wait.drain) && th.grant.isNone && (s.core k).drnList.contains (t % 8) then
    (match (s.core k).nextDrain with
     | some d => s.grantRow k (t % 8) d
     | none => s)
  else s

/-- Ascending by logical core, then thread (12 R336). -/
def State.inOrder (s : State) (l : List (Nat × Nat)) : List (Nat × Nat) :=
  (l.map (fun m => (s.logicalOf m.1 m.2 * 8 + m.2 % 8, m))).foldl (fun (acc : List (Nat × (Nat × Nat))) x =>
    acc.takeWhile (fun y => decide (y.1 ≤ x.1)) ++ x :: acc.dropWhile (fun y => decide (y.1 ≤ x.1))) [] |>.map Prod.snd

/-- The requests of a quantum served one at a time, each seeing what the ones before it left (12 R336). -/
def State.serveQuantum (s : State) (id : Nat) : State :=
  let s := (s.inOrder (s.ctxThreads id)).foldl (fun s m => s.serveThread id m.1 m.2) s
  s.postCairns

/-! ### The conflict detector's report -/

/-- An access's place in the logical order: quantum, logical core, thread, bundle. -/
def State.sigPlace (s : State) (a : Sig) : Nat × Nat := (a.q, (s.logicalOf a.core a.thr * 8 + a.thr % 8) * 2 ^ 64 + a.bundle)

/-- One place precedes another. -/
def placeBefore (a b : Nat × Nat) : Bool := decide (a.1 < b.1) || (a.1 == b.1 && decide (a.2 < b.2))

/-- The pair that a quantum's end reports: the conflict whose later access lies in the quantum and has the lowest logical core,
thread and bundle (12 R341). Of two accesses of one quantum the later one is that with the higher place. -/
def State.conflictOf (s : State) (c : Ctx) : Option (Sig × Sig) :=
  (c.sigs.filter (fun b => b.q == c.quantum)).foldl (fun best b =>
    (c.sigs.filter (fun a => a.conflicts b && placeBefore (s.sigPlace a) (s.sigPlace b))).foldl (fun best a =>
      match best with
      | none => some (a, b)
      | some (x, y) =>
        if placeBefore (s.sigPlace b) (s.sigPlace y) || (s.sigPlace b == s.sigPlace y && placeBefore (s.sigPlace a) (s.sigPlace x)) then some (a, b)
        else best) best) none

/-- Word 1 or 3 of a conflict record (12 R341). -/
def Sig.word (a : Sig) : Word := BitVec.ofNat 64 (a.thr % 8 + a.core % 2 ^ 14 * 2 ^ 8 + if a.isWrite then 2 ^ 22 else 0)

/-- A conflict record written with user rights, or dropped (12 R341). -/
def State.writeConflict (s : State) (k : Nat) (at_ : Word) (l : List Word) : Option State :=
  let places : Option (List Nat) := (List.range l.length).mapM (fun i =>
    match s.place k .user .store (at_ + BitVec.ofNat 64 (8 * i)) with
    | .ok p => some p
    | .error _ => none)
  places.map (fun ps => (ps.zip l).foldl (fun s (x : Nat × Word) => s.wrWake x.1 8 x.2.toNat) s)

/-- CONFLICT_DETECTED taken by a thread (12 R341): at its boundary, with the wait of a parked bundle withdrawn; a stopped thread
takes it when it next runs, and one whose bundle's event has come after that bundle. -/
def State.catchConflict (s : State) (id k t : Nat) (v : Word) : State :=
  let th := s.thread k t
  match th.st with
  | .free | .retired | .idle => s
  | .running | .parked =>
    let s := s.modCtx id (fun c => { c with caught := if c.caught.contains (k, t % 8) then c.caught else c.caught ++ [(k, t % 8)] })
    if th.stopped || s.mustFinish k t || th.held.isSome || th.entered then s.modThread k t (fun th => { th with classA := th.classA ++ [(42, v)] })
    else (s.withdraw k t).trapEntry k t 42 3 v th.pc

/-- The report of a quantum's end (12 R341). -/
def State.reportConflict (s : State) (id : Nat) : State :=
  match s.ctx? id with
  | none => s
  | some c =>
    match s.conflictOf c with
    | none => s
    | some (a, b) =>
      let crec := match s.launchOf b.core b.thr with
        | some l => l.crec
        | none => 0
      let (s, v) := if crec = 0 then (s, crec) else
        (match s.writeConflict b.core crec [a.loc, a.word, b.loc, b.word] with
         | some s => (s, crec)
         | none => (s, crec ||| 0x8000000000000000))
      (s.catchConflict id a.core a.thr v).catchConflict id b.core b.thr v

/-- The quantum is over: the stops that wait for its end take effect (14 R387, R388). -/
def State.endQuantum (s : State) (id : Nat) : State :=
  let stopped := (s.coresOf id).filter (fun k => !(s.core k).stops.isEmpty)
  let s := stopped.foldl (fun s k => (s.catchGroup k).modCore k (fun c => { c with
    stops := c.stops.map (fun x => if x.complete then x else { x with began := s.clock }) })) s
  s.modCtx id (fun c => { c with stopping := true })

/-- The next quantum begins for every thread in one cycle (12 R335; 02 R60). -/
def State.beginQuantum (s : State) (c : Ctx) : State :=
  let s := (s.coresOf c.id).foldl (fun s k => s.modCore k (fun x => { x with threads := x.threads.map (fun th =>
    { th with qlim := th.qlim + c.len, qseq := 0 }) })) s
  s.modCtx c.id (fun c => { c with quantum := c.quantum + 1, stopping := false })

/-- The logical watermark has advanced from a key's quantum: the time since is counted anew; while an operation kept at its core holds it, it
is not (10 R281). -/
def State.marked (s : State) (id was : Nat) : State :=
  s.modCtx id (fun c => if was / 2 ^ 57 < s.logicalMark c / 2 ^ 57 then { c with advanced := s.time } else c)

/-- QUANTUM_END: a quantum ends when no thread keeps it open; its requests are served and a conflict reported. The next one
begins once every thread that took the conflict has returned and no thread carries a stop bit (12 R335, R336, R341; 14 R388). -/
def execQuantumEnd (ctx : Nat) (s : State) : Host.Outcome State Fault Refusal :=
  match s.ctx? ctx with
  | none => happened s
  | some c =>
    let ths := s.ctxThreads ctx
    if !c.det || (c.kept.isEmpty && !(s.inQuanta c)) then happened s else
    if !c.stopping then
      if c.kept.isEmpty && !(ths.any (fun m => s.opens m.1 m.2)) then
        notYet ((((s.serveQuantum ctx).reportConflict ctx).endQuantum ctx).marked ctx (s.logicalMark c))
      else notYet s
    else
      let here := fun (m : Nat × Nat) => match (s.thread m.1 m.2).st with
        | .running | .parked => decide ((s.core m.1).owner = ctx)
        | .free | .idle | .retired => false
      let s := s.modCtx ctx (fun c => { c with caught := c.caught.filter here })
      if (c.caught.any here) || ths.any (fun m => (s.thread m.1 m.2).anyStop) || !c.kept.isEmpty then notYet s
      else notYet (s.beginQuantum c)

end Sys2Proof.Machine
end

