-- ==== Sys2Proof/Machine/Hosts.lean ====
section
/-! DEFINITION. Events of the homes, of the hosts' CXL.cache and CXL.mem requests, and of the weight store's refresh windows
(08 R197, R200 to R204; 13 R360, R363). -/

namespace Sys2Proof.Machine

/-- HOME_READ_REQUEST: the home serves a read miss of a cluster: E to a sole holder, else S, with an owner forwarding (08 R202
rule 2, R203); a read of the weight store waits for the end of a refresh window (R200), one of LPDDR6 for a channel's calibration (15
R420). The input's code is 1 for an instruction fetch or a copy engine, which never take E of host lines. -/
def execHomeReadRequest (cluster ctx : Nat) (va : Word) (s : State) : Host.Outcome State Fault Refusal :=
  match s.ctx? ctx with
  | none => happened s
  | some c =>
    if vaRegion va == 0xA then
      (if s.refreshOpen then notYet s else happened (s.putLine cluster c.id (lineOf va) .s))
    else
    match s.placeOf c va with
    | none => happened s
    | some p =>
      if s.calibrating p then notYet s else
      if s.hostOwns c va p then notYet (s.snoopHost (c.homeOf va) p 8)
      else happened ((s.cacheLeaf c va).homeRead cluster c va p (s.input.code == 0))

/-- HOME_OWNERSHIP_REQUEST: ownership is granted once every other copy is invalidated, the host's included; requests for one line in
one cycle are served in the rotating order of the home's ports, a loser after the winner (08 R197, R202 rule 3, R204). -/
def execHomeOwnershipRequest (cluster ctx : Nat) (va : Word) (s : State) : Host.Outcome State Fault Refusal :=
  match s.ctx? ctx with
  | none => happened s
  | some c =>
    match s.placeOf c va with
    | none => happened s
    | some p =>
      let (id, line) := s.aliasOf c va p
      if s.calibrating p then notYet s else
      if (match (s.mdie (s.homeOfLine id line)).entry? id line with | some e => e.host | none => false) then
        notYet (s.snoopHost (s.homeOfLine id line) p 7) else
      if s.losesPort (c.homeOf va) cluster (p / 128) then notYet s
      else happened ((s.cacheLeaf c va).homeOwn cluster c va p)

/-- TRANSLATION_WALK: a home's translation unit walks the tables; a translation it finds is cached, a walk without one leaves
nothing (13 R360, R362, R363). -/
def execTranslationWalk (ctx : Nat) (va : Word) (s : State) : Host.Outcome State Fault Refusal :=
  match s.ctx? ctx with
  | none => happened s
  | some c => happened (if isContextVa va then s.cacheLeaf c va else s)

/-- L1_EVICTION: a cluster gives a line up (08 R202 rule 4): M and O are written back to the home, E is notified, S is silent and
stays listed. The input names the cluster, the context and an address of the line. -/
def execL1Eviction (s : State) : Host.Outcome State Fault Refusal :=
  happened (s.evictL1 s.input.unit s.input.code (lineOf s.input.addr))

/-! ### Snoops of host memory -/

/-- The codes of the panel's answers to the host (08 R203, R204). -/
def rspIHitI : Nat := 0
def rspIHitSE : Nat := 1
def rspIFwdM : Nat := 2
def rspSHitSE : Nat := 3
def rspSFwdM : Nat := 4
def rspVFwdV : Nat := 5
def rspVHitV : Nat := 6
def memData : Nat := 7
def memCmp : Nat := 8

/-- An answer to the host with the 64 bytes at a place, or without data; poisoned data carries its mark, 16 more (15 R404). -/
def State.answerHost (s : State) (p code : Nat) (data : Bool) : State :=
  let a := p / 64 * 64
  let bad := data && (s.isPoisoned a || s.isPoisoned (a + 32))
  { s with out := s.out ++ [.cxlRsp p (if bad then code + 16 else code) (if data then readList s.mem a 64 else [])] }

/-- SNP_INV: every panel copy of a host line is invalidated (08 R203). The input names the host physical address. -/
def execSnpInv (s : State) : Host.Outcome State Fault Refusal :=
  let p := physHost s.input.addr.toNat
  let h := s.holdings p
  let s := s.dropPhys p
  happened (if heldDirty h then s.answerHost p rspIFwdM true else s.answerHost p (if heldAny h then rspIHitSE else rspIHitI) false)

/-- SNP_DATA: a dirty copy is written back and kept shared, a clean exclusive one becomes shared (08 R203). -/
def execSnpData (s : State) : Host.Outcome State Fault Refusal :=
  let p := physHost s.input.addr.toNat
  let h := s.holdings p
  let s := s.sharePhys p
  happened (if heldDirty h then s.answerHost p rspSFwdM true else s.answerHost p (if heldAny h then rspSHitSE else rspIHitI) false)

/-- SNP_CUR: the current data, without a change of state (08 R203). -/
def execSnpCur (s : State) : Host.Outcome State Fault Refusal :=
  let p := physHost s.input.addr.toNat
  let h := s.holdings p
  happened (if heldDirty h then s.answerHost p rspVFwdV true else s.answerHost p (if heldAny h then rspVHitV else rspIHitI) false)

/-! ### Panel memory cached by the host -/

/-- Where this event's CXL.mem access reaches panel memory. -/
def State.hdmPlace (s : State) : Option (Ctx × Nat) := s.hdmAt s.input

/-- MEM_RD: the host reads a line, and the directory records it as a sharer (MetaValue Shared, code 2) or as the owner (Any, code
1); with MetaValue Invalid (0) nothing is recorded (08 R204). -/
def execMemRd (s : State) : Host.Outcome State Fault Refusal :=
  match s.hdmPlace with
  | none => happened s
  | some (c, p) =>
    let va := s.input.addr
    let (id, line) := s.aliasOf c va p
    let home := s.homeOfLine id line
    let fresh : DirEntry := { ctx := id, line := line, way := 0, place := 0, st := .s, owner := none, shr := [], vec := [], host := true }
    let s := s.cacheAt (portDie s.input.port) c va
    match s.input.code with
    | 0 => happened (s.answerHost p memData true)
    | 1 =>
      let s := (s.recall home id line).cacheRemote home id line p .s
      happened ((s.insertEntry p { fresh with st := .e }).answerHost p memData true)
    | _ =>
      let s := s.sharePhys p
      let e := ((s.mdie home).entry? id line).getD fresh
      happened ((s.insertEntry p { e with host := true, st := .s }).answerHost p memData true)

/-- MEM_WR: the host writes 64 bytes; the write takes its place in the line's order as an ownership request, in the order of the
home's ports (08 R197, R204). -/
def execMemWr (s : State) : Host.Outcome State Fault Refusal :=
  match s.hdmPlace with
  | none => happened s
  | some (c, p) =>
    let (id, line) := s.aliasOf c s.input.addr p
    let home := s.homeOfLine id line
    if s.losesPort (c.homeOf s.input.addr) (1024 + s.input.port % 4) (p / 128) then notYet s else
    let s := ((s.cacheAt (portDie s.input.port) c s.input.addr).recall home id line).freeEntry home id line
    let a := p / 64 * 64
    let data := s.input.bytes.take 64
    let s := { s with
      mem := writeList s.mem a data
      late := s.lateLeft a data.length
      poison := s.poisonAfter ((List.range data.length).map (fun i => a + i)) }
    happened ((s.wakeWatchers p).answerHost p memCmp false)

/-- A store's wait for a host's answer ends (09 R226). -/
def Thread.dropHosts (line : Nat) (th : Thread) : Thread := { th with hosts := th.hosts.filter (fun h => !(h.2 == line)) }

/-- BI_RSP: the host answers a back-invalidation (08 R204). The input names the line's place, the host's data if it was dirty,
and whether the host keeps a shared copy (`ok` false) or none. A sector that its data writes whole loses its mark (15 R404). -/
def execBiRsp (s : State) : Host.Outcome State Fault Refusal :=
  let p := s.input.unit
  if !(s.hostOutstanding p) then happened s else
  let keep := !s.input.ok
  let s := if s.input.bytes.isEmpty then s else
    ({ s with
      mem := writeList s.mem (p / 64 * 64) (s.input.bytes.take 64)
      late := s.lateLeft (p / 64 * 64) 64
      poison := s.poisonAfter ((List.range (min 64 s.input.bytes.length)).map (fun i => p / 64 * 64 + i)) }).wakeWatchers p
  let al := s.aliases p
  let s := { s with mdies := s.mdies.map (fun (d : Nat × MDie) => (d.1, { d.2 with
    hostWait := d.2.hostWait.filter (fun l => !(l.1 == p / 128))
    dir := d.2.dir.map (fun (e : DirEntry) =>
      if al.contains (e.ctx, e.line) && e.host then { e with host := keep, st := if keep then Moesi.s else e.st } else e) })) }
  let s := al.foldl (fun s a =>
    match (s.mdie (s.homeOfLine a.1 a.2)).entry? a.1 a.2 with
    | some e => if e.holders.isEmpty && !e.host then s.freeEntry (s.homeOfLine a.1 a.2) a.1 a.2 else s
    | none => s) s
  happened (s.mapCores (fun c => { c with threads := c.threads.map (Thread.dropHosts (p / 128)) }))

/-! ### Refresh windows -/

/-- The next refresh window in WREF (08 R200; 02 R59): it starts at least 4,000,000 ticks after the one shown and lasts 1 to
4,096 ticks; where in these limits is free (log 6). -/
def State.showWindow (s : State) (start : Nat) : State :=
  let n := s.refresh
  let at_ := (start + 4000000 + (Config.refreshStart n).toNat % 2 ^ 40) % 2 ^ 48
  let len := 1 + (Config.refreshLen n).toNat % 4096
  { s with wref := BitVec.ofNat 64 (at_ + len * 2 ^ 48), refresh := n + 1 }

/-- REFRESH_WINDOW_OPEN: the window that WREF shows opens (08 R200). -/
def execRefreshWindowOpen (s : State) : Host.Outcome State Fault Refusal :=
  if s.wref = 0 || s.refreshOpen then happened s else
  if timeBefore (s.time.toNat % 2 ^ 48) (bits s.wref 0 48) then notYet s else
  happened ({ s with refreshOpen := true }.postOnce .refreshWindowClose)

/-- REFRESH_WINDOW_CLOSE: after its length the window closes, the reads it held complete, and WREF shows the next one (08 R200). -/
def execRefreshWindowClose (s : State) : Host.Outcome State Fault Refusal :=
  if !s.refreshOpen then happened s else
  if timeBefore (s.time.toNat % 2 ^ 48) ((bits s.wref 0 48 + bits s.wref 48 16) % 2 ^ 48) then notYet s else
  happened (({ s with refreshOpen := false }.showWindow (bits s.wref 0 48)).postOnce .refreshWindowOpen)

end Sys2Proof.Machine
end

