-- ==== Sys2Proof/Machine/Services.lean ====
section
/-! DEFINITION. Firmware services (15 R415, R416) and what they rest on: context entries and groundsheets (13 R351; 14 R391),
window grants (13 R357), weight-store loads (13 R368) and queue-table entries (12 R322). -/

namespace Sys2Proof.Machine

/-! ### Requests -/

/-- What firmware makes of a request it looks at: a refusal with a status, the effect and answer word 1, a condition that is
not met yet (`hold` where what was tried for it stays), or a first part whose second one follows. -/
inductive Reply where
  | refuse (status : Nat)
  | done (s : State) (w1 : Word)
  | wait
  | hold (s : State)
  | later (s : State)

/-- A request waits for its answer. -/
def State.requested (s : State) (w : Requester) : Bool :=
  match w with
  | .thread k t => (s.thread k t).fwreq.isSome
  | .mailbox p => s.boxq.contains p

/-- A request is the oldest one: of its die's cores, or of the four mailboxes (14 R381; 15 R416). -/
def State.foremost (s : State) (w : Requester) : Bool :=
  match w with
  | .thread k t => (s.cdie (dieOfCore k)).fwq.find? (fun x => (s.thread x.1 x.2).fwreq.isSome) == some (k, t % 8)
  | .mailbox p => s.boxq.head? == some p

/-- A mailbox changed. -/
def State.modBox (s : State) (p : Nat) (f : Mailbox → Mailbox) : State :=
  let i := p % 4
  have h : i < 4 := Nat.mod_lt _ (by decide)
  { s with mailbox := s.mailbox.set i (f (s.mailbox[i])) h }

/-- A mailbox. -/
def State.box (s : State) (p : Nat) : Mailbox := s.mailbox[p % 4]'(Nat.mod_lt _ (by decide))

/-- A request answered: its TRAP retires, or its mailbox holds the answer and is no longer busy (14 R381; 15 R416). -/
def State.answer (s : State) (w : Requester) (status : Nat) (w1 : Word) : State :=
  match w with
  | .thread k t => s.answerFw k t (BitVec.ofNat 64 status) w1
  | .mailbox p => { s.modBox p (fun b => { b with ans := [BitVec.ofNat 64 status, w1], busy := false }) with
      boxq := s.boxq.filter (fun x => !(x == p)) }

/-- A service: requests are served in arrival order; a service changes what it names only when its status is 0 (14 R381; 15
R415, R416). -/
def serve (f : State → Reply) (s : State) : Host.Outcome State Fault Refusal :=
  let w := s.input.who
  if s.input.code = 0 && !(s.requested w) then happened s else
  if s.input.code = 0 && !(s.foremost w) then notYet s else
  match f s with
  | .refuse st => happened (s.answer w st 0)
  | .done t x => happened (t.answer w 0 x)
  | .wait => notYet s
  | .hold t => notYet t
  | .later t => happened t

/-- An argument: s1 to s8 of the thread, or the mailbox's words, counted from 0. -/
def State.svcArg (s : State) (i : Nat) : Word :=
  match s.input.who with
  | .thread k t => (match (s.thread k t).fwreq with | some r => r.args.getD i 0 | none => 0)
  | .mailbox p => (s.box p).args.getD i 0

/-- The requester's own context; a host request carries the rights of a supervisor of every context (15 R416). -/
def State.svcCtx (s : State) : Option Nat :=
  match s.input.who with
  | .thread k _ => some (s.core k).owner
  | .mailbox _ => none

/-- A right over a context (13 R348; 15 R416). -/
def State.hasRight (s : State) (id : Nat) : Bool :=
  match s.svcCtx with
  | some own => own == id
  | none => true

/-- Where an address in a request's arguments lies: in the requester's context with supervisor rights, or in host physical
memory (13 R353; 15 R416; log 4). -/
def State.svcPlace (s : State) (kind : AccKind) (a : Word) : Option Nat :=
  match s.input.who with
  | .mailbox _ => some (physHost a.toNat)
  | .thread k _ =>
    if !(isContextVa a) then none else
    match s.ctxOfCore k with
    | none => none
    | some c => match s.translate c .supervisor kind a with | .ok p => some p | .error _ => none

/-- The places of `n` bytes from an address on. -/
def State.svcPlaces (s : State) (kind : AccKind) (a : Word) (n : Nat) : Option (List Nat) :=
  (List.range n).mapM (fun i => s.svcPlace kind (a + BitVec.ofNat 64 i))

/-- Bytes that firmware reads for a request. -/
def State.svcBytes (s : State) (a : Word) (n : Nat) : Option (List Byte) :=
  match s.svcPlaces .load a n with
  | none => none
  | some ps => if ps.any s.isPoisoned then none else some (ps.map (fun p => Memory.get s.mem p))

/-- Bytes as a number, the first least significant. -/
def leNat : List Byte → Nat
  | [] => 0
  | b :: r => b.toNat + 256 * leNat r

/-- Bytes as 64-bit words. -/
def leWords (l : List Byte) : List Word :=
  (List.range (l.length / 8)).map (fun i => BitVec.ofNat 64 (leNat ((l.drop (8 * i)).take 8)))

/-- Words that firmware reads for a request. -/
def State.svcWords (s : State) (a : Word) (n : Nat) : Option (List Word) := (s.svcBytes a (8 * n)).map leWords

/-- The security version of the ranger firmware that a logical die runs: that of the image it booted or was updated to (13 R369; 15 R415,
R419). -/
def State.firmwareVersion (s : State) (d : Nat) : Nat := (s.cdie d).fwVer.getD (Config.bootVersion 0x11 (s.siteNo d))

/-- QUERY (15 R415): the security version of the firmware that serves the request: the one of the requester's die, and for a mailbox, whose
die the spec does not name, the one of logical die 0 (DESIGN CHOICE, log 5). -/
def execQuery (s : State) : Host.Outcome State Fault Refusal :=
  serve (fun s => .done s (BitVec.ofNat 64 (s.firmwareVersion (match s.input.who with | .thread k _ => dieOfCore k | .mailbox _ => 0)))) s

/-- UNKNOWN_SERVICE (15 R415). -/
def execUnknownService (s : State) : Host.Outcome State Fault Refusal := serve (fun _ => .refuse 4) s

/-- Firmware threads parked by END wake on every die (04 R107). -/
def State.wakeAllFirmware (s : State) : State :=
  ((s.touched.filter isRanger).map dieOfCore).foldl State.wakeFirmware s

/-- MAILBOX_GO (15 R416): the host has written SVC and ARG and writes GO; while BUSY the writes are ignored, and a number above
12 bits is answered with status 1. The input holds the port, SVC and the 64 bytes of ARG. Before bring-up has ended the device answers no
host (R421 step 10). The request wakes firmware parked by END (04 R107), on every die, since the spec names none (DESIGN CHOICE, log 25). -/
def execMailboxGo (s : State) : Host.Outcome State Fault Refusal :=
  let p := s.input.port % 4
  if (s.box p).busy || decide (s.bring < 10) then happened s else
  let args := leWords (s.input.bytes ++ List.replicate (64 - s.input.bytes.length) 0)
  let s' := s.modBox p (fun b => { b with svc := s.input.word, args := args.take 8 })
  if !(bits s.input.word 12 52 == 0) then
    happened (s'.modBox p (fun b => { b with ans := [1, 0] }))
  else
    happened ((({ s'.modBox p (fun b => { b with busy := true }) with boxq := s.boxq ++ [p] }).wakeAllFirmware).postIn
      (serviceOf (bits s.input.word 0 12)) { Input.none with who := .mailbox p })

/-! ### Context entries -/

/-- A window grant from its two words (13 R357); none where a bit that must be 0 is not, or the rectangle is out of range. -/
def windowOf (lo hi : Word) : Option Window :=
  if !(hi == 0) || !(bits lo 54 10 == 0) || !(rectGood (lo.setWidth 32)) then none else
  some { rect := lo.setWidth 32, panel := bits lo 32 8, rd := bit lo 40, wr := bit lo 41, tctx := bits lo 42 12 }

/-- A weight-store extent from its word (13 R367). -/
def extentOf (w : Word) : Option Extent :=
  let x : Extent := { die := bits w 0 8, off := bits w 8 12, len := bits w 20 12 }
  if !(bits w 32 32 == 0) || 136 ≤ x.die || 2048 ≤ x.off || x.len = 0 || 2048 < x.off + x.len then none else some x

/-- The words of a context entry image break a limit (13 R351; QNT as 02 R60). -/
def entryBad (w : List Word) : Bool :=
  let x := cw w 0
  let y := cw w 3
  bits x 0 12 == 0 || decide (bits x 23 3 < bits x 16 3) || decide (bits x 26 4 < bits x 19 4) || !(bits x 30 34 == 0) ||
    !(bits (cw w 1) 0 19 == 0) || decide (2 ^ 41 ≤ (cw w 1).toNat) || bits y 0 8 == 0 || decide (136 < bits y 0 8) || decide (8 < bits y 8 4) ||
    decide (16 < bits y 12 5) || !(bits y 17 47 == 0) || !(bits (cw w 7) 32 31 == 0) || (bit (cw w 7) 63 && bits (cw w 7) 0 32 == 0) ||
    !(bits (cw w 9) 0 6 == 0) || !(isContextVa (cw w 9)) || (List.range 6).any (fun i => !(cw w (10 + i) == 0))

/-- Numbers rise strictly. -/
def rising : List Nat → Bool
  | [] => true
  | [_] => true
  | a :: b :: r => decide (a < b) && rising (b :: r)

/-- Firmware's default home set: the memory dies in service that neighbour a compute die of the partition, in ascending index (08 R194;
13 R355; 15 R407). -/
def State.defaultHset (s : State) (lx0 ly0 lx1 ly1 : Nat) : List Nat :=
  (List.range 136).filter (fun m => (s.mdie m).up && (List.range 4).any (fun n =>
    match s.neighbour (.memory m) n with
    | some (.compute i) => decide (i < 128) && decide (lx0 ≤ i % 8) && decide (i % 8 ≤ lx1) && decide (ly0 ≤ i / 8) && decide (i / 8 ≤ ly1)
    | _ => false))

/-- The home set of an entry image: the listed one, or where HSET is 0 and so names no list the default one. How an image asks for
the default set the spec does not say (DESIGN CHOICE, log 25). -/
def State.homeSetOf (s : State) (w : List Word) : Option (List Nat) :=
  let x := cw w 0
  if cw w 2 = 0 then some (s.defaultHset (bits x 16 3) (bits x 19 4) (bits x 23 3) (bits x 26 4))
  else (s.svcBytes (cw w 2) (bits (cw w 3) 0 8)).map (fun l => l.map (fun b => b.toNat))

/-- The context that an entry image at an address describes, its lists copied (13 R351); none when it cannot be read or breaks a
limit. -/
def State.readEntry (s : State) (a : Word) : Option Ctx :=
  match s.svcWords a 16 with
  | none => none
  | some w =>
    if entryBad w then none else
    let x := cw w 0
    let y := cw w 3
    match s.homeSetOf w, s.svcWords (cw w 4) (2 * bits y 8 4), s.svcWords (cw w 5) (bits y 12 5), s.svcBytes (cw w 6) 18 with
    | some hset, some gs, some es, some ps =>
      let wins := (List.range (bits y 8 4)).mapM (fun i => windowOf (cw gs (2 * i)) (cw gs (2 * i + 1)))
      let mask := leNat ps
      let panels := (List.range 144).filter (fun p => mask.testBit p)
      (match wins, es.mapM extentOf with
       | some wins, some wext =>
         if hset.isEmpty || !(rising hset) || hset.any (fun d => decide (136 ≤ d)) || !(panels.contains s.panel.toNat) then none else
         some { id := bits x 0 12, rel7 := bit x 13, pmax := bits x 14 2, lx0 := bits x 16 3, ly0 := bits x 19 4, lx1 := bits x 23 3,
                ly1 := bits x 26 4, root := cw w 1, hset := hset, wins := wins, wext := wext, panels := panels, qnt := cw w 7,
                stealAge := cw w 8, svimg := cw w 9, gsb := 0, det := false, ending := [], quantum := 0, reqs := [], sigs := [], clocks := [],
                caught := [], advanced := s.time, stopping := false, kept := [], keptFor := [], keptReady := [], dying := false,
                image := w.set 0 (cw w 0 ||| 0x1000) }
       | _, _ => none)
    | _, _, _, _ => none

/-- A die that a context entry names is out of service (15 R407, R418). -/
def State.lacks (s : State) (c : Ctx) : Bool :=
  (List.range 128).any (fun d => decide (c.lx0 ≤ d % 8) && decide (d % 8 ≤ c.lx1) && decide (c.ly0 ≤ d / 8) && decide (d / 8 ≤ c.ly1) && !((s.cdie d).up)) ||
    c.hset.any (fun d => !((s.mdie d).up)) || c.wext.any (fun e => !((s.mdie e.die).up))

/-- A window asked for by one of its two contexts, or by the host for both; it is installed when both have (13 R357). -/
def State.askWindow (s : State) (by_ : Option Nat) (acc : Nat) (w : Window) : State :=
  let s := match by_ with
    | some id => if s.winReqs.contains (id, acc, w) then s else { s with winReqs := s.winReqs ++ [(id, acc, w)] }
    | none => s
  let both := by_.isNone || (s.winReqs.contains (acc, acc, w) && s.winReqs.contains (w.tctx, acc, w))
  if both then s.modCtx acc (fun c => if c.wins.contains w then c else { c with wins := c.wins ++ [w] }) else s

/-- Firmware's place for a groundsheet (14 R391): 1 MiB aligned, and inside the LPDDR6 space (15 R425); where is free (log 6). -/
def State.groundAt (s : State) (c : Ctx) : Word :=
  BitVec.ofNat 64 ((Config.groundsheet (c.id * 2 ^ 8 + s.panel.toNat)).toNat % (2 ^ 21 - c.userCount) * 2 ^ 20)

/-- A groundsheet laid out: its header, and zero in every byte that no table names (14 R391, R392). -/
def State.layGround (s : State) (c : Ctx) : State :=
  (s.putCells (physLpddr c.gsb.toNat) (0x100000 * (1 + c.userCount)) []).wrWords (physLpddr c.gsb.toNat)
    [1, BitVec.ofNat 64 c.id, 0, 0, 0, 0, BitVec.ofNat 64 c.userCount]

/-- CTX_CREATE (15 R415; 13 R351): the context lives, and its groundsheet's address is the answer. -/
def execCtxCreate (s : State) : Host.Outcome State Fault Refusal :=
  serve (fun s =>
    match s.readEntry (s.svcArg 0) with
    | none => .refuse 1
    | some c =>
      if (s.ctx? c.id).isSome then .refuse 1 else
      if s.lacks c then .refuse 2 else
      let gsb := s.groundAt c
      let t := { s with ctxs := AMap.set s.ctxs c.id { c with gsb := gsb, wins := [] } }.layGround { c with gsb := gsb }
      let t := c.wins.foldl (fun t w =>
        match s.svcCtx with
        | none => t.askWindow none c.id w
        | some own => if own = w.tctx then (t.askWindow (some own) c.id w).askWindow (some c.id) c.id w else t.askWindow (some c.id) c.id w) t
      .done t gsb) s

/-! ### Accesses under a grant -/

/-- An address of core `k` names a core inside a grant. -/
def State.underGrant (s : State) (k : Nat) (w : Window) (a : Word) : Bool :=
  match s.scratchOf k a with
  | some (p, j, _) => !(vaRegion a == 0x8) && inRect w.rect j && s.panelKey w.panel == s.panelKey p
  | none => false

/-- An access accepted under a grant is not performed yet (13 R357): those of its threads, its ordered packets and the started
commands of its copy engines. A held one stays at its core: sent again after the revocation it is a later access, which the router refuses
(R356). -/
def State.usesGrant (s : State) (id : Nat) (w : Window) : Bool :=
  s.cores.any (fun c => c.2.owner == id &&
    (c.2.threads.toList.any (fun th =>
      th.acc.any (fun e => e.held.isNone && (e.pieces.any (fun p => s.underGrant c.1 w p.addr) ||
        (match e.form with | .msg target _ _ => inRect w.rect target | _ => false))) ||
      (match th.latch with | some l => l.cause.isNone && l.answer.isNone && s.underGrant c.1 w l.addr | none => false)) ||
     c.2.copies.any (fun x => x.state == 1))) ||
  s.ordered.any (fun p => p.ctx == id && (match p.target with | .bank k => inRect w.rect k | .inbox k => inRect w.rect k | _ => false))

/-- CTX_CHANGE (15 R415; 13 R351): only QNT, STEAL_AGE and the lists may differ, and of the lists the home set never does (08
R194). A window the new list leaves out goes when its accesses are performed (13 R357). -/
def execCtxChange (s : State) : Host.Outcome State Fault Refusal :=
  serve (fun s =>
    match s.readEntry (s.svcArg 0) with
    | none => .refuse 1
    | some n =>
      match s.ctx? n.id with
      | none => .refuse 1
      | some c =>
        if !(s.hasRight c.id) then .refuse 3 else
        if !(c.rel7 == n.rel7 && c.pmax == n.pmax && c.lx0 == n.lx0 && c.ly0 == n.ly0 && c.lx1 == n.lx1 && c.ly1 == n.ly1 &&
            decide (c.root = n.root) && decide (c.svimg = n.svimg) &&
            (decide (c.hset = n.hset) || (cw c.image 2 == 0 && cw n.image 2 == 0))) then .refuse 1 else
        if n.wext.any (fun e => !((s.mdie e.die).up)) then .refuse 2 else
        if (c.wins.filter (fun w => !(n.wins.contains w))).any (fun w => s.usesGrant c.id w) then .wait else
        let t := s.modCtx c.id (fun c => { c with
          image := n.image, qnt := n.qnt, stealAge := n.stealAge, wext := n.wext, panels := n.panels, wins := c.wins.filter (fun w => n.wins.contains w) })
        .done (n.wins.foldl (fun t w => t.askWindow s.svcCtx c.id w) t) 0) s

/-- Everything that carries a context's id is gone from the panel's tables (13 R354). -/
def State.eraseId (s : State) (id : Nat) : State :=
  let s := s.invalidate id 0 none
  { s with
    clusters := s.clusters.map (fun (c : Nat × Cluster) => (c.1, { c.2 with l1 := c.2.l1.filter (fun l => !(l.ctx == id)) }))
    mdies := s.mdies.map (fun (d : Nat × MDie) => (d.1, { d.2 with
      rlc := d.2.rlc.filter (fun l => !(l.ctx == id))
      dir := d.2.dir.filter (fun e => !(e.ctx == id))
      remap := d.2.remap.filter (fun e => !(e.ctx == id)) }))
    ctxs := AMap.erase s.ctxs id
    winReqs := s.winReqs.filter (fun x => !(x.1 == id || x.2.1 == id || x.2.2.tctx == id)) }

/-- The request of a supervisor that destroys its own context is withdrawn: its core is cleared with the context, so that no
thread is left to take an answer (14 R387 step 1; log 3). -/
def State.dropRequest (s : State) (w : Requester) (id : Nat) : State :=
  match w with
  | .thread k t => if (s.core k).owner = id then
      (s.withdraw k t).modThread k t (fun th => { th with fwreq := none }) else s
  | .mailbox _ => s

/-- CTX_DESTROY (15 R415): the context is torn down (12 R330), and when that is complete its id is free (13 R354); the answer counts
the discarded launches. The input of the second part names the context and the count. -/
def execCtxDestroy (s : State) : Host.Outcome State Fault Refusal :=
  serve (fun s =>
    if s.input.code = 0 then
      let id := bits (s.svcArg 0) 0 12
      match s.ctx? id with
      | none => .refuse 1
      | some c =>
        if !(bits (s.svcArg 0) 12 52 == 0) then .refuse 1 else
        if !(s.hasRight id) then .refuse 3 else
        if s.tearHeld c then .wait else
        let (t, n) := (s.dropRequest s.input.who id).beginTeardown id
        .later (t.postIn .ctxDestroy { Input.none with who := s.input.who, code := 1, unit := id, pairs := [(n, 0)] })
    else
      match s.tearReady s.input.unit with
      | none => .wait
      | some t =>
        if t.spillsLeft (t.coresOf s.input.unit) then .hold t else
        .done ((t.endTeardown s.input.unit).eraseId s.input.unit) (BitVec.ofNat 64 ((s.input.pairs.headD (0, 0)).1))) s

/-! ### Windows -/

/-- The grant of a request and the context that would use it: of the requester and its peer the one that is not the grant's
target; for a host request the peer (13 R357). -/
def State.grantNamed (s : State) : Option (Nat × Window) :=
  let peer := bits (s.svcArg 1) 0 12
  match s.svcWords (s.svcArg 0) 2 with
  | none => none
  | some l =>
    match windowOf (cw l 0) (cw l 1) with
    | none => none
    | some w =>
      if !(bits (s.svcArg 1) 12 52 == 0) || (s.ctx? peer).isNone || (s.ctx? w.tctx).isNone then none else
      match s.svcCtx with
      | none => if w.tctx = peer then none else some (peer, w)
      | some own => if w.tctx = peer && !(own == peer) then some (own, w) else if w.tctx = own && !(own == peer) then some (peer, w) else none

/-- WIN_GRANT (15 R415; 13 R357): the grant is installed once the supervisors of both contexts have requested it. -/
def execWinGrant (s : State) : Host.Outcome State Fault Refusal :=
  serve (fun s =>
    match s.grantNamed with
    | none => .refuse 1
    | some (acc, w) =>
      let t := s.askWindow s.svcCtx acc w
      if (match t.ctx? acc with | some c => decide (8 < c.wins.length) | none => false) then .refuse 2 else .done t 0) s

/-- WIN_REVOKE (15 R415; 13 R357): later accesses are refused from now on, and the answer follows when every access accepted under
the grant has been performed, which its packets pass the routers for until then. The input of the second part names the context and the grant. -/
def execWinRevoke (s : State) : Host.Outcome State Fault Refusal :=
  serve (fun s =>
    if s.input.code = 0 then
      match s.grantNamed with
      | none => .refuse 1
      | some (acc, w) =>
        let t := { s with winReqs := s.winReqs.filter (fun x => !(decide (x.2 = (acc, w)))) }
        let has := (match s.ctx? acc with | some c => c.wins.contains w | none => false)
        if !has && t.winReqs.length == s.winReqs.length then .refuse 1 else
        .later ((t.modCtx acc (fun c => { c with wins := c.wins.filter (fun x => !(decide (x = w))), ending := w :: c.ending })).postIn .winRevoke
          { Input.none with who := s.input.who, code := 1, unit := acc, word := (match s.svcWords (s.svcArg 0) 2 with | some l => cw l 0 | none => 0) })
    else
      match windowOf s.input.word 0 with
      | none => .done s 0
      | some w =>
        if s.usesGrant s.input.unit w then .wait
        else .done (s.modCtx s.input.unit (fun c => { c with ending := c.ending.erase w })) 0) s

/-! ### The weight store -/

/-- Bytes `off` to `off + n − 1` of a memory die's weight store lie inside an extent (13 R367, R368). -/
def Extent.holds (e : Extent) (die off n : Nat) : Bool := e.die == die && decide (e.off * 2 ^ 20 ≤ off) && decide (off + n ≤ (e.off + e.len) * 2 ^ 20)

/-- Some of them do. -/
def Extent.meets (e : Extent) (die off n : Nat) : Bool := e.die == die && decide (off < (e.off + e.len) * 2 ^ 20) && decide (e.off * 2 ^ 20 < off + n)

/-- WS_LOAD (15 R415; 13 R368): the loader copies bytes into the weight store; it waits while a launch runs whose context has an
extent over them. A sector that it writes whole is no longer poisoned (15 R405), and no L1 keeps a line of what it has written (08 R199). -/
def execWsLoad (s : State) : Host.Outcome State Fault Refusal :=
  serve (fun s =>
    let die := (s.svcArg 0).toNat
    let off := (s.svcArg 1).toNat
    let n := (s.svcArg 2).toNat
    let inside := fun (c : Ctx) => c.wext.any (fun e => e.holds die off n)
    if 136 ≤ die || 2 ^ 31 < off + n then .refuse 1 else
    if !((s.mdie die).up) then .refuse 2 else
    if !(s.ctxs.any (fun c => s.hasRight c.1 && inside c.2)) then .refuse 3 else
    match s.svcBytes (s.svcArg 3) n with
    | none => .refuse 1
    | some l =>
      if s.launches.any (fun x => x.2.seeded && (match s.ctx? x.2.ctx with | some c => c.wext.any (fun e => e.meets die off n) | none => false)) then .wait
      else
        let p := physWeight die off
        .done ({ s with
          mem := writeList s.mem p l
          poisonWeight := s.poisonWeight.filter (fun x => !(decide (p ≤ 32 * x) && decide (32 * x + 32 ≤ p + n))) }.dropWeight die off n)
          (BitVec.ofNat 64 n)) s

/-! ### Queues -/

/-- QUEUE_SET (15 R415; 12 R322): the entry takes the image's values and keeps its producer and consumer indices. -/
def execQueueSet (s : State) : Host.Outcome State Fault Refusal :=
  serve (fun s =>
    let n := (s.svcArg 0).toNat
    match s.svcWords (s.svcArg 1) 8 with
    | none => .refuse 1
    | some w =>
      let y := cw w 1
      if 128 ≤ n || !(bits (cw w 0) 0 8 == 0) || bits y 0 5 < 4 || 16 < bits y 0 5 || !(bits y 22 42 == 0) ||
          (List.range 5).any (fun i => !(cw w (3 + i) == 0)) then .refuse 1 else
      let old := s.queue n
      if s.svcCtx.isSome && (n < 64 || !(s.hasRight (bits y 8 12)) || (old.en && !(s.hasRight old.ctx))) then .refuse 3 else
      .done ((s.modQueue n (fun q => { q with
        base := cw w 0, log2cap := bits y 0 5, en := bit y 5, err := bit y 6, rerr := bit y 7, ctx := bits y 8 12, pmax := bits y 20 2,
        cidxA := cw w 2 })).lookAt n) 0) s

/-- QUEUE_KICK (15 R415; 12 R323): a value for the kick register of a device queue of the requester's context. -/
def execQueueKick (s : State) : Host.Outcome State Fault Refusal :=
  serve (fun s =>
    let n := (s.svcArg 0).toNat
    if n < 64 || 128 ≤ n || !(s.hasRight (s.queue n).ctx) || (s.ctx? (s.queue n).ctx).isNone then .refuse 1 else
    .done (s.kick n (s.svcArg 1)) 0) s

/-! ### Quarantined pages -/

/-- SECTOR_READ (15 R415, R404): of the first 64 sectors from an address of a quarantined page, those still good go to the
destination, and the answer names them. A sector of the destination that is written whole loses its mark (R404). -/
def execSectorRead (s : State) : Host.Outcome State Fault Refusal :=
  serve (fun s =>
    let a := s.svcArg 0
    let dest := s.svcArg 1
    match s.svcCtx.bind s.ctx? with
    | none => .refuse 1
    | some c =>
      if !(isContextVa a) || !(bits a 0 5 == 0) then .refuse 1 else
      match s.leafOf c a with
      | .fault => .refuse 1
      | .leaf e n =>
        if !(bit e 7) then .refuse 1 else
        let good : List (Nat × Nat) := (List.range 64).filterMap (fun i =>
          if 2 ^ n < bits a 0 n + 32 * i + 32 then none else
          match s.leafPhys c (a + BitVec.ofNat 64 (32 * i)) e n with
          | some p => if s.isPoisoned p then none else some (i, p)
          | none => none)
        match good.mapM (fun x => s.svcPlaces .store (dest + BitVec.ofNat 64 (32 * x.1)) 32) with
        | none => .refuse 1
        | some places =>
          let t := (good.zip places).foldl (fun (t : State) (x : (Nat × Nat) × List Nat) =>
            ((readList s.mem x.1.2 32).zip x.2).foldl (fun (t : State) (y : Byte × Nat) => t.wrWake y.2 1 y.1.toNat) t) s
          let t := { t with poison := s.poisonAfter places.flatten }
          .done t (BitVec.ofNat 64 (good.foldl (fun m x => m + 2 ^ x.1) 0))) s

end Sys2Proof.Machine
end

