-- ==== Sys2Proof/Machine/Attest.lean ====
section
/-! DEFINITION. Attestation and management (13 R370 to R372; 15 R417, R419, R428). -/

namespace Sys2Proof.Machine

/-! ### The capability list -/

/-- Spare sites in service and not mapped in (01 R16, R17). -/
def State.spares (s : State) : List Nat :=
  (List.range 136).filter (fun n => !((List.range 128).any (fun d => s.siteNo d == n)) && !(s.sitesOut.contains n) && (s.cdie (1000 + n)).up)

/-- The bits of a vector of flags. -/
def flagMask {n : Nat} (v : Vector Bool n) : Nat := ((v.toList.zip (List.range n)).map (fun x => if x.1 then 2 ^ x.2 else 0)).sum

/-- The dies of a list of which a test holds, one bit each, in words of 64. -/
def dieMask (n : Nat) (f : Nat → Bool) : List Word :=
  (List.range ((n + 63) / 64)).map (fun w => BitVec.ofNat 64
    (((List.range 64).filter (fun b => decide (64 * w + b < n) && f (64 * w + b))).foldl (fun m b => m + 2 ^ b) 0))

/-- The entries of the capability list: ID, VER and payload words (15 R417; the width of a payload's fields is the model's, log
5). The active dies of entry 1 are the logical dies and the memory dies in service, a bit each: a memory die out of service is reported
there (15 R407). -/
def State.capEntries (s : State) : List (Nat × Nat × List Word) :=
  [(1, 0x0100, dieMask 128 (fun d => (s.cdie d).up) ++ dieMask 136 (fun m => (s.mdie m).up) ++
      [BitVec.ofNat 64 (127 * ((List.range 128).filter (fun d => (s.cdie d).up)).length), BitVec.ofNat 64 s.spares.length]),
   (2, 1, [0xFFFFFF]), (3, 1, [0xFFFFFFFF]), (4, 1, []),
   (5, 1, [BitVec.ofNat 64 (flagMask s.ports), 3, 64]),
   (6, 1, [BitVec.ofNat 64 (Config.cxlCapacity 2), BitVec.ofNat 64 (Config.cxlCapacity 3)]),
   (7, 1, [BitVec.ofNat 64 (flagMask s.derene)]), (8, 1, [BitVec.ofNat 64 s.rlcMiB]), (9, 1, [BitVec.ofNat 64 s.quarantined])]

/-- The words of the list from an address on (15 R417). -/
def capWords (at_ : Nat) : List (Nat × Nat × List Word) → List Word
  | [] => []
  | (id, ver, p) :: r =>
    let pad := p ++ List.replicate (p.length % 2) 0
    let next := at_ + 16 + 8 * pad.length
    [BitVec.ofNat 64 (id + ver * 2 ^ 16 + 8 * p.length * 2 ^ 32), if r.isEmpty then 0 else BitVec.ofNat 64 next] ++ pad ++ capWords next r

/-- Where firmware keeps the list: 16-byte aligned, in the LPDDR6 space; where is free (log 6). -/
def capAt : Nat := Config.capabilityList.toNat % (2 ^ 37 - 32) * 16

/-- The list written, and CAPB set (15 R417, R421 step 9). -/
def State.writeCaps (s : State) : State :=
  { s.wrWords (physLpddr capAt) (capWords capAt s.capEntries) with capb := BitVec.ofNat 64 capAt }

/-! ### Attestation -/

/-- A list of words as bytes. -/
def wordBytes (l : List Word) : List Byte := l.flatMap (fun w => leBytes 8 w.toNat)

/-- The value of a measurement block (13 R372); `ctx` is the context a request names. How a map, a configuration or a list is
laid out under its hash is the model's (log 5). -/
def State.block (s : State) (i ctx : Nat) : BitVec 512 :=
  if i = 1 then s.mr68
  else if i ≤ 137 then (s.dieAtSite (i - 2)).mr
  else if i = 138 then Config.shake256 (wordBytes ((List.range 128).map (fun d => BitVec.ofNat 64 (s.siteOf d))))
  else if i = 139 then Config.shake256 (wordBytes [BitVec.ofNat 64 s.rlcMiB, s.wmlag, s.wref])
  else if i = 140 then Config.shake256 (wordBytes (capWords capAt s.capEntries))
  else match s.ctx? ctx with
    | some c => Config.shake256 (wordBytes c.image)
    | none => 0

/-- A block with its index and its flag for an untrusted component set: a die out of service (13 R372). -/
def State.blockBytes (s : State) (ctx i : Nat) : List Byte :=
  let n := i - 2
  let bad : Bool := decide (2 ≤ i) && decide (i ≤ 137) && (s.sitesOut.contains n || !((s.dieAtSite n).up))
  [BitVec.ofNat 8 i, if bad then 1 else 0] ++ leBytes 64 (s.block i ctx).toNat

/-- The transcript of a port: four DOE mailboxes, and 4 for MCTP (13 R371; 15 R428). -/
def State.transcript (s : State) (p : Nat) : List Byte := s.spdm[p % 5]'(Nat.mod_lt _ (by decide))

/-- A response sent at the request's port; request and response join the port's transcript. -/
def State.say (s : State) (r : SpdmRsp) (data : List Byte) : State :=
  let p := s.input.port % 5
  { s with
    spdm := s.spdm.set p (s.transcript p ++ s.input.bytes ++ data) (Nat.mod_lt _ (by decide))
    out := s.out ++ [.spdm p r data] }

/-- A response with the identity key's signature over the port's transcript (13 R370, R371). -/
def State.saySigned (s : State) (r : SpdmRsp) (data : List Byte) : State :=
  s.say r (data ++ Config.sign s.mr68 (s.transcript (s.input.port % 5) ++ s.input.bytes ++ data))

/-- The certificate chain of a slot: slot 0 holds one, for the identity key of the manufactured trust firmware (13 R370). -/
def State.chain (s : State) (slot : Nat) : List Byte :=
  if slot = 0 && decide (s.mr68 = Config.manufactured) then Config.certificate 0 else []

/-- GET_VERSION: SPDM 1.3 (13 R371). The input of a request holds its port and its bytes. -/
def execGetVersion (s : State) : Host.Outcome State Fault Refusal :=
  happened ({ s with spdm := s.spdm.set (s.input.port % 5) [] (Nat.mod_lt _ (by decide)) }.say .version [0x13])

/-- GET_CAPABILITIES: certificates, challenges and signed measurements (13 R371). -/
def execGetCapabilities (s : State) : Host.Outcome State Fault Refusal := happened (s.say .capabilities [0x16])

/-- The entries of the extended-algorithm fields: registry ID and algorithm identifier (13 R371). -/
def extAsym : Nat × Nat := (4, 0x5041)

/-- The hash entry (13 R371). -/
def extHash : Nat × Nat := (4, 0x5048)

/-- NEGOTIATE_ALGORITHMS: both entries offered, or NegotiationFailed (13 R371). The input holds the offered ExtAsym and ExtHash
entries. -/
def execNegotiateAlgorithms (s : State) : Host.Outcome State Fault Refusal :=
  if s.input.pairs.contains extAsym && s.input.pairs2.contains extHash then
    happened (s.say .algorithms (leBytes 1 1 ++ leBytes 1 extAsym.1 ++ leBytes 2 extAsym.2 ++ leBytes 1 extHash.1 ++ leBytes 2 extHash.2))
  else happened (s.say .negotiationFailed [])

/-- GET_DIGESTS: the SHAKE256 digest of the chain of slot 0 (13 R371). -/
def execGetDigests (s : State) : Host.Outcome State Fault Refusal :=
  happened (s.say .digests (if (s.chain 0).isEmpty then [] else leBytes 64 (Config.shake256 (s.chain 0)).toNat))

/-- GET_CERTIFICATE: a portion of a slot's chain (13 R371). The input holds the slot, and the portion's offset and length. -/
def execGetCertificate (s : State) : Host.Outcome State Fault Refusal :=
  let c := s.chain s.input.unit
  if c.isEmpty || c.length ≤ s.input.code then happened (s.say .invalidRequest []) else
  happened (s.say .certificate ((c.drop s.input.code).take s.input.word.toNat))

/-- CHALLENGE: the digest of a slot's chain and a nonce, signed (13 R371). -/
def execChallenge (s : State) : Host.Outcome State Fault Refusal :=
  let c := s.chain s.input.unit
  if c.isEmpty then happened (s.say .invalidRequest []) else
  happened ({ s with free := s.free + 1 }.saySigned .challengeAuth (leBytes 64 (Config.shake256 c).toNat ++ Config.nonce s.free))

/-- GET_MEASUREMENTS: a block, or with index 0xFF every block, as they stand at one instant; signed where the request asks for it
(13 R371, R372). The input holds the index, the context field, and whether a signature is asked for. -/
def execGetMeasurements (s : State) : Host.Outcome State Fault Refusal :=
  let i := s.input.unit
  let send := fun (s : State) (data : List Byte) =>
    if s.input.ok then { s with free := s.free + 1 }.saySigned .measurements (data ++ Config.nonce s.free) else s.say .measurements data
  if i = 0xFF then happened (send s ((List.range 141).flatMap (fun j => s.blockBytes s.input.code (j + 1)))) else
  if i = 0 || 141 < i then happened (s.say .invalidRequest []) else
  happened (send s (s.blockBytes s.input.code i))

/-- UNSUPPORTED_REQUEST (13 R371). -/
def execUnsupportedRequest (s : State) : Host.Outcome State Fault Refusal := happened (s.say .unsupportedRequest [])

/-! ### Management -/

/-- The state of a die-to-die link: there is none at the panel's border (01 R12). -/
def State.meshUp (s : State) (d : DieRef) (n : Nat) : Bool :=
  (s.neighbour d n).isSome && (match s.link? (.port d n) with | some x => x.up | none => true)

/-- The value of a sensor (15 R428): kind 0 a die temperature, 1 to 3 a rail's voltage, current or power, 4 and 5 the error counters
of a compute or a memory die, 6 and 7 a host port or a Derene link, 8 the spares remaining, 9 a memory die's temperature, 10 and 11 a
die-to-die link of a compute or a memory die (its port in `word`), 12 and 13 whether a compute or a memory die is in service (15 R407). -/
def State.sensorValue (s : State) (kind unit word : Nat) : Nat :=
  match kind with
  | 0 => (s.cdie unit).therm
  | 1 | 2 | 3 => if (s.rails.toList.getD unit false) then Config.sensor (kind * 8 + unit) s.free else 0
  | 4 => ((s.cdie unit).log.corr ++ (s.cdie unit).log.uncorr).getD word 0
  | 5 => ((s.mdie unit).log.corr ++ (s.mdie unit).log.uncorr).getD word 0
  | 6 => if s.ports.toList.getD unit false then 1 else 0
  | 7 => if s.derene.toList.getD unit false then 1 else 0
  | 9 => (s.mdie unit).therm
  | 10 => if s.meshUp (.compute unit) word then 1 else 0
  | 11 => if s.meshUp (.memory unit) word then 1 else 0
  | 12 => if (s.cdie unit).up then 1 else 0
  | 13 => if (s.mdie unit).up then 1 else 0
  | _ => s.spares.length

/-- PLDM_PLATFORM_MONITORING: a sensor is read over PLDM type 2 (15 R428). The input holds its kind, its unit and the counter. -/
def execPldmPlatformMonitoring (s : State) : Host.Outcome State Fault Refusal :=
  happened { s with free := s.free + 1, out := s.out ++ [.pldm s.input.code (s.sensorValue s.input.code s.input.unit s.input.word.toNat)] }

/-- PLDM_FIRMWARE_UPDATE: an image for stage 0x02, 0x11 or 0x20 arrives (15 R428). That of a ranger firmware is applied die by die (R419);
the others are used when their stage next boots or runs. The input holds the stage, the image, its signature and its version. -/
def execPldmFirmwareUpdate (s : State) : Host.Outcome State Fault Refusal :=
  let i : Image := { bytes := s.input.bytes, sig := s.input.more, version := s.input.word.toNat }
  match s.input.code with
  | 0x11 => happened (s.postIn .firmwareUpdate { s.input with unit := 0 })
  | 0x02 | 0x20 => happened { s with images := AMap.set s.images s.input.code i }
  | _ => happened { s with out := s.out ++ [.pldm s.input.code 0] }

/-- FIRMWARE_UPDATE: the next die takes a new ranger firmware: verified, and measured with ID 0x11; a failed verification leaves the old
image and ends the update (15 R419). The input names the logical die and holds the image. -/
def execFirmwareUpdate (s : State) : Host.Outcome State Fault Refusal :=
  let d := s.input.unit
  let i : Image := { bytes := s.input.bytes, sig := s.input.more, version := s.input.word.toNat }
  if 128 ≤ d then happened { s with images := AMap.set s.images 0x11 i } else
  let next := s.postIn .firmwareUpdate { s.input with unit := d + 1 }
  if !((s.cdie d).up) then happened next else
  if i.verified (s.siteNo d) then happened (next.modCDie d (fun x => { x with mr := extendMr x.mr i.bytes 0x11, fwVer := some i.version }))
  else happened { s with out := s.out ++ [.pldm 0x11 d] }

end Sys2Proof.Machine
end

