-- ==== Sys2Proof/Machine/Functions.lean ====
section
/-! DEFINITION. The special functions to the bit: each is computed in fixed point with an error far below the spacing of
the results, then rounded once with a sticky bit (06 R146). Arguments with an exact result are taken exactly. -/

namespace Sys2Proof.Machine

/-- Fraction bits of the fixed-point values. -/
def fixP : Nat := 320

/-- π in fixed point. -/
def fixPi : Nat := 6710401180212168915155840974220003240804194089427148950727106424351713218671805380099500388914039

/-- ln 2 in fixed point. -/
def fixLn2 : Nat := 1480553391661173448385607439722553250922680800745876974795605978609098082859138712941075737848984

/-- 2 / √π in fixed point. -/
def fixTwoSqrtPi : Nat := 2410203272519249216264429303418431786590919952803993071303316359311055940753903742343790935809570

/-- The sum of t + t·y/(k+1) + t·y²/((k+1)(k+2)) + … in fixed point, up to `n` terms. -/
def expSeries (y : Nat) : Nat → Nat → Nat → Nat
  | 0, _, _ => 0
  | n + 1, t, k => if t = 0 then 0 else t + expSeries y n (t * y / 2 ^ fixP / (k + 1)) (k + 1)

/-- e^y for a fixed-point y in [0, 1). -/
def fixExp (y : Nat) : Nat := expSeries y 120 (2 ^ fixP) 0

/-- 2 Σ z^(2k+1) / (2k+1) in fixed point: t is the power of z. -/
def lnSeries (z2 : Nat) : Nat → Nat → Nat → Nat
  | 0, _, _ => 0
  | n + 1, t, k => if t = 0 then 0 else 2 * t / k + lnSeries z2 n (t * z2 / 2 ^ fixP) (k + 2)

/-- ln of (1 + d) for a fixed-point d in [0, 1). -/
def fixLn1 (d : Nat) : Nat :=
  let z := d * 2 ^ fixP / (2 * 2 ^ fixP + d)
  lnSeries (z * z / 2 ^ fixP) 110 z 1

/-- The alternating sine series from the term t = y^k / k!, as the sum of the terms added and of those taken away. -/
def sinSeries (y2 : Nat) : Nat → Nat → Nat → Nat × Nat
  | 0, _, _ => (0, 0)
  | n + 1, t, k =>
    if t = 0 then (0, 0) else
    let r := sinSeries y2 n (t * y2 / 2 ^ fixP / ((k + 1) * (k + 2))) (k + 2)
    (t + r.2, r.1)

/-- sin y for a fixed-point y in [0, π/2]. -/
def fixSin (y : Nat) : Nat :=
  let r := sinSeries (y * y / 2 ^ fixP) 80 y 1
  r.1 - r.2

/-- Σ 2^n x^(2n+1) / (1·3·5·…·(2n+1)) in fixed point from the term t. -/
def erfSeries (x2 : Nat) : Nat → Nat → Nat → Nat
  | 0, _, _ => 0
  | n + 1, t, k => if t = 0 then 0 else t + erfSeries x2 n (t * (2 * x2) / 2 ^ fixP / (2 * k + 3)) (k + 1)

/-- e^x for a value of at most some hundreds in magnitude: fixed-point mantissa in [1, 2) scaled by 2^k. -/
def expParts (neg : Bool) (m : Nat) (e : Int) : Nat × Int :=
  -- |x| in fixed point
  let a := if 0 ≤ e then m * 2 ^ e.toNat * 2 ^ fixP else m * 2 ^ fixP / 2 ^ (-e).toNat
  let k := a / fixLn2
  let r := a % fixLn2
  if neg then
    (if r = 0 then (2 ^ fixP, -(k : Int)) else (fixExp (fixLn2 - r), -(k : Int) - 1))
  else (fixExp r, (k : Int))

/-- A rounded result of an inexact magnitude m × 2^e: a sticky bit stands below m. -/
def inexactRes (f : FFmt) (ftz neg : Bool) (m : Nat) (e : Int) : FRes := f.roundFin false ftz .rne neg (2 * m + 1) (e - 1)

/-- A value just below (or, when `above`, just above) m × 2^e in magnitude, rounded. -/
def nearRes (f : FFmt) (ftz neg above : Bool) (m : Nat) (e : Int) : FRes :=
  f.roundFin false ftz .rne neg (if above then m * 2 ^ 64 + 1 else m * 2 ^ 64 - 1) (e - 64)

/-- The quotient of two magnitudes, rounded as inexact. -/
def quotRes (f : FFmt) (ftz neg : Bool) (a b : Nat) : FRes :=
  let (m, e) := quotient a 0 b 0
  inexactRes f ftz neg m e

/-- An overflow of a function to +∞ (06 R146). -/
def overRes (f : FFmt) : FRes := { bits := f.infBits false, fl := flOF ||| flNX }

/-- The magnitude m × 2^e is at least 2^n, for m > 0. -/
def magGe (m : Nat) (e n : Int) : Bool := decide (n ≤ e + bitLen m - 1)

/-- EXP2 of a finite value. -/
def exp2Fin (f : FFmt) (ftz neg : Bool) (m : Nat) (e : Int) : FRes :=
  if m = 0 then f.roundFin false ftz .rne false 1 0 else
  if magGe m e 12 then (if neg then f.roundFin false ftz .rne false 1 (-5000) else overRes f) else
  if 0 ≤ e || m % 2 ^ (-e).toNat = 0 then
    let k : Int := if 0 ≤ e then ((m * 2 ^ e.toNat : Nat) : Int) else ((m / 2 ^ (-e).toNat : Nat) : Int)
    f.roundFin false ftz .rne false 1 (if neg then -k else k)
  else
    let sh := (-e).toNat
    let ip := m / 2 ^ sh
    let fr := m % 2 ^ sh
    let fr' := if neg then 2 ^ sh - fr else fr
    let k : Int := if neg then -(ip : Int) - 1 else ip
    if sh ≤ fixP then inexactRes f ftz false (fixExp (fr' * fixLn2 / 2 ^ sh)) (k - fixP)
    else nearRes f ftz false (!neg) 1 0

/-- LOG2 of a positive finite value. -/
def log2Fin (f : FFmt) (ftz : Bool) (m : Nat) (e : Int) : FRes :=
  let n := bitLen m - 1
  let k : Int := e + n
  let d := (m - 2 ^ n) * 2 ^ fixP / 2 ^ n
  if d = 0 then f.roundFin false ftz .rne (decide (k < 0)) k.natAbs 0
  else
    let l := fixLn1 d * 2 ^ fixP / fixLn2
    let t : Int := k * ((2 ^ fixP : Nat) : Int) + l
    if t < 0 then f.roundFin false ftz .rne true (2 * t.natAbs - 1) (-(fixP : Int) - 1)
    else inexactRes f ftz false t.natAbs (-(fixP : Int))

/-- RSQ of a positive finite value. -/
def rsqFin (f : FFmt) (ftz : Bool) (m : Nat) (e : Int) : FRes :=
  let m1 := if e % 2 = 0 then m else 2 * m
  let e1 := if e % 2 = 0 then e else e - 1
  let s : Nat := 128 + bitLen m1
  let q := 2 ^ (2 * s) / m1
  let y := isqrtFrom q 0 (bitLen q / 2 + 1)
  let x : Int := -(e1 / 2) - s
  if y * y * m1 = 2 ^ (2 * s) then f.roundFin false ftz .rne false y x else inexactRes f ftz false y x

/-- sin(π a / 2^k) for 0 < a < 2^(k−1), as a result of a sign. -/
def sinRes (f : FFmt) (ftz neg : Bool) (a k : Nat) : FRes :=
  if magGe a (-(k : Int)) (-60) then inexactRes f ftz neg (fixSin (fixPi * a / 2 ^ k)) (-(fixP : Int))
  else inexactRes f ftz neg (fixPi * a) (-(fixP : Int) - k)

/-- SINPI of a finite value. -/
def sinpiFin (f : FFmt) (ftz neg : Bool) (m : Nat) (e : Int) : FRes :=
  if m = 0 || 0 ≤ e then { bits := f.zeroBits neg, fl := 0 } else
  let k := (-e).toNat
  let a := m % 2 ^ (k + 1)
  let b := a % 2 ^ k
  let sg := xor neg (decide (2 ^ k ≤ a))
  if b = 0 then { bits := f.zeroBits neg, fl := 0 }
  else if 2 * b = 2 ^ k then f.roundFin false ftz .rne sg 1 0
  else sinRes f ftz sg (if 2 ^ k < 2 * b then 2 ^ k - b else b) k

/-- COSPI of a finite value. -/
def cospiFin (f : FFmt) (ftz : Bool) (m : Nat) (e : Int) : FRes :=
  if m = 0 then f.roundFin false ftz .rne false 1 0 else
  if 0 ≤ e then f.roundFin false ftz .rne (decide (e = 0) && m % 2 == 1) 1 0 else
  let k := (-e).toNat
  let a := m % 2 ^ (k + 1)
  let b := if 2 ^ k < a then 2 ^ (k + 1) - a else a
  if b = 0 then f.roundFin false ftz .rne false 1 0
  else if b = 2 ^ k then f.roundFin false ftz .rne true 1 0
  else if 2 * b = 2 ^ k then { bits := f.zeroBits false, fl := 0 }
  else if 2 * b < 2 ^ k then sinRes f ftz false (2 ^ k - 2 * b) (k + 1)
  else sinRes f ftz true (2 * b - 2 ^ k) (k + 1)

/-- TANH of a finite value. -/
def tanhFin (f : FFmt) (ftz neg : Bool) (m : Nat) (e : Int) : FRes :=
  if m = 0 then { bits := f.zeroBits neg, fl := 0 } else
  if magGe m e 6 then nearRes f ftz neg false 1 0 else
  if !(magGe m e (-30)) then nearRes f ftz neg false m e else
  let (n, k) := expParts true m (e + 1)
  let one := 2 ^ ((fixP : Int) - k).toNat
  quotRes f ftz neg (one - n) (one + n)

/-- ERF of a finite value. -/
def erfFin (f : FFmt) (ftz neg : Bool) (m : Nat) (e : Int) : FRes :=
  if m = 0 then { bits := f.zeroBits neg, fl := 0 } else
  if magGe m e 3 then nearRes f ftz neg false 1 0 else
  if !(magGe m e (-60)) then inexactRes f ftz neg (m * fixTwoSqrtPi) (e - fixP) else
  let x := if 0 ≤ e then m * 2 ^ e.toNat * 2 ^ fixP else m * 2 ^ fixP / 2 ^ (-e).toNat
  let x2 := x * x / 2 ^ fixP
  let (n, k) := expParts true x2 (-(fixP : Int))
  let t := erfSeries x2 400 x 0
  inexactRes f ftz neg (t * n / 2 ^ fixP * fixTwoSqrtPi / 2 ^ fixP) (k - fixP)

/-- SIGM of a finite value: 1 / (1 + e^−x). -/
def sigmFin (f : FFmt) (ftz neg : Bool) (m : Nat) (e : Int) : FRes :=
  if m = 0 then f.roundFin false ftz .rne false 1 (-1) else
  if magGe m e 10 then (if neg then f.roundFin false ftz .rne false 1 (-5000) else nearRes f ftz false false 1 0) else
  let (n, k) := expParts true m e
  let one := 2 ^ ((fixP : Int) - k).toNat
  if neg then quotRes f ftz false n (one + n) else quotRes f ftz false one (one + n)

/-- EXPM1 of a finite value. -/
def expm1Fin (f : FFmt) (ftz neg : Bool) (m : Nat) (e : Int) : FRes :=
  if m = 0 then { bits := f.zeroBits neg, fl := 0 } else
  if !(magGe m e (-40)) then nearRes f ftz neg (!neg) m e else
  if magGe m e 10 then (if neg then nearRes f ftz true false 1 0 else overRes f) else
  let (n, k) := expParts neg m e
  if neg then
    let one := 2 ^ ((fixP : Int) - k).toNat
    inexactRes f ftz true (one - n - 1) (k - fixP)
  else inexactRes f ftz false (n * 2 ^ k.toNat - 2 ^ fixP) (-(fixP : Int))

/-- LOG1P of a finite value above −1. -/
def log1pFin (f : FFmt) (ftz neg : Bool) (m : Nat) (e : Int) : FRes :=
  if m = 0 then { bits := f.zeroBits neg, fl := 0 } else
  if !(magGe m e (-40)) then nearRes f ftz neg neg m e else
  -- 1 + x as y × 2^q, exactly
  let q := min e 0
  let t := signedUnits neg m e q + (((2 ^ (-q).toNat : Nat)) : Int)
  let y := t.natAbs
  let n := bitLen y - 1
  let k : Int := q + n
  let l : Int := k * (fixLn2 : Int) + (fixLn1 ((y - 2 ^ n) * 2 ^ fixP / 2 ^ n) : Int)
  inexactRes f ftz (decide (l < 0)) l.natAbs (-(fixP : Int))

/-- A special function of a value (06 R146): `n` is its code (03 R80). -/
def sfrValue (f : FFmt) (ftz : Bool) (n : Nat) (x : FNum) : FRes :=
  let res (b : Nat) (fl : BitVec 5) : FRes := { bits := b, fl := fl }
  let one (neg : Bool) : FRes := f.roundFin false ftz .rne neg 1 0
  match x with
  | .nan b => res f.canonNan (if b then flNV else 0)
  | .inf neg =>
    match n with
    | 0 => res (if neg then f.zeroBits false else f.infBits false) 0
    | 1 => if neg then res f.canonNan flNV else res (f.infBits false) 0
    | 2 => res (f.zeroBits neg) 0
    | 3 => if neg then res f.canonNan flNV else res (f.zeroBits false) 0
    | 4 => res f.canonNan flNV
    | 5 => res f.canonNan flNV
    | 6 => one neg
    | 7 => one neg
    | 8 => if neg then res (f.zeroBits false) 0 else one false
    | 9 => if neg then one true else res (f.infBits false) 0
    | _ => if neg then res f.canonNan flNV else res (f.infBits false) 0
  | .fin neg m e =>
    match n with
    | 0 => exp2Fin f ftz neg m e
    | 1 => if m = 0 then res (f.infBits true) flDZ else if neg then res f.canonNan flNV else log2Fin f ftz m e
    | 2 => f.div ftz .rne (.fin false 1 0) (.fin neg m e)
    | 3 => if m = 0 then res (f.infBits neg) flDZ else if neg then res f.canonNan flNV else rsqFin f ftz m e
    | 4 => sinpiFin f ftz neg m e
    | 5 => cospiFin f ftz m e
    | 6 => tanhFin f ftz neg m e
    | 7 => erfFin f ftz neg m e
    | 8 => sigmFin f ftz neg m e
    | 9 => expm1Fin f ftz neg m e
    | _ =>
      let o := FNum.order (.fin neg m e) (.fin true 1 0)
      if o = 0 then res (f.infBits true) flDZ else if o < 0 then res f.canonNan flNV else log1pFin f ftz neg m e

/-- The results of an SFR request by element; an inactive element keeps its old bits (06 R145, R146). -/
def sfrResults (ty : ElemType) (fn : Nat) (fpm : Word) (q : Mask) (x old : Vec) : List FRes :=
  mapActive q ty old (fun i => sfrValue (fmtOfElem ty) (fpmFtz fpm) fn (fread ty fpm (elemAt (elemBits ty) x i)))

end Sys2Proof.Machine
end

