-- ==== Sys2Proof/Machine/Sfr.lean ====
section
/-! DEFINITION. SFR and the special-function units (06 R145 to R149). -/

namespace Sys2Proof.Machine

/-- The special-function unit of a core: 0 for cores 0 to 7 of its cluster, 1 for cores 8 to 15 (01 R23). -/
def unitOfCore (k : Nat) : Nat := coreInCluster k / 8

/-- A unit of a cluster is in service. -/
def Cluster.unitUp (c : Cluster) (u : Nat) : Bool := if u = 0 then c.sfuUp.1 else c.sfuUp.2

/-- The unit that takes a core's requests: the other one while its own is out of service (06 R148). -/
def Cluster.unitFor (c : Cluster) (k : Nat) : Nat :=
  if c.unitUp (unitOfCore k) then unitOfCore k else 1 - unitOfCore k

/-- Both units of a cluster are out of service. -/
def Cluster.noUnit (c : Cluster) : Bool := !c.sfuUp.1 && !c.sfuUp.2

/-- The requests waiting at a unit's intake. -/
def Cluster.queueOf (c : Cluster) (u : Nat) : List (Nat × Nat) := if u = 0 then c.sfuq.1 else c.sfuq.2

/-- The intake queue of a unit replaced. -/
def Cluster.setQueueOf (c : Cluster) (u : Nat) (l : List (Nat × Nat)) : Cluster :=
  { c with sfuq := if u = 0 then (l, c.sfuq.2) else (c.sfuq.1, l) }

/-- A request of the issuing thread sent to its unit (06 R145). -/
def State.sendSfr (s : State) (r : SfrReq) : State :=
  let k := s.cur.core
  let cl := clusterOfCore k
  let u := (s.cluster cl).unitFor k
  ((s.modTh (fun th => { th with sfr := th.sfr ++ [r] })).modCluster cl
    (fun c => c.setQueueOf u (c.queueOf u ++ [(k, s.cur.thr % 8)]))).postOnce (.sfrRequestIntake cl u)

/-- The results of a request over the register it writes. -/
def SfrReq.results (r : SfrReq) (old : Vec) : List FRes := sfrResults r.ty r.fn.toNat r.fpm r.mask r.src old

/-- SFR (06 R145, R146, R148; 05 R126). With every bit of FPM.EN clear it retires at issue and marks vd pending; else it
parks until its results have come, and then retires or raises FP_TRAP. -/
def execSfr (vd va : BitVec 5) (q : BitVec 3) (ty : ElemType) (v : BitVec 4) (s : State) :
    Host.Outcome State Fault Refusal :=
  runSlot 1 [rnv va, rnq q] [rnv vd] (fun s =>
    let cl := s.cluster (clusterOfCore s.cur.core)
    match s.src.sfr.find? (fun r => r.holds) with
    | some r =>
      if r.back then
        fpPlan r.fpm (r.results (s.rv vd)) (fun t =>
          (t.wv vd (vecOf r.ty (r.results (s.rv vd)))).modTh (fun th => { th with sfr := th.sfr.filter (fun x => !x.holds) }))
      else .park .sfrResult
    | none =>
      if cl.noUnit then .trap 57 (BitVec.ofNat 64 (dieOfCore s.cur.core + clusterInDie s.cur.core * 2 ^ 7)) else
      if 4 ≤ s.src.sfr.length then .park .sfrLimit else
      let r : SfrReq := { vd := vd.toNat, ty := ty, fn := v, mask := s.rq q, src := s.rv va, fpm := s.src.fpm, sent := false,
                          holds := fpmEn s.src.fpm != 0, back := false }
      if r.holds then .join .sfrResult (fun t => t.sendSfr r)
      else .go (fun t => (t.sendSfr r).modTh (fun th => th.mark [rnv vd]))) s

/-- The first request of a list changed for which `p` holds. -/
def modFirst {α : Type} (p : α → Bool) (f : α → α) : List α → List α
  | [] => []
  | x :: r => if p x then f x :: r else x :: modFirst p f r

/-- The cores a unit serves: the 8 of its half, or all 16 of the cluster while the other unit is out of service (06 R147, R148). -/
def Cluster.serves (c : Cluster) (u : Nat) : Nat := if c.unitUp (1 - u) then 8 else 16

/-- The place of a unit's intake in a cycle is a core's (06 R147): in rotation by the cycle count; which core it begins with the spec does
not say (DESIGN CHOICE, log 22). -/
def Cluster.offersTo (c : Cluster) (u clock k : Nat) : Bool := coreInCluster k % c.serves u == clock % c.serves u

/-- SFR_REQUEST_INTAKE: the unit takes the oldest request of the core whose place it is (06 R147). Out of service, it takes none (R148). -/
def execSfrRequestIntake (cluster unit : Nat) (s : State) : Host.Outcome State Fault Refusal :=
  let c := s.cluster cluster
  if (c.queueOf unit).isEmpty then happened s else
  match (c.queueOf unit).find? (fun x => c.offersTo unit s.clock x.1) with
  | none => notYet s
  | some (k, t) =>
    if !(c.unitUp unit) then notYet s else
    happened ((((s.modCluster cluster (fun c => c.setQueueOf unit ((c.queueOf unit).erase (k, t)))).modThread k t
      (fun th => { th with sfr := modFirst (fun x => !x.sent) (fun x => { x with sent := true }) th.sfr })).post
        (.sfrResultReturn k t)).postOnce (.sfrRequestIntake cluster unit))

/-- SFR_RESULT_RETURN: the oldest outstanding result of a thread comes back, in the order of its requests (06 R145). It
writes the active elements and its flags join FPF, or it ends the wait of its parked bundle (05 R126). -/
def execSfrResultReturn (core thr : Nat) (s : State) : Host.Outcome State Fault Refusal :=
  if (s.cluster (clusterOfCore core)).noUnit then notYet s else
  match (s.thread core thr).sfr with
  | [] => happened s
  | r :: rest =>
    if !r.sent then notYet s else
    if r.holds then
      happened (s.modThread core thr (fun th => { th with sfr := { r with back := true } :: rest }))
    else
      happened (s.modThread core thr (fun th =>
        let l := r.results (th.readV (BitVec.ofNat 5 r.vd))
        { (th.writeV (BitVec.ofNat 5 r.vd) (vecOf r.ty l)).unmark .user [.v r.vd] with
            sfr := rest, fpf := th.fpf ||| (orFlags l).setWidth 64 }))

end Sys2Proof.Machine
end

