-- ==== Sys2Proof/Machine/Errors.lean ====
section
/-! DEFINITION. Errors, page quarantine, machine checks, dies out of service and their replacement, special-function units, LPDDR6
calibration, scrubbing and links (15 R401 to R407, R418, R420, R424, R426; 06 R148). -/

namespace Sys2Proof.Machine

/-! ### Page quarantine -/

/-- Firmware sets QUAR in every leaf that maps a place, in every context, and issues XINV over those pages (15 R404 steps 4 and 5).
A page already quarantined is left so (R405). -/
def State.quarantine (s : State) (p : Nat) : State :=
  let found := s.ctxs.flatMap (fun c => ((s.leaves c.2).filter (fun l => (c.2.lineIn (l.page c.1) p).isSome && !(bit l.entry 7))).map (fun l => (c.1, l)))
  let s := found.foldl (fun s x =>
    (s.wrWake x.2.place 8 (x.2.entry ||| 0x80).toNat).invalidate x.1 0 (some (x.2.va.toNat, x.2.va.toNat + 2 ^ x.2.size))) s
  if found.isEmpty then s else { s with quarantined := s.quarantined + 1 }

/-- Where the sector at an address of a backing stands, on a memory die for home memory (15 R406). -/
def backPlace (back die a : Nat) : Nat :=
  match back with
  | 0 => physHome die a
  | 1 => physLpddr a
  | 2 => physCxl a
  | _ => physHost a

/-- KVAL of MACHINE_CHECK for a poisoned sector (15 R406). -/
def sectorVal (die back a : Nat) : Word :=
  BitVec.ofNat 64 (die % 256 + 12 * 2 ^ 9 + back * 2 ^ 16 + (if back = 3 && 2 ^ 51 ≤ a then 2 ^ 46 - 1 else a / 32 % 2 ^ 46) * 2 ^ 18)

/-- PAGE_QUARANTINE: an access has met an uncorrectable sector (15 R404, R405). The sector is marked and logged, firmware receives
MACHINE_CHECK, and quarantines the page; the access that reads the sector is held with QUARANTINED. The input holds the backing
(`port`) and the address (`code`), and for home memory the memory die (`unit`); `ok` false names a weight-store sector of that
die, which has no page and is reported once (R405, R406). -/
def execPageQuarantine (s : State) : Host.Outcome State Fault Refusal :=
  let x := s.input
  if !x.ok then
    let p := physWeight x.unit x.code
    if s.poisonWeight.contains (p / 32) then happened s else
    let s := { s with poisonWeight := s.poisonWeight ++ [p / 32] }
    let d : DieRef := .memory x.unit
    happened ((s.logPoison d 15 14 4 4 0 (BitVec.ofNat 64 (x.code / 32 * 32))).dieReport d 62
      (BitVec.ofNat 64 (x.unit % 256 + 14 * 2 ^ 9 + x.code / 32 % 2 ^ 26 * 2 ^ 18)))
  else
    let back := x.port % 4
    let a := x.code / 32 * 32
    let p := backPlace back x.unit a
    let die := s.filterDie p x.unit
    let s := if s.poison.contains (p / 32) then s else { s with poison := s.poison ++ [p / 32] }
    let d : DieRef := .memory die
    let s := (s.logPoison d 15 12 3 (if back = 1 then 5 else 4) (BitVec.ofNat 64 back) (BitVec.ofNat 64 a)).dieReport d 62 (sectorVal die back a)
    happened ((s.quarantine p).writeCaps)

/-- SCRUB: a stored unit is read and corrected; a correction is counted and changes no value (15 R401, R403). With `ok` false the unit
needed correction: the input holds the die (`unit`) and the kind (`port`): 0 eDRAM and 1 LPDDR6 of a memory die; 2 registers, 3 tile
rows, 4 scratchpad words and 5 L1 of a compute die, which are corrected as they are read, and 6 a request that a special-function unit
computes again (06 R147). -/
def execScrub (s : State) : Host.Outcome State Fault Refusal :=
  let x := s.input
  if x.ok then happened s else
  if 2 ≤ x.port && x.port ≤ 6 then happened (s.countError (.compute x.unit) true (if x.port = 6 then 7 else x.port - 2))
  else happened (s.countError (.memory x.unit) true (if x.port = 1 then 5 else 4))

/-! ### Teardowns that the panel makes itself -/

/-- A context torn down by firmware, in two parts of one event (12 R330): with code 10 it begins once no launch of the context is
being seeded, with code 11 it ends when its cores are stopped. The input names the context. -/
def State.tearPart (i : Instr) (s : State) : Host.Outcome State Fault Refusal :=
  let id := s.input.unit
  match s.ctx? id with
  | none => happened s
  | some c =>
    if s.input.code = 10 then
      if s.tearHeld c then notYet s else
      happened ((s.beginTeardown id).1.postIn i { s.input with code := 11 })
    else
      match s.tearReady id with
      | none => notYet s
      | some t => if t.spillsLeft (t.coresOf id) then notYet t else happened (t.endTeardown id)

/-- Teardowns of contexts put among the waiting events. -/
def State.tearAll (s : State) (i : Instr) (ids : List Nat) : State :=
  ids.foldl (fun s id => s.postIn i { Input.none with code := 10, unit := id }) s

/-! ### Links -/

/-- A physical link of the panel: one of a die's four die-to-die links, a Derene link, or a host port. -/
inductive Wire where
  | mesh (d : DieRef) (n : Nat)
  | derene (n : Nat)
  | host (n : Nat)
  deriving DecidableEq, Repr

/-- The wire that an input names: `port` 0 to 3 a link of `die` to the neighbour there, none at the border (01 R12), 8 to 25 a Derene
link, 32 to 35 a host port. -/
def State.wireOf (s : State) (x : Input) : Option Wire :=
  if x.port < 8 then (s.neighbour x.die (x.port % 4)).map (fun _ => .mesh x.die (x.port % 4))
  else if x.port < 32 then some (.derene ((x.port - 8) % 18)) else some (.host ((x.port - 32) % 4))

/-- A number for a wire. -/
def Wire.code : Wire → Nat
  | .mesh (.compute i) n => i * 4 + n
  | .mesh (.memory i) n => 4096 + i * 4 + n
  | .derene n => 8192 + n
  | .host n => 8256 + n

/-- The die at which a wire ends. -/
def Wire.die : Wire → DieRef
  | .mesh d _ => d
  | .derene n => .memory (dereneDie n)
  | .host n => .memory (portDie n)

/-- The port number of LINK_DOWN (14 R378): none is given for a host port, so it is free (log 6). -/
def Wire.portNo : Wire → Nat
  | .mesh _ n => n
  | .derene n => 8 + n
  | .host n => (Config.hostPortNumber n).toNat

/-- KVAL of LINK_DOWN (14 R378). -/
def Wire.downVal (w : Wire) : Word :=
  BitVec.ofNat 64 ((match w.die with | .compute i => i % 256 + 256 | .memory i => i % 256) + w.portNo % 32 * 2 ^ 9)

/-- The receiving links of a wire: a die-to-die link has one at each of its ends (01 R12; 10 R276, R278). -/
def State.ends (s : State) : Wire → List Link
  | .mesh d n => .port d n :: (match s.neighbour d n with | some e => [Link.port e (facingPort n)] | none => [])
  | .derene n => [dereneLink n]
  | .host _ => []

/-- A receiving link up, and in its merge sets, or down and out of them (10 R278). -/
def State.setLink (s : State) (l : Link) (up : Bool) : State :=
  let s := s.sendW l (s.linkW l)
  { s with links := s.links.map (fun (x : LinkSt) => if x.l = l then { x with up := up, merge := up } else x) }

/-- The remap-filter entries of host lines stand at the port that serves them (13 R364, 15 R424). -/
def State.moveFilters (s : State) : State :=
  let l := s.mdies.flatMap (fun d => d.2.remap.filter (fun r => r.back == 2))
  let s := { s with mdies := s.mdies.map (fun (d : Nat × MDie) => (d.1, { d.2 with remap := d.2.remap.filter (fun r => !(r.back == 2)) })) }
  l.foldl (fun s r => s.modMDie (s.filterDie (r.pline * 128) 0) (fun d => d.addRemap r.back r.pline r.ctx r.line)) s

/-- The requests that hosts have not answered are made again through the ports that are up, when one goes down (15 R424). The model does not
say which port a request went to, and makes each again (log 6). -/
def State.askAgain (s : State) : State :=
  if !(s.ports.toList.any id) then s else
  (s.mdies.flatMap (fun d => d.2.hostWait)).foldl (fun s x => s.hostRequest (x.1 * 128) x.2) s

/-- A wire up or down: host-backed lines move between ports, and a link that is down is in no merge set (15 R424, R426; 10 R278). -/
def State.setWire (s : State) (w : Wire) (up : Bool) : State :=
  let s := match w with
    | .mesh _ _ => s
    | .derene n => { s with derene := s.derene.set (n % 18) up (Nat.mod_lt _ (by decide)) }
    | .host n =>
      let s := { s with ports := s.ports.set (n % 4) up (Nat.mod_lt _ (by decide)) }.moveFilters
      if up then s else s.askAgain
  (s.ends w).foldl (fun s l => s.setLink l up) s

/-- A wire goes down: LINK_DOWN, a log entry, and the effects on traffic (14 R378; 15 R401, R424, R426). -/
def State.wireDown (s : State) (w : Wire) : State :=
  let unit := match w with | .mesh _ _ => 4 | .derene _ => 8 | .host _ => 7
  let s := ((s.setWire w false).countError w.die false 6).addLog w.die
    { w0 := logWord0 48 unit 5 false, w1 := BitVec.ofNat 64 (w.portNo % 32), w2 := 0, w3 := s.time }
  (s.dieReport w.die 48 w.downVal).writeCaps

/-- LINK_RETRY: a flit with a CRC error is sent again; after 16 consecutive failed retries the link is down (15 R401). `ok` says that
this retry has succeeded. -/
def execLinkRetry (s : State) : Host.Outcome State Fault Refusal :=
  match s.wireOf s.input with
  | none => happened s
  | some w =>
  if s.input.ok then
    happened ({ s with retries := AMap.erase s.retries w.code }.countError w.die true 6)
  else
    let n := AMap.getD 0 s.retries w.code + 1
    if n < 16 then happened { s with retries := AMap.set s.retries w.code n }
    else happened ({ s with retries := AMap.erase s.retries w.code }.wireDown w)

/-- LINK_UP: a link that was down is up again (15 R424, R426). -/
def execLinkUp (s : State) : Host.Outcome State Fault Refusal :=
  match s.wireOf s.input with
  | none => happened s
  | some w => happened ((s.setWire w true).writeCaps)

/-! ### Dies out of service -/

/-- The contexts that a memory die taken out of service brings down (15 R407). -/
def State.dependOn (s : State) (m : Nat) : List Nat :=
  (s.ctxs.filter (fun c => m == 68 || decide (m < 16) || (decide (120 ≤ m) && decide (m < 136)) || c.2.hset.contains m ||
    c.2.wext.any (fun e => e.die == m))).map Prod.fst

/-- MEMORY_DIE_OUT_OF_SERVICE: its links leave every merge set, the ports and links at its edge go down, the lines it held are lost,
and the contexts that depend on it are torn down; without die 68 the panel leaves service (15 R407). -/
def execMemoryDieOutOfService (s : State) : Host.Outcome State Fault Refusal :=
  if s.input.code != 0 then s.tearPart .memoryDieOutOfService else
  let m := s.input.unit
  let s := s.modMDie m (fun d => { MDie.reset with log := d.log, reports := d.reports, therm := d.therm, up := false, sync := d.sync,
                                                   errEst := d.errEst, lastSync := d.lastSync })
  let s := { s with
    mem := s.mem.filter (fun c => !(decide (physHome m 0 ≤ c.1) && decide (c.1 < physHome m (2 ^ 32))) &&
      !(decide (physWeight m 0 ≤ c.1) && decide (c.1 < physWeight m (2 ^ 32)))) }
  let s := (List.range 4).foldl (fun s n => if (s.neighbour (.memory m) n).isSome then s.setWire (.mesh (.memory m) n) false else s) s
  let edge := ((List.range 4).filter (fun n => portDie n == m && s.ports.toList.getD n false)).map Wire.host ++
    ((List.range 18).filter (fun n => dereneDie n == m && s.derene.toList.getD n false)).map Wire.derene
  let s := edge.foldl (fun s w => s.wireDown w) s
  let s := if m = 68 then
      { s with bring := 0, queues := s.queues.map (fun (q : Nat × Queue) => (q.1, { q.2 with en := false })), out := s.out ++ [OutMsg.pldm 68 0] }
    else s
  happened (s.writeCaps.tearAll .memoryDieOutOfService (s.dependOn m))

/-- MACHINE_CHECK: a unit's error goes to its die's firmware; units 1, 4, 9, 10 and 13 take the die out of service (15 R406). The input
holds the die, the unit, and the syndrome; for units 12 and 14 the bits above 15 name the sector. -/
def execMachineCheck (s : State) : Host.Outcome State Fault Refusal :=
  let x := s.input
  let unit := x.unit % 128
  let n := if unit = 12 || unit = 14 then x.word.toNat % 2 ^ 48 else x.word.toNat % 2 ^ 32
  let (die, compute) := match x.die with | .compute i => (i, true) | .memory i => (i, false)
  let s := s.dieReport x.die 62 (machineCheckVal die unit n compute)
  let s := s.addLog x.die { w0 := logWord0 62 unit 0 false, w1 := 0, w2 := 0, w3 := s.time }
  if [1, 4, 9, 10, 13].contains unit then
    happened (match x.die with
      | .compute i => (s.modCDie i (fun d => { d with up := false })).postIn .dieReplacement { Input.none with unit := i, port := unit }
      | .memory i => (s.modMDie i (fun d => { d with up := false })).postIn .memoryDieOutOfService { Input.none with unit := i })
  else happened s

/-! ### Die replacement -/

/-- The contexts with a user core on a logical die (15 R418). -/
def State.ctxsOn (s : State) (d : Nat) : List Nat :=
  (s.ctxs.filter (fun c => decide (c.2.lx0 ≤ d % 8) && decide (d % 8 ≤ c.2.lx1) && decide (c.2.ly0 ≤ d / 8) && decide (d / 8 ≤ c.2.ly1))).map Prod.fst

/-- The spare at site P takes the place of logical die d: what its firmware holds for the die moves with it, and the old site goes
out of service and loses its power (15 R418). -/
def State.swapSite (s : State) (d p : Nat) : State :=
  let old := s.siteNo d
  let cd := s.cdie d
  let cs := s.cdie (1000 + p)
  { s with
    cdies := AMap.set (AMap.set (AMap.erase s.cdies (1000 + p)) d { cs with ready := cd.ready, reports := cd.reports, fwq := cd.fwq }) (1000 + old)
      { (cd.powerDown) with ready := [], reports := [], fwq := [], up := false }
    sites := AMap.set s.sites d (siteCode p)
    sitesOut := s.sitesOut ++ [old] }

/-- The cores of a logical die. -/
def coresOfDie (d : Nat) : List Nat := (List.range 128).map (coreOfDie d)

/-- DIE_REPLACEMENT: firmware replaces logical die L by a spare, part by part (15 R418): 0 boots the spare, which is powered down again where
its boot is refused (01 R18), and gang-stops every context
with a core on L; 1 saves L's cores, or tears their contexts down where they cannot be read back, and loads the new map into every router; 2 restores
the cores and resumes. The input holds L (`unit`), the unit that failed, if any (`port`), and the spare that firmware picks
(`word`; the first one where that is none). -/
def execDieReplacement (s : State) : Host.Outcome State Fault Refusal :=
  let x := s.input
  let d := x.unit
  let lost : Bool := x.port == 1 || x.port == 4
  let resume := fun (s : State) => (s.ctxsOn d).foldl (fun s id => s.gangResume (s.coresOf id) false none) s
  if 10 ≤ x.code then s.tearPart .dieReplacement else
  match x.code, s.replacing with
  | 0, some _ => notYet s
  | 0, none =>
    (match (if s.spares.contains x.word.toNat then some x.word.toNat else s.spares.head?) with
     | none => happened (if x.port = 0 then s else s.writeCaps.tearAll .dieReplacement (s.ctxsOn d))
     | some p =>
       let t := s.bootRanger p
       if !((t.cdie (1000 + p)).up) then
         let t := { t with sitesOut := t.sitesOut ++ [p] }.modCDie (1000 + p) CDie.powerDown |>.writeCaps
         happened (if x.port = 0 then t else t.postIn .dieReplacement { x with word := 0 })
       else
         let t := (t.writeCaps.ctxsOn d).foldl (fun t id => t.gangStop (t.coresOf id) false podScope none none) t
         happened ({ t.writeCaps with replacing := some (d, p) }.postIn .dieReplacement { x with code := 1 }))
  | 1, some (_, p) =>
    if !(s.stopDone ((s.ctxsOn d).flatMap s.coresOf)) then notYet s else
    let t := if lost then s else s.spillAll ((coresOfDie d).filter (fun k => !((s.core k).owner == 0)))
    if !lost && t.spillsLeft (coresOfDie d) then notYet t else
    let t := (t.ctxsOn d).foldl (fun t id =>
      if lost then t else t.saveCores id 0 podScope ((coresOfDie d).filter (fun k => (t.core k).owner == id))) t
    let t := if lost then t.tearAll .dieReplacement (t.ctxsOn d) else t
    happened (((t.swapSite d p).loadRouters.startRanger d).postIn .dieReplacement { x with code := 2 })
  | 2, some _ =>
    let t := if lost then s else resume ((s.ctxsOn d).foldl (fun t id =>
      match t.ctx? id with
      | some c =>
        let mine := (c.keptFor.filter (fun y => y.2 == 0 && dieOfCore y.1 == d)).map Prod.fst
        (t.restoreCores id mine).getD t
      | none => t) s)
    let t := { t with replacing := none }
    happened (t.writeCaps.queues.foldl (fun t q => t.lookAt q.1) t.writeCaps)
  | _, _ => happened s

/-! ### Special-function units and calibration -/

/-- A unit of a cluster in or out of service. -/
def Cluster.setUnit (c : Cluster) (u : Nat) (up : Bool) : Cluster :=
  { c with sfuUp := if u = 0 then (up, c.sfuUp.2) else (c.sfuUp.1, up) }

/-- SFU_OUT_OF_SERVICE: requests of the unit's half, those that wait included, go to the other unit (06 R148). The input holds the
cluster (`unit`) and the unit (`port`). -/
def execSfuOutOfService (s : State) : Host.Outcome State Fault Refusal :=
  let cl := s.input.unit
  let u := s.input.port % 2
  let c := (s.cluster cl).setUnit u false
  if !(c.unitUp (1 - u)) then happened (s.modCluster cl (fun _ => c)) else
  let moved := c.queueOf u
  let c := (c.setQueueOf (1 - u) (c.queueOf (1 - u) ++ moved)).setQueueOf u []
  happened ((s.modCluster cl (fun _ => c)).postOnce (.sfrRequestIntake cl (1 - u)))

/-- SFU_RETURN_TO_SERVICE: the unit serves its half again, and what waited while both were out (06 R148). -/
def execSfuReturnToService (s : State) : Host.Outcome State Fault Refusal :=
  let cl := s.input.unit
  let u := s.input.port % 2
  let c := (s.cluster cl).setUnit u true
  if c.unitUp (1 - u) then happened (s.modCluster cl (fun _ => c)) else
  let moved := c.queueOf (1 - u)
  let c := (c.setQueueOf u (c.queueOf u ++ moved)).setQueueOf (1 - u) []
  happened ((s.modCluster cl (fun _ => c)).postOnce (.sfrRequestIntake cl u))

/-- LPDDR6_CALIBRATION: a channel calibrates, at most once per second, and holds its accesses for up to 2,000 ticks (15 R420). The input
holds the channel (`unit`) and the ticks (`code`). -/
def execLpddr6Calibration (s : State) : Host.Outcome State Fault Refusal :=
  let ch := s.input.unit % 64
  let due := match AMap.get? s.calib ch with
    | some (start, _) => decide (start + 4000000000 ≤ s.time.toNat)
    | none => true
  happened (if due then { s with calib := AMap.set s.calib ch (s.time.toNat, min s.input.code 2000) } else s)

end Sys2Proof.Machine
end

