-- ==== Sys2Proof/Machine/Power.lean ====
section
/-! DEFINITION. Time distribution, thermal limits, rails and bring-up (15 R408, R421 to R423, R427; 10 R280). -/

namespace Sys2Proof.Machine

/-! ### Time -/

/-- A die's view of time changed: its error estimate, whether it is synchronised, and when its last message came (15 R414, R427). -/
def State.setSync (s : State) (d : DieRef) (est : Nat) (sync : Bool) (last : Nat) : State :=
  match d with
  | .compute i => s.modCDie i (fun x => { x with errEst := est, sync := sync, lastSync := last })
  | .memory i => s.modMDie i (fun x => { x with errEst := est, sync := sync, lastSync := last })

/-- A die's error estimate and its last message. -/
def State.syncOf (s : State) (d : DieRef) : Nat × Nat :=
  match d with
  | .compute i => ((s.cdie i).errEst, (s.cdie i).lastSync)
  | .memory i => ((s.mdie i).errEst, (s.mdie i).lastSync)

/-- TIME_SYNC_MESSAGE: a die receives a sync message, with its new error estimate (`code`); at die 68 it names the panel to which
this panel disciplines its time (`unit`) (15 R427). -/
def execTimeSyncMessage (s : State) : Host.Outcome State Fault Refusal :=
  let x := s.input
  let s := s.setSync x.die x.code (s.inSync x.die) s.time.toNat
  happened (if x.die = .memory 68 then { s with tsrc := x.unit } else s)

/-- The cores of a die that have any state. -/
def State.dieCores (s : State) (d : DieRef) : List Nat :=
  match d with
  | .compute i => s.touched.filter (fun k => dieOfCore k == i)
  | .memory _ => []

/-- A timed wait of a thread ends with status 2 (11 R313, R319). In deterministic mode it counts quanta, and goes on. -/
def State.loseWait (s : State) (k t : Nat) : State :=
  let th := s.thread k t
  if s.detAt k || th.wto = 0 then s else
  match th.park with
  | .barrierTimed =>
    if th.grant.isSome then s else
    (s.modLaunch th.task.launch (fun l => { l with groups := l.groups.map (fun g =>
      { g with arrived := g.arrived.filter (fun x => !(x == (k, t))) }) })).grantTo k t [2]
  | .watch _ =>
    -- a load that has answered is looked at first; the wait ends with status 2 if its condition fails
    if th.grant.isSome then s.modThread k t (fun th => { th with call := [2] }) else
    (s.modThread k t (fun th => { th with acc := th.acc.filter (fun e => !(decide (e.form = AccForm.read))) })).grantTo k t [2]
  | _ => s

/-- A die's TIME goes off the panel's by an amount, from what it shows now on; it never decreases (15 R427). The panel's own source, die 68,
has no other TIME. -/
def State.setDrift (s : State) (d : DieRef) (off : Word) : State :=
  let shown := (s.timeAt d).toNat
  match d with
  | .compute i => s.modCDie i (fun x => { x with tOff := off, tHold := shown })
  | .memory i => if i = 68 then s else s.modMDie i (fun x => { x with tOff := off, tHold := shown })

/-- TIME_SYNC_LOST: a die whose error estimate exceeds 32 ticks, or that has had no message for 262,144, loses time sync (15 R427):
its firmware is told, and its timed waits end with status 2 (R408). Its links are in no merge set while it is so (10 R280:
`takenOut`). The input holds by how much its TIME is off from then on (`word`). -/
def execTimeSyncLost (s : State) : Host.Outcome State Fault Refusal :=
  let d := s.input.die
  let (est, last) := s.syncOf d
  if !(s.inSync d) || (est ≤ 32 && s.time.toNat < last + 262144) then happened s else
  let s := (s.setSync d est false last).dieReport d 46 (BitVec.ofNat 64 (match d with | .compute i => i % 256 + 256 | .memory i => i % 256))
  happened (((s.dieCores d).foldl (fun s k => (List.range 8).foldl (fun s t => s.loseWait k t) s) s).setDrift d s.input.word)

/-- The time-outs of a thread's accesses and of its streams' records start again (15 R408). -/
def Thread.restart (now : Nat) (th : Thread) : Thread :=
  { th with
    acc := th.acc.map (fun e => if e.pieces.any (fun p => isRemote p.addr) then { e with since := now } else e)
    latch := th.latch.map (fun l => { l with since := now })
    streams := th.streams.map (fun w => { w with since := w.since.map (fun _ => now) })
    drains := th.drains.map (fun j => { j with since := j.since.map (fun _ => now) }) }

/-- The time-outs of a core start again: those of its threads and of its copy engine (15 R408). -/
def Core.restart (now : Nat) (c : Core) : Core :=
  { c with threads := c.threads.map (Thread.restart now), copies := c.copies.map (fun x => { x with since := x.since.map (fun _ => now) }) }

/-- The panel's time meets true time: a time behind steps forward, a time ahead is held until true time reaches it (15 R427). -/
def State.meetTime (s : State) (true_ : Word) : State :=
  { s with timeFloor := s.time.toNat, timeBase := (true_.toNat + 2 ^ 64 - 2 * s.clock % 2 ^ 64) % 2 ^ 64 }

/-- TIME_SYNC_REGAINED: a die is synchronised again: its pending time-outs start again with their full length, and its links are in
the merge sets again (15 R408, R427; 10 R280). A TIME that is behind steps forward, and one that is ahead is held. At die 68 the input
names true time (`addr`). -/
def execTimeSyncRegained (s : State) : Host.Outcome State Fault Refusal :=
  let x := s.input
  if s.inSync x.die then happened s else
  let s := if x.die = .memory 68 then s.meetTime x.addr else s
  let s := (s.setSync x.die x.code true s.time.toNat).setDrift x.die 0
  happened ((s.dieCores x.die).foldl (fun s k => s.modCore k (Core.restart s.clock)) s)

/-! ### Thermal limits -/

/-- A die reports its junction temperature (15 R423). -/
def State.setTemp (s : State) (d : DieRef) (t : Nat) : State :=
  match d with
  | .compute i => s.modCDie i (fun x => { x with therm := t, throttled := decide (x.throttle ≤ t) })
  | .memory i => s.modMDie i (fun x => { x with therm := t })

/-- THERMAL_THROTTLE: from its throttle point on a die throttles; that stretches its local clock only (15 R423). The input holds the
die and its temperature (`code`). -/
def execThermalThrottle (s : State) : Host.Outcome State Fault Refusal := happened (s.setTemp s.input.die s.input.code)

/-- The contexts on a die: those with cores on it, or a memory die's home-set role for them. -/
def State.ctxsAt (s : State) (d : DieRef) : List Nat :=
  match d with
  | .compute i => s.ctxsOn i
  | .memory i => (s.ctxs.filter (fun c => c.2.hset.contains i)).map Prod.fst

/-- THERMAL_STOP: at 105 °C firmware gang-stops every context on the die, and raises MACHINE_CHECK unit 11 (15 R423). -/
def execThermalStop (s : State) : Host.Outcome State Fault Refusal :=
  let d := s.input.die
  let s := s.setTemp d s.input.code
  if s.input.code < 105 then happened s else
  let s := (s.ctxsAt d).foldl (fun s id => s.gangStop (s.coresOf id) false podScope none none) s
  happened (s.dieReport d 62 (match d with | .compute i => machineCheckVal i 11 0 true | .memory i => machineCheckVal i 11 0 false))

/-! ### Rails -/

/-- The memory dies that are out of service: they stay so until the panel is brought up, which then stops (15 R407, R421). -/
def State.lostDies (s : State) : AMap MDie := (s.mdies.filter (fun d => !d.2.up)).map (fun d => (d.1, { MDie.reset with up := false }))

/-- The panel without compute-die power: what the dies and the firmware held is gone; memory beyond it, what a standby rail keeps, and
the model's own schedule stay (15 R422; log 2). -/
def State.dark (s : State) (mem : Memory) (rails : Vector Bool 5) : State :=
  { State.reset with
    mem := mem, rails := rails, mdies := s.lostDies, images := s.images, out := s.out, free := s.free, refresh := s.refresh, picks := s.picks,
    piecewise := s.piecewise, buffering := s.buffering }

/-- Memory without what stands in a range of places. -/
def dropRange (m : Memory) (lo hi : Nat) : Memory := m.filter (fun c => !(decide (lo ≤ c.1) && decide (c.1 < hi)))

/-- Memory outside the panel: CXL memory and host memory. -/
def outsideMem (m : Memory) : Memory := m.filter (fun c => decide (physCxl 0 ≤ c.1) && decide (c.1 < physHome 0 0))

/-- THERMAL_POWER_OFF: at 115 °C the panel removes power without a save (15 R423). -/
def execThermalPowerOff (s : State) : Host.Outcome State Fault Refusal :=
  if s.input.code < 115 then happened (s.setTemp s.input.die s.input.code) else
  happened (s.dark (outsideMem s.mem) (Vector.replicate 5 false))

/-- The rails that are up, in the order VAUX, VMEM, VDDQ, VSER, VCORE (15 R422). -/
def State.railsUp (s : State) : Nat := (s.rails.toList.takeWhile (fun b => b)).length

/-- POWER_UP: the next rail comes up, in order (15 R422). -/
def execPowerUp (s : State) : Host.Outcome State Fault Refusal :=
  let n := s.railsUp
  if h : n < 5 then happened { s with rails := s.rails.set n true h } else happened s

/-- POWER_DOWN: the last rail comes down, in the reverse order (15 R422), and what it feeds loses its state. -/
def execPowerDown (s : State) : Host.Outcome State Fault Refusal :=
  let n := s.railsUp
  if h : 0 < n ∧ n ≤ 5 then
    let rails := s.rails.set (n - 1) false (by omega)
    match n with
    | 5 => happened (s.dark (dropRange s.mem (physScratch 0 0 0) (physScratch 0 0 0 + 2 ^ 64)) rails)
    | 4 => happened { s with rails := rails, ports := Vector.replicate 4 false, derene := Vector.replicate 18 false }
    | 3 => happened { s with rails := rails, mem := dropRange s.mem (physLpddr 0) (physCxl 0) }
    | 2 => happened { s with rails := rails, mem := dropRange s.mem (physHome 0 0) (physScratch 0 0 0), poison := [], poisonWeight := [] }
    | _ => happened { s with rails := rails, bring := 0 }
  else happened s

/-! ### Bring-up -/

/-- The trust block boots through stages 0x01 and 0x02; none where one is refused (13 R369). -/
def State.bootTrust (s : State) : Option State :=
  match s.bootStages 1068 0 [0x01, 0x02] with
  | (m, none) => some { s with mr68 := m }
  | (_, some _) => none

/-- The compute sites that fail at bring-up: their boot was refused, or the input lists them. -/
def State.failing (s : State) : List Nat :=
  (List.range 136).filter (fun n => !((s.cdie (s.keyOfSite n)).up) || s.input.pairs.any (fun x => x.1 == n))

/-- The default map taken: each site keeps its own state (01 R16). -/
def State.defaultMap (s : State) : State :=
  let t := { s with sites := [] }
  { t with cdies := (List.range 136).foldl (fun a n => AMap.set a (t.keyOfSite n) (s.dieAtSite n)) [] }

/-- The spares that are not mapped in are powered down (01 R18). -/
def State.downSpares (s : State) : State :=
  (List.range 136).foldl (fun s n => if s.keyOfSite n < 128 then s else s.modCDie (s.keyOfSite n) CDie.powerDown) s

/-- The site map: the default one, with spares in place of failing dies, which every router then holds (01 R16 to R18; 15 R421 step
6). Of the good spares firmware takes the lowest site number for the lowest failing logical die; the spec leaves which one it
takes to firmware (DESIGN CHOICE, log 25). -/
def State.buildMap (s : State) : State :=
  let bad := s.failing
  let s := { s.defaultMap with sitesOut := bad }
  ((List.range 128).foldl (fun s d =>
    if bad.contains (s.siteNo d) then
      (match s.spares.head? with
       | some p => (s.swapSite d p).startRanger d
       | none => s)
    else s) s).loadRouters.downSpares

/-- A value in a range, or the default. -/
def inRange (x lo hi dflt : Nat) : Nat := if lo ≤ x && x ≤ hi then x else dflt

/-- One step of bring-up; none while its condition is not met or where the panel stops (15 R421). -/
def State.bringStep (s : State) : Option State :=
  let x := s.input
  match s.bring with
  | 0 => if 1 ≤ s.railsUp then some s else none
  | 1 => if s.railsUp = 5 then some s else none
  | 2 => s.bootTrust
  | 3 => some { s with
      mdies := s.lostDies, mem := dropRange s.mem (physHome 0 0) (physScratch 0 0 0), poisonWeight := []
      poison := s.poison.filter (fun x => decide (32 * x < physHome 0 0)) }
  | 4 => some ((List.range 136).foldl (fun s n => s.bootRanger n) s)
  | 5 => if 8 < s.failing.length || !x.pairs2.isEmpty || !s.lostDies.isEmpty then none else some s.buildMap
  | 6 => some { s with timeFloor := 0, timeBase := (x.word.toNat + 2 ^ 64 - 2 * s.clock % 2 ^ 64) % 2 ^ 64 }
  | 7 => some { s with ports := Vector.ofFn (fun i : Fin 4 => bit x.addr i.val), derene := Vector.ofFn (fun i : Fin 18 => bit x.addr (4 + i.val)) }
  | 8 => some ({ s with
      rlcMiB := if [128, 256, 384, 512].contains x.unit then x.unit else 128
      wmlag := BitVec.ofNat 64 (inRange x.code 4000 4000000 80000)
      rto := BitVec.ofNat 64 (inRange x.port 40000 40000000 4000000) }.writeCaps)
  | _ => some (({ s with queues := [] }.showWindow s.time.toNat).postOnce .refreshWindowOpen)

/-- PANEL_BRING_UP: the next step of bring-up, and the one after it follows (15 R421). With more than 8 failing compute dies, or a
failing memory die, the panel stops at step 6 and reports over management. The input holds the failing compute sites and memory
dies, TIME, the ports and links that train, and the sizes and limits that firmware sets. -/
def execPanelBringUp (s : State) : Host.Outcome State Fault Refusal :=
  if 10 ≤ s.bring then happened s else
  match s.bringStep with
  | some t =>
    let t := { t with bring := s.bring + 1 }
    happened (if t.bring < 10 then t.postIn .panelBringUp s.input else t)
  | none => if s.bring < 2 then notYet s else happened { s with out := s.out ++ [.pldm 6 s.bring] }

end Sys2Proof.Machine
end

