-- ==== Sys2Proof/Machine/Scalar.lean ====
section
/-! DEFINITION. The scalar, address and control-flow forms of slot A (04). -/

namespace Sys2Proof.Machine

/-- Trailing zero bits of `x`, counted up to `n`. -/
def countTrailing (x : Nat) : Nat → Nat
  | 0 => 0
  | n + 1 => if x % 2 = 1 then 0 else 1 + countTrailing (x / 2) n

/-- Zero bits from bit `n - 1` of `x` down to its highest set bit. -/
def countLeading (x : Nat) : Nat → Nat
  | 0 => 0
  | n + 1 => if x / 2 ^ n % 2 = 1 then 0 else 1 + countLeading x n

/-- Set bits among the lowest `n` of `x`. -/
def countOnes (x : Nat) : Nat → Nat
  | 0 => 0
  | n + 1 => x % 2 + countOnes (x / 2) n

/-- The lowest `n` bits of `x` in reverse order. -/
def reverseBits (x : Nat) : Nat → Nat
  | 0 => 0
  | n + 1 => x % 2 * 2 ^ n + reverseBits (x / 2) n

/-- The lowest `n` bytes of `x` in reverse order. -/
def reverseBytes (x : Nat) : Nat → Nat
  | 0 => 0
  | n + 1 => x % 256 * 256 ^ n + reverseBytes (x / 256) n

/-- The low 32 bits (04 R92). -/
def lo32 (x : Word) : BitVec 32 := x.setWidth 32

/-- ADD (04 R90). -/
def aluAdd (x y : Word) : Word := x + y

/-- SUB (04 R90). -/
def aluSub (x y : Word) : Word := x - y

/-- AND (04 R90). -/
def aluAnd (x y : Word) : Word := x &&& y

/-- OR (04 R90). -/
def aluOr (x y : Word) : Word := x ||| y

/-- XOR (04 R90). -/
def aluXor (x y : Word) : Word := x ^^^ y

/-- ANDN (04 R90). -/
def aluAndn (x y : Word) : Word := x &&& ~~~y

/-- ORN (04 R90). -/
def aluOrn (x y : Word) : Word := x ||| ~~~y

/-- SLL: the shift amount is ub[5:0] (04 R90). -/
def aluSll (x y : Word) : Word := x <<< (y.toNat % 64)

/-- SRL (04 R90). -/
def aluSrl (x y : Word) : Word := x >>> (y.toNat % 64)

/-- SRA (04 R90). -/
def aluSra (x y : Word) : Word := x.sshiftRight (y.toNat % 64)

/-- ROR (04 R90). -/
def aluRor (x y : Word) : Word := x.rotateRight (y.toNat % 64)

/-- SLT (04 R90). -/
def aluSlt (x y : Word) : Word := flag (x.slt y)

/-- SLTU (04 R90). -/
def aluSltu (x y : Word) : Word := flag (x.ult y)

/-- SEQ (04 R90). -/
def aluSeq (x y : Word) : Word := flag (x == y)

/-- SNE (04 R90). -/
def aluSne (x y : Word) : Word := flag (!(x == y))

/-- MIN (04 R90). -/
def aluMin (x y : Word) : Word := if x.slt y then x else y

/-- MAX (04 R90). -/
def aluMax (x y : Word) : Word := if x.slt y then y else x

/-- MINU (04 R90). -/
def aluMinu (x y : Word) : Word := if x.ult y then x else y

/-- MAXU (04 R90). -/
def aluMaxu (x y : Word) : Word := if x.ult y then y else x

/-- ADDW (04 R90). -/
def aluAddw (x y : Word) : Word := sx32 (x + y)

/-- SUBW (04 R90). -/
def aluSubw (x y : Word) : Word := sx32 (x - y)

/-- SLLW (04 R90). -/
def aluSllw (x y : Word) : Word := (lo32 x <<< (y.toNat % 32)).signExtend 64

/-- SRLW (04 R90). -/
def aluSrlw (x y : Word) : Word := (lo32 x >>> (y.toNat % 32)).signExtend 64

/-- SRAW (04 R90). -/
def aluSraw (x y : Word) : Word := ((lo32 x).sshiftRight (y.toNat % 32)).signExtend 64

/-- MUL (04 R91, R92). -/
def aluMul (x y : Word) : Word := x * y

/-- MULH (04 R91, R92). -/
def aluMulh (x y : Word) : Word := BitVec.ofInt 64 (x.toInt * y.toInt / 2 ^ 64)

/-- MULHU (04 R91, R92). -/
def aluMulhu (x y : Word) : Word := BitVec.ofNat 64 (x.toNat * y.toNat / 2 ^ 64)

/-- MULHSU (04 R91, R92). -/
def aluMulhsu (x y : Word) : Word := BitVec.ofInt 64 (x.toInt * (y.toNat : Int) / 2 ^ 64)

/-- MULW (04 R91, R92). -/
def aluMulw (x y : Word) : Word := sx32 (x * y)

/-- DIV (04 R91, R92). -/
def aluDiv (x y : Word) : Word := if y = 0 then BitVec.allOnes 64 else BitVec.ofInt 64 (x.toInt.tdiv y.toInt)

/-- DIVU (04 R91, R92). -/
def aluDivu (x y : Word) : Word := if y = 0 then BitVec.allOnes 64 else BitVec.ofNat 64 (x.toNat / y.toNat)

/-- REM (04 R91, R92). -/
def aluRem (x y : Word) : Word := if y = 0 then x else BitVec.ofInt 64 (x.toInt.tmod y.toInt)

/-- REMU (04 R91, R92). -/
def aluRemu (x y : Word) : Word := if y = 0 then x else BitVec.ofNat 64 (x.toNat % y.toNat)

/-- DIVW (04 R91, R92). -/
def aluDivw (x y : Word) : Word := if lo32 y = 0 then BitVec.allOnes 64 else sx32 (BitVec.ofInt 64 ((lo32 x).toInt.tdiv (lo32 y).toInt))

/-- DIVUW (04 R91, R92). -/
def aluDivuw (x y : Word) : Word := if lo32 y = 0 then BitVec.allOnes 64 else sx32 (BitVec.ofNat 64 ((lo32 x).toNat / (lo32 y).toNat))

/-- REMW (04 R91, R92). -/
def aluRemw (x y : Word) : Word := if lo32 y = 0 then sx32 x else sx32 (BitVec.ofInt 64 ((lo32 x).toInt.tmod (lo32 y).toInt))

/-- REMUW (04 R91, R92). -/
def aluRemuw (x y : Word) : Word := if lo32 y = 0 then sx32 x else sx32 (BitVec.ofNat 64 ((lo32 x).toNat % (lo32 y).toNat))

/-- CLZ (04 R93). -/
def bitClz (x : Word) : Word := BitVec.ofNat 64 (countLeading x.toNat 64)

/-- CTZ (04 R93). -/
def bitCtz (x : Word) : Word := BitVec.ofNat 64 (countTrailing x.toNat 64)

/-- POPC (04 R93). -/
def bitPopc (x : Word) : Word := BitVec.ofNat 64 (countOnes x.toNat 64)

/-- BREV (04 R93). -/
def bitBrev (x : Word) : Word := BitVec.ofNat 64 (reverseBits x.toNat 64)

/-- BSWAP (04 R93). -/
def bitBswap (x : Word) : Word := BitVec.ofNat 64 (reverseBytes x.toNat 8)

/-- SXB (04 R93). -/
def bitSxb (x : Word) : Word := (x.setWidth 8).signExtend 64

/-- SXH (04 R93). -/
def bitSxh (x : Word) : Word := (x.setWidth 16).signExtend 64

/-- SXW (04 R93). -/
def bitSxw (x : Word) : Word := (x.setWidth 32).signExtend 64

/-- ZXH (04 R93). -/
def bitZxh (x : Word) : Word := (x.setWidth 16).setWidth 64

/-- ZXW (04 R93). -/
def bitZxw (x : Word) : Word := (x.setWidth 32).setWidth 64

/-- LEA1 (04 R93). -/
def aluLea1 (x y : Word) : Word := x + y <<< 1

/-- LEA2 (04 R93). -/
def aluLea2 (x y : Word) : Word := x + y <<< 2

/-- LEA3 (04 R93). -/
def aluLea3 (x y : Word) : Word := x + y <<< 3

/-- LEA4 (04 R93). -/
def aluLea4 (x y : Word) : Word := x + y <<< 4

/-- A form that writes a function of two scalar sources when it retires (04 R88, R89). -/
def runBinary (f : Word → Word → Word) (d a b : BitVec 6) (s : State) : Host.Outcome State Fault Refusal :=
  runSlot 0 [rn a, rn b] [rn d] (fun s => .go (fun t => t.ws d (f (s.rs a) (s.rs b)))) s

/-- A form that writes a function of one scalar source when it retires. -/
def runUnary (f : Word → Word) (d a : BitVec 6) (s : State) : Host.Outcome State Fault Refusal :=
  runSlot 0 [rn a] [rn d] (fun s => .go (fun t => t.ws d (f (s.rs a)))) s

/-- NOP (02 R32): the bundle retires. -/
def execNop (s : State) : Host.Outcome State Fault Refusal := runSlot 0 [] [] (fun _ => .go id) s

/-- ADD. -/
def execAdd (d a b : BitVec 6) (s : State) : Host.Outcome State Fault Refusal := runBinary aluAdd d a b s

/-- SUB. -/
def execSub (d a b : BitVec 6) (s : State) : Host.Outcome State Fault Refusal := runBinary aluSub d a b s

/-- AND. -/
def execAnd (d a b : BitVec 6) (s : State) : Host.Outcome State Fault Refusal := runBinary aluAnd d a b s

/-- OR. -/
def execOr (d a b : BitVec 6) (s : State) : Host.Outcome State Fault Refusal := runBinary aluOr d a b s

/-- XOR. -/
def execXor (d a b : BitVec 6) (s : State) : Host.Outcome State Fault Refusal := runBinary aluXor d a b s

/-- ANDN. -/
def execAndn (d a b : BitVec 6) (s : State) : Host.Outcome State Fault Refusal := runBinary aluAndn d a b s

/-- ORN. -/
def execOrn (d a b : BitVec 6) (s : State) : Host.Outcome State Fault Refusal := runBinary aluOrn d a b s

/-- SLL. -/
def execSll (d a b : BitVec 6) (s : State) : Host.Outcome State Fault Refusal := runBinary aluSll d a b s

/-- SRL. -/
def execSrl (d a b : BitVec 6) (s : State) : Host.Outcome State Fault Refusal := runBinary aluSrl d a b s

/-- SRA. -/
def execSra (d a b : BitVec 6) (s : State) : Host.Outcome State Fault Refusal := runBinary aluSra d a b s

/-- ROR. -/
def execRor (d a b : BitVec 6) (s : State) : Host.Outcome State Fault Refusal := runBinary aluRor d a b s

/-- SLT. -/
def execSlt (d a b : BitVec 6) (s : State) : Host.Outcome State Fault Refusal := runBinary aluSlt d a b s

/-- SLTU. -/
def execSltu (d a b : BitVec 6) (s : State) : Host.Outcome State Fault Refusal := runBinary aluSltu d a b s

/-- SEQ. -/
def execSeq (d a b : BitVec 6) (s : State) : Host.Outcome State Fault Refusal := runBinary aluSeq d a b s

/-- SNE. -/
def execSne (d a b : BitVec 6) (s : State) : Host.Outcome State Fault Refusal := runBinary aluSne d a b s

/-- MIN. -/
def execMin (d a b : BitVec 6) (s : State) : Host.Outcome State Fault Refusal := runBinary aluMin d a b s

/-- MAX. -/
def execMax (d a b : BitVec 6) (s : State) : Host.Outcome State Fault Refusal := runBinary aluMax d a b s

/-- MINU. -/
def execMinu (d a b : BitVec 6) (s : State) : Host.Outcome State Fault Refusal := runBinary aluMinu d a b s

/-- MAXU. -/
def execMaxu (d a b : BitVec 6) (s : State) : Host.Outcome State Fault Refusal := runBinary aluMaxu d a b s

/-- ADDW. -/
def execAddw (d a b : BitVec 6) (s : State) : Host.Outcome State Fault Refusal := runBinary aluAddw d a b s

/-- SUBW. -/
def execSubw (d a b : BitVec 6) (s : State) : Host.Outcome State Fault Refusal := runBinary aluSubw d a b s

/-- SLLW. -/
def execSllw (d a b : BitVec 6) (s : State) : Host.Outcome State Fault Refusal := runBinary aluSllw d a b s

/-- SRLW. -/
def execSrlw (d a b : BitVec 6) (s : State) : Host.Outcome State Fault Refusal := runBinary aluSrlw d a b s

/-- SRAW. -/
def execSraw (d a b : BitVec 6) (s : State) : Host.Outcome State Fault Refusal := runBinary aluSraw d a b s

/-- MUL. -/
def execMul (d a b : BitVec 6) (s : State) : Host.Outcome State Fault Refusal := runBinary aluMul d a b s

/-- MULH. -/
def execMulh (d a b : BitVec 6) (s : State) : Host.Outcome State Fault Refusal := runBinary aluMulh d a b s

/-- MULHU. -/
def execMulhu (d a b : BitVec 6) (s : State) : Host.Outcome State Fault Refusal := runBinary aluMulhu d a b s

/-- MULHSU. -/
def execMulhsu (d a b : BitVec 6) (s : State) : Host.Outcome State Fault Refusal := runBinary aluMulhsu d a b s

/-- MULW. -/
def execMulw (d a b : BitVec 6) (s : State) : Host.Outcome State Fault Refusal := runBinary aluMulw d a b s

/-- DIV. -/
def execDiv (d a b : BitVec 6) (s : State) : Host.Outcome State Fault Refusal := runBinary aluDiv d a b s

/-- DIVU. -/
def execDivu (d a b : BitVec 6) (s : State) : Host.Outcome State Fault Refusal := runBinary aluDivu d a b s

/-- REM. -/
def execRem (d a b : BitVec 6) (s : State) : Host.Outcome State Fault Refusal := runBinary aluRem d a b s

/-- REMU. -/
def execRemu (d a b : BitVec 6) (s : State) : Host.Outcome State Fault Refusal := runBinary aluRemu d a b s

/-- DIVW. -/
def execDivw (d a b : BitVec 6) (s : State) : Host.Outcome State Fault Refusal := runBinary aluDivw d a b s

/-- DIVUW. -/
def execDivuw (d a b : BitVec 6) (s : State) : Host.Outcome State Fault Refusal := runBinary aluDivuw d a b s

/-- REMW. -/
def execRemw (d a b : BitVec 6) (s : State) : Host.Outcome State Fault Refusal := runBinary aluRemw d a b s

/-- REMUW. -/
def execRemuw (d a b : BitVec 6) (s : State) : Host.Outcome State Fault Refusal := runBinary aluRemuw d a b s

/-- LEA1. -/
def execLea1 (d a b : BitVec 6) (s : State) : Host.Outcome State Fault Refusal := runBinary aluLea1 d a b s

/-- LEA2. -/
def execLea2 (d a b : BitVec 6) (s : State) : Host.Outcome State Fault Refusal := runBinary aluLea2 d a b s

/-- LEA3. -/
def execLea3 (d a b : BitVec 6) (s : State) : Host.Outcome State Fault Refusal := runBinary aluLea3 d a b s

/-- LEA4. -/
def execLea4 (d a b : BitVec 6) (s : State) : Host.Outcome State Fault Refusal := runBinary aluLea4 d a b s

/-- CLZ. -/
def execClz (d a : BitVec 6) (s : State) : Host.Outcome State Fault Refusal := runUnary bitClz d a s

/-- CTZ. -/
def execCtz (d a : BitVec 6) (s : State) : Host.Outcome State Fault Refusal := runUnary bitCtz d a s

/-- POPC. -/
def execPopc (d a : BitVec 6) (s : State) : Host.Outcome State Fault Refusal := runUnary bitPopc d a s

/-- BREV. -/
def execBrev (d a : BitVec 6) (s : State) : Host.Outcome State Fault Refusal := runUnary bitBrev d a s

/-- BSWAP. -/
def execBswap (d a : BitVec 6) (s : State) : Host.Outcome State Fault Refusal := runUnary bitBswap d a s

/-- SXB. -/
def execSxb (d a : BitVec 6) (s : State) : Host.Outcome State Fault Refusal := runUnary bitSxb d a s

/-- SXH. -/
def execSxh (d a : BitVec 6) (s : State) : Host.Outcome State Fault Refusal := runUnary bitSxh d a s

/-- SXW. -/
def execSxw (d a : BitVec 6) (s : State) : Host.Outcome State Fault Refusal := runUnary bitSxw d a s

/-- ZXH. -/
def execZxh (d a : BitVec 6) (s : State) : Host.Outcome State Fault Refusal := runUnary bitZxh d a s

/-- ZXW. -/
def execZxw (d a : BitVec 6) (s : State) : Host.Outcome State Fault Refusal := runUnary bitZxw d a s

/-- ADDI (04 R94): the immediate is sign-extended. -/
def execAddi (d a : BitVec 6) (i : BitVec 13) (s : State) : Host.Outcome State Fault Refusal :=
  runUnary (fun x => aluAdd x (sx i)) d a s

/-- ANDI (04 R94): the immediate is sign-extended. -/
def execAndi (d a : BitVec 6) (i : BitVec 13) (s : State) : Host.Outcome State Fault Refusal :=
  runUnary (fun x => aluAnd x (sx i)) d a s

/-- ORI (04 R94): the immediate is sign-extended. -/
def execOri (d a : BitVec 6) (i : BitVec 13) (s : State) : Host.Outcome State Fault Refusal :=
  runUnary (fun x => aluOr x (sx i)) d a s

/-- XORI (04 R94): the immediate is sign-extended. -/
def execXori (d a : BitVec 6) (i : BitVec 13) (s : State) : Host.Outcome State Fault Refusal :=
  runUnary (fun x => aluXor x (sx i)) d a s

/-- SLTI (04 R94): the immediate is sign-extended. -/
def execSlti (d a : BitVec 6) (i : BitVec 13) (s : State) : Host.Outcome State Fault Refusal :=
  runUnary (fun x => aluSlt x (sx i)) d a s

/-- SLTIU (04 R94): the immediate is sign-extended. -/
def execSltiu (d a : BitVec 6) (i : BitVec 13) (s : State) : Host.Outcome State Fault Refusal :=
  runUnary (fun x => aluSltu x (sx i)) d a s

/-- ADDIW (04 R94): the immediate is sign-extended. -/
def execAddiw (d a : BitVec 6) (i : BitVec 13) (s : State) : Host.Outcome State Fault Refusal :=
  runUnary (fun x => aluAddw x (sx i)) d a s

/-- SLLI (04 R94). -/
def execSlli (d a : BitVec 6) (n : BitVec 6) (s : State) : Host.Outcome State Fault Refusal :=
  runUnary (fun x => aluSll x (n.setWidth 64)) d a s

/-- SRLI (04 R94). -/
def execSrli (d a : BitVec 6) (n : BitVec 6) (s : State) : Host.Outcome State Fault Refusal :=
  runUnary (fun x => aluSrl x (n.setWidth 64)) d a s

/-- SRAI (04 R94). -/
def execSrai (d a : BitVec 6) (n : BitVec 6) (s : State) : Host.Outcome State Fault Refusal :=
  runUnary (fun x => aluSra x (n.setWidth 64)) d a s

/-- LUI (04 R95). -/
def execLui (d : BitVec 6) (i : BitVec 19) (s : State) : Host.Outcome State Fault Refusal :=
  runSlot 0 [] [rn d] (fun _ => .go (fun t => t.ws d (sx i <<< 13))) s

/-- ADDPC (04 R95). -/
def execAddpc (d : BitVec 6) (i : BitVec 19) (s : State) : Host.Outcome State Fault Refusal :=
  runSlot 0 [] [rn d] (fun s => .go (fun t => t.ws d (s.src.pc + sx i * 8))) s

/-- MOVL (04 R95). -/
def execMovl (d : BitVec 6) (i : BitVec 50) (s : State) : Host.Outcome State Fault Refusal :=
  runSlot 2 [] [rn d] (fun _ => .go (fun t => t.ws d (sx i))) s

/-- A branch (04 R96). -/
def runBranch (c : Word → Word → Bool) (a b : BitVec 6) (o : BitVec 13) (s : State) : Host.Outcome State Fault Refusal :=
  runSlot 0 [rn a, rn b] [] (fun s => .go (fun t => if c (s.rs a) (s.rs b) then t.jump (s.src.pc + sx o * 8) else t)) s

/-- BEQ. -/
def execBeq (a b : BitVec 6) (o : BitVec 13) (s : State) : Host.Outcome State Fault Refusal :=
  runBranch (fun x y => x == y) a b o s

/-- BNE. -/
def execBne (a b : BitVec 6) (o : BitVec 13) (s : State) : Host.Outcome State Fault Refusal :=
  runBranch (fun x y => !(x == y)) a b o s

/-- BLT. -/
def execBlt (a b : BitVec 6) (o : BitVec 13) (s : State) : Host.Outcome State Fault Refusal :=
  runBranch (fun x y => x.slt y) a b o s

/-- BGE. -/
def execBge (a b : BitVec 6) (o : BitVec 13) (s : State) : Host.Outcome State Fault Refusal :=
  runBranch (fun x y => !(x.slt y)) a b o s

/-- BLTU. -/
def execBltu (a b : BitVec 6) (o : BitVec 13) (s : State) : Host.Outcome State Fault Refusal :=
  runBranch (fun x y => x.ult y) a b o s

/-- BGEU. -/
def execBgeu (a b : BitVec 6) (o : BitVec 13) (s : State) : Host.Outcome State Fault Refusal :=
  runBranch (fun x y => !(x.ult y)) a b o s

/-- JAL (04 R97). -/
def execJal (d : BitVec 6) (i : BitVec 19) (s : State) : Host.Outcome State Fault Refusal :=
  runSlot 0 [] [rn d] (fun s => .go (fun t => (t.ws d (s.src.pc + 8)).jump (s.src.pc + sx i * 8))) s

/-- LJAL (04 R97). -/
def execLjal (d : BitVec 6) (i : BitVec 50) (s : State) : Host.Outcome State Fault Refusal :=
  runSlot 2 [] [rn d] (fun s => .go (fun t => (t.ws d (s.src.pc + 8)).jump (s.src.pc + sx i * 8))) s

/-- JALR (04 R97): a target that is not bundle-aligned raises MISALIGNED_FETCH with the target in KVAL. -/
def execJalr (d a : BitVec 6) (i : BitVec 13) (s : State) : Host.Outcome State Fault Refusal :=
  runSlot 0 [rn a] [rn d] (fun s =>
    let target := s.rs a + sx i * 8
    if bits target 0 3 == 0 then .go (fun t => (t.ws d (s.src.pc + 8)).jump target) else .trap 6 target) s

end Sys2Proof.Machine
end

