-- ==== Sys2Proof/Machine/Dispatch.lean ====
section
/-! DEFINITION. One meaning for each constructor of `Instr`. -/

namespace Sys2Proof.Machine

def exec (i : Instr) (s : State) : Host.Outcome State Fault Refusal :=
  match i with
  | .add d a b => Sys2Proof.Machine.execAdd d a b s
  | .sub d a b => Sys2Proof.Machine.execSub d a b s
  | .and d a b => Sys2Proof.Machine.execAnd d a b s
  | .or d a b => Sys2Proof.Machine.execOr d a b s
  | .xor d a b => Sys2Proof.Machine.execXor d a b s
  | .andn d a b => Sys2Proof.Machine.execAndn d a b s
  | .orn d a b => Sys2Proof.Machine.execOrn d a b s
  | .sll d a b => Sys2Proof.Machine.execSll d a b s
  | .srl d a b => Sys2Proof.Machine.execSrl d a b s
  | .sra d a b => Sys2Proof.Machine.execSra d a b s
  | .ror d a b => Sys2Proof.Machine.execRor d a b s
  | .slt d a b => Sys2Proof.Machine.execSlt d a b s
  | .sltu d a b => Sys2Proof.Machine.execSltu d a b s
  | .seq d a b => Sys2Proof.Machine.execSeq d a b s
  | .sne d a b => Sys2Proof.Machine.execSne d a b s
  | .min d a b => Sys2Proof.Machine.execMin d a b s
  | .max d a b => Sys2Proof.Machine.execMax d a b s
  | .minu d a b => Sys2Proof.Machine.execMinu d a b s
  | .maxu d a b => Sys2Proof.Machine.execMaxu d a b s
  | .addw d a b => Sys2Proof.Machine.execAddw d a b s
  | .subw d a b => Sys2Proof.Machine.execSubw d a b s
  | .sllw d a b => Sys2Proof.Machine.execSllw d a b s
  | .srlw d a b => Sys2Proof.Machine.execSrlw d a b s
  | .sraw d a b => Sys2Proof.Machine.execSraw d a b s
  | .mul d a b => Sys2Proof.Machine.execMul d a b s
  | .mulh d a b => Sys2Proof.Machine.execMulh d a b s
  | .mulhu d a b => Sys2Proof.Machine.execMulhu d a b s
  | .mulhsu d a b => Sys2Proof.Machine.execMulhsu d a b s
  | .mulw d a b => Sys2Proof.Machine.execMulw d a b s
  | .div d a b => Sys2Proof.Machine.execDiv d a b s
  | .divu d a b => Sys2Proof.Machine.execDivu d a b s
  | .rem d a b => Sys2Proof.Machine.execRem d a b s
  | .remu d a b => Sys2Proof.Machine.execRemu d a b s
  | .divw d a b => Sys2Proof.Machine.execDivw d a b s
  | .divuw d a b => Sys2Proof.Machine.execDivuw d a b s
  | .remw d a b => Sys2Proof.Machine.execRemw d a b s
  | .remuw d a b => Sys2Proof.Machine.execRemuw d a b s
  | .clz d a => Sys2Proof.Machine.execClz d a s
  | .ctz d a => Sys2Proof.Machine.execCtz d a s
  | .popc d a => Sys2Proof.Machine.execPopc d a s
  | .brev d a => Sys2Proof.Machine.execBrev d a s
  | .bswap d a => Sys2Proof.Machine.execBswap d a s
  | .sxb d a => Sys2Proof.Machine.execSxb d a s
  | .sxh d a => Sys2Proof.Machine.execSxh d a s
  | .sxw d a => Sys2Proof.Machine.execSxw d a s
  | .zxh d a => Sys2Proof.Machine.execZxh d a s
  | .zxw d a => Sys2Proof.Machine.execZxw d a s
  | .lea1 d a b => Sys2Proof.Machine.execLea1 d a b s
  | .lea2 d a b => Sys2Proof.Machine.execLea2 d a b s
  | .lea3 d a b => Sys2Proof.Machine.execLea3 d a b s
  | .lea4 d a b => Sys2Proof.Machine.execLea4 d a b s
  | .addi d a imm => Sys2Proof.Machine.execAddi d a imm s
  | .andi d a imm => Sys2Proof.Machine.execAndi d a imm s
  | .ori d a imm => Sys2Proof.Machine.execOri d a imm s
  | .xori d a imm => Sys2Proof.Machine.execXori d a imm s
  | .slti d a imm => Sys2Proof.Machine.execSlti d a imm s
  | .sltiu d a imm => Sys2Proof.Machine.execSltiu d a imm s
  | .slli d a n => Sys2Proof.Machine.execSlli d a n s
  | .srli d a n => Sys2Proof.Machine.execSrli d a n s
  | .srai d a n => Sys2Proof.Machine.execSrai d a n s
  | .addiw d a imm => Sys2Proof.Machine.execAddiw d a imm s
  | .lui d imm => Sys2Proof.Machine.execLui d imm s
  | .addpc d imm => Sys2Proof.Machine.execAddpc d imm s
  | .movl d imm => Sys2Proof.Machine.execMovl d imm s
  | .beq a b o => Sys2Proof.Machine.execBeq a b o s
  | .bne a b o => Sys2Proof.Machine.execBne a b o s
  | .blt a b o => Sys2Proof.Machine.execBlt a b o s
  | .bge a b o => Sys2Proof.Machine.execBge a b o s
  | .bltu a b o => Sys2Proof.Machine.execBltu a b o s
  | .bgeu a b o => Sys2Proof.Machine.execBgeu a b o s
  | .jal d imm => Sys2Proof.Machine.execJal d imm s
  | .jalr d a imm => Sys2Proof.Machine.execJalr d a imm s
  | .ljal d imm => Sys2Proof.Machine.execLjal d imm s
  | .throw a => Sys2Proof.Machine.execThrow a s
  | .svc n => Sys2Proof.Machine.execSvc n s
  | .ldb d b o => Sys2Proof.Machine.execLdb d b o s
  | .ldbu d b o => Sys2Proof.Machine.execLdbu d b o s
  | .ldh d b o => Sys2Proof.Machine.execLdh d b o s
  | .ldhu d b o => Sys2Proof.Machine.execLdhu d b o s
  | .ldw d b o => Sys2Proof.Machine.execLdw d b o s
  | .ldwu d b o => Sys2Proof.Machine.execLdwu d b o s
  | .ldd d b o => Sys2Proof.Machine.execLdd d b o s
  | .ldq d b o => Sys2Proof.Machine.execLdq d b o s
  | .stb d b o => Sys2Proof.Machine.execStb d b o s
  | .sth d b o => Sys2Proof.Machine.execSth d b o s
  | .stw d b o => Sys2Proof.Machine.execStw d b o s
  | .std d b o => Sys2Proof.Machine.execStd d b o s
  | .stq d b o => Sys2Proof.Machine.execStq d b o s
  | .vld d b o => Sys2Proof.Machine.execVld d b o s
  | .vst d b o => Sys2Proof.Machine.execVst d b o s
  | .vldx d a b z => Sys2Proof.Machine.execVldx d a b z s
  | .vldxIx d a b z => Sys2Proof.Machine.execVldxIx d a b z s
  | .vstx d a b z => Sys2Proof.Machine.execVstx d a b z s
  | .vstxIx d a b z => Sys2Proof.Machine.execVstxIx d a b z s
  | .sto d b o => Sys2Proof.Machine.execSto d b o s
  | .ldf d b o => Sys2Proof.Machine.execLdf d b o s
  | .ldfe d b o => Sys2Proof.Machine.execLdfe d b o s
  | .stff d b o => Sys2Proof.Machine.execStff d b o s
  | .stef d b o => Sys2Proof.Machine.execStef d b o s
  | .feqry d a => Sys2Proof.Machine.execFeqry d a s
  | .feset a => Sys2Proof.Machine.execFeset a s
  | .feclr a => Sys2Proof.Machine.execFeclr a s
  | .amo d a b ord dbl op => Sys2Proof.Machine.execAmo d a b ord dbl op s
  | .cas d a b ord w => Sys2Proof.Machine.execCas d a b ord w s
  | .rupd a b ord dbl op => Sys2Proof.Machine.execRupd a b ord dbl op s
  | .msgapp d a ord n => Sys2Proof.Machine.execMsgapp d a ord n s
  | .msgtake d n => Sys2Proof.Machine.execMsgtake d n s
  | .fence a b m e k => Sys2Proof.Machine.execFence a b m e k s
  | .rtset a b slot => Sys2Proof.Machine.execRtset a b slot s
  | .rtdesc a slot => Sys2Proof.Machine.execRtdesc a slot s
  | .clean a b inv => Sys2Proof.Machine.execClean a b inv s
  | .pref hint b o => Sys2Proof.Machine.execPref hint b o s
  | .spawn d imm => Sys2Proof.Machine.execSpawn d imm s
  | .spawnr d a => Sys2Proof.Machine.execSpawnr d a s
  | .sync d => Sys2Proof.Machine.execSync d s
  | .publ a b => Sys2Proof.Machine.execPubl a b s
  | .ticket d a => Sys2Proof.Machine.execTicket d a s
  | .donate a b => Sys2Proof.Machine.execDonate a b s
  | .bar a => Sys2Proof.Machine.execBar a s
  | .bart d a => Sys2Proof.Machine.execBart d a s
  | .chsend a b => Sys2Proof.Machine.execChsend a b s
  | .chrecv d a => Sys2Proof.Machine.execChrecv d a s
  | .waitw d a b eq => Sys2Proof.Machine.execWaitw d a b eq s
  | .semw a k => Sys2Proof.Machine.execSemw a k s
  | .sems a k => Sys2Proof.Machine.execSems a k s
  | .drnwait d => Sys2Proof.Machine.execDrnwait d s
  | .drnput a => Sys2Proof.Machine.execDrnput a s
  | .getc d sel => Sys2Proof.Machine.execGetc d sel s
  | .putc a sel => Sys2Proof.Machine.execPutc a sel s
  | .trap n => Sys2Proof.Machine.execTrap n s
  | .xinv a b z => Sys2Proof.Machine.execXinv a b z s
  | .xinvCtx a z => Sys2Proof.Machine.execXinvCtx a z s
  | .rlatch a => Sys2Proof.Machine.execRlatch a s
  | .gstop a => Sys2Proof.Machine.execGstop a s
  | .gresume a => Sys2Proof.Machine.execGresume a s
  | .dbgstep a => Sys2Proof.Machine.execDbgstep a s
  | .vadd vd va vb q ty v => Sys2Proof.Machine.execVadd vd va vb q ty v s
  | .vsub vd va vb q ty v => Sys2Proof.Machine.execVsub vd va vb q ty v s
  | .vmul vd va vb q ty v => Sys2Proof.Machine.execVmul vd va vb q ty v s
  | .vfma vd va vb q ty => Sys2Proof.Machine.execVfma vd va vb q ty s
  | .vmin vd va vb q ty v => Sys2Proof.Machine.execVmin vd va vb q ty v s
  | .vmax vd va vb q ty v => Sys2Proof.Machine.execVmax vd va vb q ty v s
  | .vabs vd va q ty v => Sys2Proof.Machine.execVabs vd va q ty v s
  | .vneg vd va q ty v => Sys2Proof.Machine.execVneg vd va q ty v s
  | .vand vd va vb q ty => Sys2Proof.Machine.execVand vd va vb q ty s
  | .vor vd va vb q ty => Sys2Proof.Machine.execVor vd va vb q ty s
  | .vxor vd va vb q ty => Sys2Proof.Machine.execVxor vd va vb q ty s
  | .vshl vd va vb q ty => Sys2Proof.Machine.execVshl vd va vb q ty s
  | .vshr vd va vb q ty v => Sys2Proof.Machine.execVshr vd va vb q ty v s
  | .vcmp qd va vb q ty v => Sys2Proof.Machine.execVcmp qd va vb q ty v s
  | .vsel vd va vb q ty => Sys2Proof.Machine.execVsel vd va vb q ty s
  | .vcvt vd va fmt q ty v => Sys2Proof.Machine.execVcvt vd va fmt q ty v s
  | .vred vd va q ty v => Sys2Proof.Machine.execVred vd va q ty v s
  | .vperm vd va vb q ty => Sys2Proof.Machine.execVperm vd va vb q ty s
  | .vbcs vd sa q ty => Sys2Proof.Machine.execVbcs vd sa q ty s
  | .vext sd va sb q ty v => Sys2Proof.Machine.execVext sd va sb q ty v s
  | .viota vd q ty => Sys2Proof.Machine.execViota vd q ty s
  | .vscale vd va vb q ty => Sys2Proof.Machine.execVscale vd va vb q ty s
  | .vmov vd va q ty => Sys2Proof.Machine.execVmov vd va q ty s
  | .vdiv vd va vb q ty v => Sys2Proof.Machine.execVdiv vd va vb q ty v s
  | .vsqrt vd va q ty => Sys2Proof.Machine.execVsqrt vd va q ty s
  | .sfr vd va q ty v => Sys2Proof.Machine.execSfr vd va q ty v s
  | .vpop vd w q ty => Sys2Proof.Machine.execVpop vd w q ty s
  | .vpush w va q ty => Sys2Proof.Machine.execVpush w va q ty s
  | .mma d a b f => Sys2Proof.Machine.execMma d a b f s
  | .mmas d a b w f => Sys2Proof.Machine.execMmas d a b w f s
  | .mmag d a b four f => Sys2Proof.Machine.execMmag d a b four f s
  | .mmaw d a b f => Sys2Proof.Machine.execMmaw d a b f s
  | .tzero d => Sys2Proof.Machine.execTzero d s
  | .trowv d va sb q => Sys2Proof.Machine.execTrowv d va sb q s
  | .tvrow vd a sb q => Sys2Proof.Machine.execTvrow vd a sb q s
  | .mmal e d a b f => Sys2Proof.Machine.execMmal e d a b f s
  | .cpy e a b c tr pad => Sys2Proof.Machine.execCpy e a b c tr pad s
  | .cpyr e a b c op tsrc ord int => Sys2Proof.Machine.execCpyr e a b c op tsrc ord int s
  | .cbatch e => Sys2Proof.Machine.execCbatch e s
  | .cwait e a => Sys2Proof.Machine.execCwait e a s
  | .sbind e a b w wr => Sys2Proof.Machine.execSbind e a b w wr s
  | .sunbind e w => Sys2Proof.Machine.execSunbind e w s
  | .tld e a b t tr pad => Sys2Proof.Machine.execTld e a b t tr pad s
  | .tst e a b t tr => Sys2Proof.Machine.execTst e a b t tr s
  | .tldw e a b c t => Sys2Proof.Machine.execTldw e a b c t s
  | .loadResultArrival core thr n => Sys2Proof.Machine.execLoadResultArrival core thr n s
  | .accessCompletion core thr n => Sys2Proof.Machine.execAccessCompletion core thr n s
  | .accessHeld core thr n cause => Sys2Proof.Machine.execAccessHeld core thr n cause s
  | .remoteTimeout core thr n => Sys2Proof.Machine.execRemoteTimeout core thr n s
  | .atomicAnswer core thr => Sys2Proof.Machine.execAtomicAnswer core thr s
  | .nearMemoryAtomic core thr => Sys2Proof.Machine.execNearMemoryAtomic core thr s
  | .sfrRequestIntake cluster unit => Sys2Proof.Machine.execSfrRequestIntake cluster unit s
  | .sfrResultReturn core thr => Sys2Proof.Machine.execSfrResultReturn core thr s
  | .streamRefill core thr n => Sys2Proof.Machine.execStreamRefill core thr n s
  | .streamRecordArrival core thr n => Sys2Proof.Machine.execStreamRecordArrival core thr n s
  | .streamDrain core thr n => Sys2Proof.Machine.execStreamDrain core thr n s
  | .copyCommandStart core => Sys2Proof.Machine.execCopyCommandStart core s
  | .copyCommandComplete core id => Sys2Proof.Machine.execCopyCommandComplete core id s
  | .copyEngineFault core id cause kval => Sys2Proof.Machine.execCopyEngineFault core id cause kval s
  | .copyReductionApply core id => Sys2Proof.Machine.execCopyReductionApply core id s
  | .batchComplete core => Sys2Proof.Machine.execBatchComplete core s
  | .matrixOpStart core => Sys2Proof.Machine.execMatrixOpStart core s
  | .matrixGroupComplete core => Sys2Proof.Machine.execMatrixGroupComplete core s
  | .matrixOpComplete core => Sys2Proof.Machine.execMatrixOpComplete core s
  | .mmagBarrierComplete core thr => Sys2Proof.Machine.execMmagBarrierComplete core thr s
  | .drainRowOffer core => Sys2Proof.Machine.execDrainRowOffer core s
  | .semaphoreUpdate core => Sys2Proof.Machine.execSemaphoreUpdate core s
  | .feWaitTry core word => Sys2Proof.Machine.execFeWaitTry core word s
  | .feRequestResend core thr => Sys2Proof.Machine.execFeRequestResend core thr s
  | .msgPlace core thr => Sys2Proof.Machine.execMsgPlace core thr s
  | .msgCallback core => Sys2Proof.Machine.execMsgCallback core s
  | .msgRetry core thr => Sys2Proof.Machine.execMsgRetry core thr s
  | .barrierPhaseComplete launch group => Sys2Proof.Machine.execBarrierPhaseComplete launch group s
  | .bartTimeout core thr => Sys2Proof.Machine.execBartTimeout core thr s
  | .watchWake core thr => Sys2Proof.Machine.execWatchWake core thr s
  | .waitwTimeout core thr => Sys2Proof.Machine.execWaitwTimeout core thr s
  | .waitwPoll core thr => Sys2Proof.Machine.execWaitwPoll core thr s
  | .stealSearch core thr => Sys2Proof.Machine.execStealSearch core thr s
  | .stealSearchRetry core thr => Sys2Proof.Machine.execStealSearchRetry core thr s
  | .stealResume core thr => Sys2Proof.Machine.execStealResume core thr s
  | .ticketGrant core thr => Sys2Proof.Machine.execTicketGrant core thr s
  | .donateRetry core thr => Sys2Proof.Machine.execDonateRetry core thr s
  | .launchCommand queue => Sys2Proof.Machine.execLaunchCommand queue s
  | .teardownCommand queue => Sys2Proof.Machine.execTeardownCommand queue s
  | .barrierCommand queue => Sys2Proof.Machine.execBarrierCommand queue s
  | .refusedCommand queue => Sys2Proof.Machine.execRefusedCommand queue s
  | .launchSeeding launch => Sys2Proof.Machine.execLaunchSeeding launch s
  | .preemptionRestore launch => Sys2Proof.Machine.execPreemptionRestore launch s
  | .launchWorkEnd launch => Sys2Proof.Machine.execLaunchWorkEnd launch s
  | .launchCompletion launch => Sys2Proof.Machine.execLaunchCompletion launch s
  | .quantumEnd ctx => Sys2Proof.Machine.execQuantumEnd ctx s
  | .orderedInject core thr => Sys2Proof.Machine.execOrderedInject core thr s
  | .cairn l => Sys2Proof.Machine.execCairn l s
  | .orderedApply t => Sys2Proof.Machine.execOrderedApply t s
  | .watermarkStall l => Sys2Proof.Machine.execWatermarkStall l s
  | .homeReadRequest cluster ctx va => Sys2Proof.Machine.execHomeReadRequest cluster ctx va s
  | .homeOwnershipRequest cluster ctx va => Sys2Proof.Machine.execHomeOwnershipRequest cluster ctx va s
  | .translationWalk ctx va => Sys2Proof.Machine.execTranslationWalk ctx va s
  | .reportTaken core => Sys2Proof.Machine.execReportTaken core s
  | .threadStop core thr => Sys2Proof.Machine.execThreadStop core thr s
  | .gangStopComplete core => Sys2Proof.Machine.execGangStopComplete core s
  | .debugHalt core thr => Sys2Proof.Machine.execDebugHalt core thr s
  | .contextSave ctx => Sys2Proof.Machine.execContextSave ctx s
  | .contextRestore ctx => Sys2Proof.Machine.execContextRestore ctx s
  | .estClearCfault core => Sys2Proof.Machine.execEstClearCfault core s
  | .estClearMfault core => Sys2Proof.Machine.execEstClearMfault core s
  | .rbdRead core thr d => Sys2Proof.Machine.execRbdRead core thr d s
  | .rbdWrite core thr value => Sys2Proof.Machine.execRbdWrite core thr value s
  | .nop => Sys2Proof.Machine.execNop s
  | .endThread => Sys2Proof.Machine.execEndThread s
  | .fencei => Sys2Proof.Machine.execFencei s
  | .tret => Sys2Proof.Machine.execTret s
  | .yield => Sys2Proof.Machine.execYield s
  | .kret => Sys2Proof.Machine.execKret s
  | .reservedEncoding => Sys2Proof.Machine.execReservedEncoding s
  | .refreshWindowOpen => Sys2Proof.Machine.execRefreshWindowOpen s
  | .refreshWindowClose => Sys2Proof.Machine.execRefreshWindowClose s
  | .powerUp => Sys2Proof.Machine.execPowerUp s
  | .powerDown => Sys2Proof.Machine.execPowerDown s
  | .kickRegisterWrite => Sys2Proof.Machine.execKickRegisterWrite s
  | .l1Eviction => Sys2Proof.Machine.execL1Eviction s
  | .snpInv => Sys2Proof.Machine.execSnpInv s
  | .snpData => Sys2Proof.Machine.execSnpData s
  | .snpCur => Sys2Proof.Machine.execSnpCur s
  | .memRd => Sys2Proof.Machine.execMemRd s
  | .memWr => Sys2Proof.Machine.execMemWr s
  | .biRsp => Sys2Proof.Machine.execBiRsp s
  | .timeSyncMessage => Sys2Proof.Machine.execTimeSyncMessage s
  | .timeSyncLost => Sys2Proof.Machine.execTimeSyncLost s
  | .timeSyncRegained => Sys2Proof.Machine.execTimeSyncRegained s
  | .mailboxGo => Sys2Proof.Machine.execMailboxGo s
  | .query => Sys2Proof.Machine.execQuery s
  | .ctxCreate => Sys2Proof.Machine.execCtxCreate s
  | .ctxChange => Sys2Proof.Machine.execCtxChange s
  | .ctxDestroy => Sys2Proof.Machine.execCtxDestroy s
  | .winGrant => Sys2Proof.Machine.execWinGrant s
  | .winRevoke => Sys2Proof.Machine.execWinRevoke s
  | .wsLoad => Sys2Proof.Machine.execWsLoad s
  | .queueSet => Sys2Proof.Machine.execQueueSet s
  | .sectorRead => Sys2Proof.Machine.execSectorRead s
  | .queueKick => Sys2Proof.Machine.execQueueKick s
  | .unknownService => Sys2Proof.Machine.execUnknownService s
  | .getVersion => Sys2Proof.Machine.execGetVersion s
  | .getCapabilities => Sys2Proof.Machine.execGetCapabilities s
  | .negotiateAlgorithms => Sys2Proof.Machine.execNegotiateAlgorithms s
  | .getDigests => Sys2Proof.Machine.execGetDigests s
  | .getCertificate => Sys2Proof.Machine.execGetCertificate s
  | .challenge => Sys2Proof.Machine.execChallenge s
  | .getMeasurements => Sys2Proof.Machine.execGetMeasurements s
  | .unsupportedRequest => Sys2Proof.Machine.execUnsupportedRequest s
  | .pldmPlatformMonitoring => Sys2Proof.Machine.execPldmPlatformMonitoring s
  | .pldmFirmwareUpdate => Sys2Proof.Machine.execPldmFirmwareUpdate s
  | .firmwareUpdate => Sys2Proof.Machine.execFirmwareUpdate s
  | .machineCheck => Sys2Proof.Machine.execMachineCheck s
  | .pageQuarantine => Sys2Proof.Machine.execPageQuarantine s
  | .memoryDieOutOfService => Sys2Proof.Machine.execMemoryDieOutOfService s
  | .dieReplacement => Sys2Proof.Machine.execDieReplacement s
  | .sfuOutOfService => Sys2Proof.Machine.execSfuOutOfService s
  | .sfuReturnToService => Sys2Proof.Machine.execSfuReturnToService s
  | .lpddr6Calibration => Sys2Proof.Machine.execLpddr6Calibration s
  | .scrub => Sys2Proof.Machine.execScrub s
  | .linkRetry => Sys2Proof.Machine.execLinkRetry s
  | .linkUp => Sys2Proof.Machine.execLinkUp s
  | .thermalThrottle => Sys2Proof.Machine.execThermalThrottle s
  | .thermalStop => Sys2Proof.Machine.execThermalStop s
  | .thermalPowerOff => Sys2Proof.Machine.execThermalPowerOff s
  | .panelBringUp => Sys2Proof.Machine.execPanelBringUp s

end Sys2Proof.Machine
end

