-- ==== Sys2Proof/Machine/Issue.lean ====
section
/-! DEFINITION. Issuing a bundle: the two slots of a pair, the check order, the boundary after a bundle, and the
scheduling of waiting events. -/

namespace Sys2Proof.Machine

/-- The registers a form names as destinations, numbered for the conflict check: scalars from 0, vectors from 64, masks
from 96, SRSEQ 200; a write of s0 or q0 does not count (02 R37). -/
def destinations (i : Instr) : List Nat :=
  (match i with
   | .add d _ _ | .sub d _ _ | .and d _ _ | .or d _ _ | .xor d _ _ | .andn d _ _ | .orn d _ _ | .sll d _ _
   | .srl d _ _ | .sra d _ _ | .ror d _ _ | .slt d _ _ | .sltu d _ _ | .seq d _ _ | .sne d _ _ | .min d _ _
   | .max d _ _ | .minu d _ _ | .maxu d _ _ | .addw d _ _ | .subw d _ _ | .sllw d _ _ | .srlw d _ _ | .sraw d _ _
   | .mul d _ _ | .mulh d _ _ | .mulhu d _ _ | .mulhsu d _ _ | .mulw d _ _ | .div d _ _ | .divu d _ _ | .rem d _ _
   | .remu d _ _ | .divw d _ _ | .divuw d _ _ | .remw d _ _ | .remuw d _ _ | .clz d _ | .ctz d _ | .popc d _
   | .brev d _ | .bswap d _ | .sxb d _ | .sxh d _ | .sxw d _ | .zxh d _ | .zxw d _ | .lea1 d _ _ | .lea2 d _ _
   | .lea3 d _ _ | .lea4 d _ _ | .addi d _ _ | .andi d _ _ | .ori d _ _ | .xori d _ _ | .slti d _ _ | .sltiu d _ _
   | .slli d _ _ | .srli d _ _ | .srai d _ _ | .addiw d _ _ | .lui d _ | .addpc d _ | .jal d _ | .jalr d _ _
   | .ldb d _ _ | .ldbu d _ _ | .ldh d _ _ | .ldhu d _ _ | .ldw d _ _ | .ldwu d _ _ | .ldd d _ _ | .ldf d _ _
   | .ldfe d _ _ | .feqry d _ | .amo d _ _ _ _ _ | .sync d | .ticket d _ | .bart d _ | .chrecv d _
   | .waitw d _ _ _ | .drnwait d | .getc d _ => [d.toNat]
   | .ldq d _ _ => [d.toNat, d.toNat + 1]
   | .cas d _ _ _ z => if z = CasWidth.q then [d.toNat, d.toNat + 1] else [d.toNat]
   | .msgtake d n => (List.range (n.toNat + 1)).map (fun j => d.toNat + j)
   | .vld d _ _ => [64 + d.toNat]
   | .vldx d _ _ _ => [64 + d.toNat]
   | .vldxIx d _ _ _ => [64 + d.toNat]
   | .putc _ sel => if sel.toNat = 7 then [200] else []
   | .vadd d _ _ _ _ _ | .vsub d _ _ _ _ _ | .vmul d _ _ _ _ _ | .vmin d _ _ _ _ _ | .vmax d _ _ _ _ _
   | .vdiv d _ _ _ _ _ | .vshr d _ _ _ _ _ => [64 + d.toNat]
   | .vfma d _ _ _ _ | .vand d _ _ _ _ | .vor d _ _ _ _ | .vxor d _ _ _ _ | .vshl d _ _ _ _ | .vsel d _ _ _ _
   | .vperm d _ _ _ _ | .vscale d _ _ _ _ => [64 + d.toNat]
   | .vabs d _ _ _ _ | .vneg d _ _ _ _ | .vred d _ _ _ _ | .sfr d _ _ _ _ => [64 + d.toNat]
   | .vbcs d _ _ _ | .vmov d _ _ _ | .vsqrt d _ _ _ => [64 + d.toNat]
   | .viota d _ _ => [64 + d.toNat]
   | .vpop d _ _ _ => [64 + d.toNat]
   | .tvrow d _ _ _ => [64 + d.toNat]
   | .vcvt d _ _ _ _ v => if v.toNat % 8 = 4 then [64 + d.toNat, 200] else [64 + d.toNat]
   | .vcmp q _ _ _ _ _ => [96 + q.toNat]
   | .vext d _ _ _ _ _ => [d.toNat]
   | _ => []).filter (fun n => !(n == 0) && !(n == 96))

/-- A slot A memory form: ops 0x28 to 0x44, 0x4C and 0x4D (02 R37). -/
def isMemoryForm (i : Instr) : Bool :=
  match encodeA i with
  | some w => (decide (0x28 ≤ fld w 25 7) && decide (fld w 25 7 ≤ 0x44)) || fld w 25 7 == 0x4C || fld w 25 7 == 0x4D
  | none => false

/-- A slot B stream form that reaches memory (02 R37). -/
def isStreamForm : Instr → Bool
  | .vpop .. | .vpush .. => true
  | _ => false

/-- The slots of a pair conflict (02 R37). -/
def slotsConflict (a b : Instr) : Bool :=
  (destinations a).any (fun d => (destinations b).contains d) || (isMemoryForm a && isStreamForm b)

/-- SFR. -/
def isSfr : Instr → Bool
  | .sfr .. => true
  | _ => false

/-- END. -/
def isEnd : Instr → Bool
  | .endThread => true
  | _ => false

/-- NOP. -/
def isNop : Instr → Bool
  | .nop => true
  | _ => false

/-- The verdict an outcome carries; a fault or refusal carries none. -/
def verdictOf : Host.Outcome State Fault Refusal → Option Verdict
  | .next t => some t.cur.verdict
  | _ => none

/-- A VCVT of a block format under a mask, a field check of step 4 (02 R35, 06 R136). -/
def blockMasked (b : Instr) : Bool :=
  match b with
  | .vcvt _ _ fmt q _ _ => isBlockCode fmt.toNat && !(q == 0)
  | _ => false

/-- A pair with two instructions (02 R35 to R37): a wait for a pending register, a field check, PRIVILEGED, SLOT_CONFLICT, the
traps of slot A then of slot B, the other waits, and else both retire, both reading the state before the bundle: slot A runs on
the state slot B has left, but reads its thread and its core as they stood. A bundle whose slot A waits for an event with the
bundle still to retire (END in supervisor mode among them) has not executed its slot B form, and does so only if it is offered
again and retires: END in supervisor mode moves KEPC past the bundle, so its slot B form is never executed, while in firmware mode
it executes on the wake (04 R107 does not say; DESIGN CHOICE, log 25). Of two waits that an event ends, an SFR's comes first, so that
FP_TRAP is found before slot A's wait takes anything (05 R126), and otherwise slot A's (DESIGN CHOICE, log 25). -/
def runBoth (a b : Instr) (s : State) : Host.Outcome State Fault Refusal :=
  let ra := exec a s
  let rb := exec b s
  match verdictOf ra, verdictOf rb with
  | some va, some vb =>
    if va = .parkedPending then ra else
    if vb = .parkedPending then rb else
    if blockMasked b then rb else
    if privileged a s then ra else
    if slotsConflict a b then .next ((s.trapEntry s.cur.core s.cur.thr 4 2 s.cur.bundle s.src.pc).verdict .trapped) else
    if va = .trapped then ra else
    if vb = .trapped then rb else
    if va = .parked then ra else
    if vb = .parked then rb else
    if vb = .joined && isSfr b && !(isEnd a) then rb else
    if va = .joined then ra else
    if vb = .joined then rb else
    (match rb with
     | .next t => exec a { t with cur := { t.cur with preCore := some s.was } }
     | r => r)
  | none, _ => ra
  | _, none => rb

/-- A decoded bundle (02 R31, R32). -/
def runBundle (b : Bundle) (s : State) : Host.Outcome State Fault Refusal :=
  match b with
  | .long i => exec i s
  | .pair a .nop => exec a s
  | .pair .nop b => exec b s
  | .pair a b => runBoth a b s

/-- Whether the wait of a parked thread is ended by an event that has not come yet: its slot stays empty (01 R22). -/
def Thread.waitsForEvent (th : Thread) : Bool :=
  match th.park with
  | .feWord _ | .channel _ | .sem _ | .inbox | .barrier | .barrierTimed | .watch _ | .ticket | .donation | .drain
  | .descriptor | .firmware | .endParked | .invalidation => th.grant.isNone
  | .gang => !th.grantB
  | _ => false

/-- What a parked bundle waited for has come. -/
def Thread.granted (th : Thread) : Bool := th.grant.isSome || th.grantB

/-- A parked bundle that completes before a stop or a hold takes its thread: what it waited for has come, or it is parked on SFR results
(05 R126; 14 R387 step 1). -/
def Thread.completes (th : Thread) : Bool := th.granted || th.sfr.any (fun r => r.holds)

/-- Whether a thread may go on as far as its own state says: `stops` are the stop bits that count (11 R282, 14 R384). With one set, or
with an access held, which keeps the next bundle from issuing (09 R223), only a bundle that completes first is offered
(14 R387 step 1). -/
def Thread.offers (th : Thread) (stops : Bool) : Bool :=
  (match th.st with | .running | .parked => true | .free | .idle | .retired => false) && !th.stopped &&
    (th.held.isNone || th.completes) && !th.waitsForEvent && (!stops || th.completes)

/-- Whether a thread offers a bundle in its slot. In deterministic mode a thread has the bundles of its quantum, a stop takes effect
at a quantum boundary, and while the quantum's end is served only a thread that took a conflict runs, or one whose bundle has been
served (12 R335, R336, R341; 14 R388). -/
def State.offers (s : State) (k t : Nat) : Bool :=
  let th := s.thread k t
  match s.ctxOfCore k with
  | none => th.offers th.anyStop
  | some c =>
    if !c.det || th.isSup then th.offers th.anyStop
    else if c.stopping then th.offers th.anyStop && (c.caught.contains (k, t % 8) || th.completes)
    else th.offers th.stopD && decide (th.retired < th.qlim)

/-- A bundle of a held thread has completed: KEPC names the bundle after it (09 R223). -/
def Thread.heldAfter (th : Thread) : Thread := if th.held.isSome && decide (th.mode = Mode.user) then { th with kepc := th.pc } else th

/-- The boundary after a bundle (14 R379): SINGLE_STEP, then a pending class A cause, for which an idle thread waits; a held thread
makes the entry and then stays parked. DBGSTEP's STEP ends here (14 R390). -/
def boundary (r : Host.Outcome State Fault Refusal) : Host.Outcome State Fault Refusal :=
  match r with
  | .next s =>
    let k := s.cur.core
    let t := s.cur.thr
    let s := match s.cur.verdict with
      | .retired =>
        let s := s.modThread k t (fun th => { th.heldAfter with retired := th.retired + 1, entered := false })
        let st := (s.thread k t).st
        if decide (st = TState.retired) then s else
        if decide (s.src.mode = Mode.user) && bit s.src.dbgc 0 then
          (if decide (st = TState.idle) then s.modThread k t (fun th => { th with classA := th.classA ++ [(40, s.src.pc)] })
           else s.trapEntry k t 40 2 s.src.pc (s.thread k t).pc)
        else
          match (s.thread k t).classA with
          | (c, v) :: r => if decide (st = TState.idle) then s else
              (s.modThread k t (fun th => { th with classA := r })).trapEntry k t c (if c = 40 then 2 else 3) v (s.thread k t).pc
          | [] => s
      | _ => s
    let s := match s.cur.verdict with
      | .retired | .trapped =>
        if (s.thread k t).stepOne then
          ((s.modThread k t (fun th => { th with stepOne := false, stopD := true })).postOnce (.threadStop k t)).postOnce (.debugHalt k t)
        else s
      | _ => s
    .next { s with cur := Cur.idle, input := Input.none }
  | r => r

/-- The bundle at the thread's pc is not buffered, and its line cannot be read yet (08 R204; 15 R420). -/
def State.fetchWaits (s : State) (k t : Nat) : Bool :=
  let th := s.thread k t
  !(th.ibuf.any (fun e => e.1 == th.pc)) && s.waitsOutside k th.pc

/-- A bundle fetched from memory takes its line through the cluster L1 (08 R192). -/
def State.fetched (s : State) (k t : Nat) : State :=
  let th := s.thread k t
  if th.ibuf.any (fun e => e.1 == th.pc) then s else
  match s.place k th.mode .fetch th.pc with
  | .ok p => (s.cacheFor k th.pc).viaL1 k .fetch th.pc p
  | .error _ => s

/-- What an instruction of thread t of a core would decide now: its bundle is `w`, and the thread is read as it stands. -/
def State.tryForm (s : State) (k t : Nat) (w : Word) (i : Instr) : Option Verdict :=
  verdictOf (exec i { s with cur := { Cur.idle with core := k, thr := t, bundle := w, pre := some (s.thread k t) } })

/-- What the other slot of a parked pair would decide now: the slot that is not the one waiting for an event (02 R36). -/
def State.otherVerdict (s : State) (k t : Nat) : Option Verdict :=
  let th := s.thread k t
  if !th.waitsForEvent then none else
  match th.park, s.fetch k t with
  | .endParked, _ => none
  | _, .error _ => none
  | p, .ok w =>
    match decodeBundle w.toNat with
    | .ok (.pair a b) => let o := if p = .gang then a else b
                         if isNop o then none else s.tryForm k t w o
    | _ => none

/-- The other slot of a parked pair would trap: the bundle traps at its thread's slot, though its wait goes on (02 R36). -/
def State.pairTraps (s : State) (k t : Nat) : Bool :=
  !((s.thread k t).stopped) && s.otherVerdict k t == some .trapped

/-- The parked threads whose wait no event ends now, since their bundle's other slot would park or trap: neither slot has an effect
until every condition of both is met (02 R36). -/
def State.blockedNow (s : State) : List (Nat × Nat) :=
  s.cores.flatMap (fun c => ((List.range 8).filter (fun t => match s.otherVerdict c.1 t with
    | some .parked | some .parkedPending | some .trapped => true
    | _ => false)).map (fun t => (c.1, t)))

/-- The bundle at the thread's pc is fetched, decoded and run (02 R35). A class A cause that is pending is taken before it, unless the
thread has just made an entry (14 R379). `was` is the core as it stood before an event that ends the bundle's wait, where slot A reads
it so. -/
def issueThread (k t : Nat) (was : Option Core) (s : State) : Host.Outcome State Fault Refusal :=
  let th := s.thread k t
  match th.classA, th.grant.isSome || th.grantB || th.entered with
  | (c, v) :: r, false =>
    .next ((((s.withdraw k t).modThread k t (fun th => { th with classA := r })).trapEntry k t c (if c = 40 then 2 else 3) v th.pc))
  | _, _ =>
  match s.fetch k t with
  | .error (c, v) => boundary (.next (((({ s with cur := { Cur.idle with core := k, thr := t, pre := some th } }).metAt k c v).trapEntry
      k t c 2 v th.pc).verdict .trapped))
  | .ok w =>
    if s.fetchWaits k t then .next (s.callBack k th.pc) else
    let s := { s with
      cur := { Cur.idle with core := k, thr := t, bundle := w, pre := some th, preCore := was },
      input := { Input.none with blocked := s.blockedNow } }.fetched k t
    let s := if s.buffering && !(th.ibuf.any (fun e => e.1 == th.pc)) then
        s.modThread k t (fun th => { th with ibuf := th.ibuf ++ [(th.pc, w)] }) else s
    match decodeBundle w.toNat with
    | .ok b => boundary (runBundle b s)
    | .error _ => boundary (exec .reservedEncoding s)

/-- The threads whose bundle's wait `t` has ended and `s` had not. -/
def newlyGranted (s t : State) : List (Nat × Nat) :=
  t.cores.flatMap (fun c => ((List.range 8).filter (fun i =>
    decide ((c.2.thread i).st = TState.parked) && (c.2.thread i).granted && !((s.thread c.1 i).granted) && t.offers c.1 i)).map (fun i => (c.1, i)))

/-- Bundles whose waits have ended retire at once, in the cycle in which what they waited for came about (07 R171; 11 R312, R318). Slot
A of an MMAG's pair reads its core as it stood before the joint operation was accepted (02 R36). -/
def retireGranted (s t : State) : State :=
  (newlyGranted s t).foldl (fun u x =>
    match issueThread x.1 x.2 (if (u.thread x.1 x.2).park = .gang then some (s.core x.1) else none) u with
    | .next v => v
    | _ => u) t

/-- The issue slot of a core in this cycle: context cycle mod 8 (01 R22). A thread that loses a bank forfeits it: its bundle does not
issue, and nothing changes (12 R333). -/
def issueSlot (k : Nat) (s : State) : Host.Outcome State Fault Refusal :=
  let t := s.clock % 8
  if s.pairTraps k t then issueThread k t none (s.withdraw k t) else
  if !(s.offers k t) then .next s else
  match issueThread k t none s with
  | .next u =>
    (match issueReq k t s u with
     | none => .next (retireGranted s u)
     | some r => if s.bankTaken r then .next s else .next (retireGranted s { u with banks := u.banks ++ r.wants }))
  | r => r

/-- The core whose slot comes next in this cycle: the lowest one that has not had it (log 3). -/
def turnCore? (s : State) : Option Nat := (s.cores.find? (fun c => decide (s.turn ≤ c.1))).map Prod.fst

/-- The core whose slot comes next. -/
def turnCore (s : State) : Nat := (turnCore? s).getD 0

/-- The next cycle (log 3). -/
def newCycle (s : State) : State :=
  { s with turn := 0, clock := s.clock + 1, budget := s.agenda.length, banks := [], bankq := s.bankq.filter s.agenda.contains }

/-- After the slot of core `k`: the next core of the cycle, and the next cycle after the last one (log 3). -/
def nextTurn (k : Nat) (s : State) : State :=
  if s.cores.any (fun c => decide (k < c.1)) then { s with turn := k + 1 } else newCycle s

/-- What an event does as it is tried. -/
def runEvent (e : Event) (s : State) : Host.Outcome State Fault Refusal :=
  exec e.what { s with input := { e.input with blocked := s.blockedNow }, cur := Cur.idle }

/-- An event may take place now. -/
def eventReady (e : Event) (s : State) : Bool :=
  match verdictOf (runEvent e s) with
  | some .waiting => false
  | _ => true

/-- The request of the thread whose slot in this cycle is still to come, if its bundle would issue (12 R332). -/
def State.slotReq (s : State) (k : Nat) : Option BankReq :=
  let t := s.clock % 8
  if s.turn ≤ k && s.offers k t then
    (match issueThread k t none s with
     | .next u => issueReq k t s u
     | _ => none)
  else none

/-- A waiting request came before the one that is being tried: it has lost a bank before, and the other one has not, or later
(12 R332). -/
def State.cameFirst (s : State) (a b : Event) : Bool :=
  match s.bankq.find? (fun x => decide (x = a) || decide (x = b)) with
  | some x => decide (x = a)
  | none => false

/-- A request for banks loses one of them: it has performed its access in this cycle, or a request that may be performed goes before
(12 R332). -/
def State.losesBank (s : State) (e : Event) (r : BankReq) : Bool :=
  s.bankTaken r ||
    ((r.wants.map Prod.fst).eraseDups).any (fun k => (s.slotReq k).any (fun q => s.losesTo r q false)) ||
    s.agenda.any (fun x => (s.bankReq x.what).any (fun q => s.losesTo r q (s.cameFirst x e) && eventReady x s))

/-- A waiting event tried; one that cannot take place yet waits again, last (log 3). One whose access loses a bank tries again in the
next cycle (12 R333). -/
def tryEvent (e : Event) (s : State) : Host.Outcome State Fault Refusal :=
  match runEvent e s with
  | .next t =>
    if t.cur.verdict = .waiting then .next (retireGranted s { t with agenda := t.agenda ++ [e], cur := Cur.idle, input := Input.none })
    else
      (match s.bankReq e.what with
       | none => .next (retireGranted s { t with cur := Cur.idle, input := Input.none })
       | some r =>
         if s.losesBank e r then .next { s with agenda := s.agenda ++ [e], bankq := if s.bankq.contains e then s.bankq else s.bankq ++ [e] }
         else .next (retireGranted s { t with
           cur := Cur.idle, input := Input.none, banks := t.banks ++ r.wants, bankq := t.bankq.filter (fun x => !(decide (x = e))) }))
  | r => r

/-- The list without its entry n. -/
def dropNth {α : Type} : Nat → List α → List α
  | _, [] => []
  | 0, _ :: r => r
  | n + 1, x :: r => x :: dropNth n r

/-- Which waiting event is tried: the oldest, or the one a schedule picks (log 3). -/
def pickEvent (s : State) : Option (Event × State) :=
  match s.picks with
  | [] => s.agenda.head?.map (fun e => (e, { s with agenda := s.agenda.tail }))
  | n :: r =>
    let j := n % s.agenda.length
    s.agenda[j]?.map (fun e => (e, { s with agenda := dropNth j s.agenda, picks := r }))

/-- One step: each waiting event is tried once a cycle, then each core offers the slot of that cycle (01 R22; log 3). -/
def stepOnce (s : State) : Host.Outcome State Fault Refusal :=
  if 0 < s.budget then
    match pickEvent { s with budget := s.budget - 1 } with
    | some (e, t) => tryEvent e t
    | none => .next { s with budget := 0 }
  else
    match turnCore? s with
    | none => .next (newCycle s)
    | some k =>
      match issueSlot k s with
      | .next t => .next (nextTurn k t)
      | r => r

/-- Where the tables of a program placed from outside stand in the LPDDR6 space (log 7). -/
def placedRoot : Nat := 0x40000000

/-- Where a program placed from outside starts (log 7). -/
def placedPc : Word := 0x10000

/-- A context with one page: 1 GiB of LPDDR6 at VA 0, readable, writable and executable (13 R351, R358, R359; log 7). -/
def placedCtx : Ctx :=
  { id := 1, rel7 := false, pmax := 0, lx0 := 0, ly0 := 0, lx1 := 7, ly1 := 15, root := BitVec.ofNat 64 placedRoot,
    hset := [0], wins := [], wext := [], panels := [0], qnt := 0, stealAge := 0, svimg := 0, gsb := 0, det := false, ending := [],
    quantum := 0, reqs := [], sigs := [], clocks := [], caught := [], advanced := 0, stopping := false, kept := [], keptFor := [], keptReady := [], dying := false, image := [] }

/-- The panel with a context, its tables and a running thread 0 of core 0, whose slot comes next (log 7). -/
def State.prepared (s : State) : State :=
  let m := writeBytes (writeBytes s.mem (physLpddr placedRoot) 8 (placedRoot + 0x80001)) (physLpddr (placedRoot + 0x80000)) 8
    (0x80000000 + 0x11F)
  let s := { s with
    mem := m, rails := Vector.replicate 5 true, ctxs := AMap.set s.ctxs 1 placedCtx, budget := 0, turn := 0,
    clock := s.clock - s.clock % 8, mdies := [], late := [], calib := [], banks := [] }
  s.modCore 0 (fun c => { c with owner := 1 }.setThread 0 { Thread.reset with st := .running, pc := placedPc })

/-- Where the next slot's thread fetches, if it can (02 R34). -/
def fetchPlace (s : State) : Option Nat :=
  let k := turnCore s
  let th := s.thread k (s.clock % 8)
  if s.budget = 0 && (turnCore? s).isSome && s.offers k (s.clock % 8) && th.classA.isEmpty && th.ibuf.isEmpty && isContextVa th.pc &&
      !(s.fetchWaits k (s.clock % 8)) then
    match s.fetch k (s.clock % 8), s.place k th.mode .fetch th.pc with
    | .ok _, .ok p => some p
    | _, _ => none
  else none

/-- The state with a bundle where the next step fetches. -/
def placeBundle (s : State) (w : Nat) : State :=
  match fetchPlace s with
  | some p => { s with mem := writeBytes s.mem p 8 w, late := s.lateLeft p 8, banks := [] }
  | none =>
    let s := s.prepared
    { s with mem := writeBytes s.mem (physLpddr (0x80000000 + 0x10000)) 8 w }

end Sys2Proof.Machine
end

