-- ==== Sys2Proof/Machine/Step.lean ====
section
/-! DEFINITION. The step of the panel, and a program word placed where it fetches next. -/

namespace Sys2Proof.Machine

/-- One step: a waiting event, or the issue slot of the next core (01 R22; log 3). -/
def step (s : State) : Host.Outcome State Fault Refusal := stepOnce s

/-- `s` with the instruction whose bits are `w` where the next step fetches (log 7). -/
def State.withFetchWord (s : State) (nbits w : Nat) : State := placeBundle s (w % 2 ^ nbits % 2 ^ 64)

end Sys2Proof.Machine
end

