-- ==== Sys2Proof/Safety.lean ====
section
/-! DEFINITION. What the claims are stated in: when a form can go on, what it may change, and the invariants of a state. -/

namespace Sys2Proof

/-- The instructions of a bundle. -/
def Bundle.parts : Bundle → List Instr
  | .pair a b => [a, b]
  | .long i => [i]

end Sys2Proof

namespace Sys2Proof.Machine

/-- A step from here answers a next state. -/
def State.goesOn (s : State) : Prop := ∃ t, step s = .next t

/-- Byte memory keeps its canonical form: addresses strictly rising, no cell as an unlisted one reads. -/
def State.memInv (s : State) : Prop := Memory.wf s.mem = true

/-- The registers a form names are at hand: none it reads or writes is pending (02 R36, R38), and none it reads holds an
uncorrectable unit (15 R402). -/
def State.atHand (s : State) (reads writes : List RegName) : Prop :=
  s.isPending (reads ++ writes) = false ∧ s.poisonedReg reads = none

/-- `t` differs from `s` at most in the issuing thread, in the poison its core holds, and in the notes about the bundle being
issued: memory, every other thread and core, every unit and every register shared by threads stand as they stood. -/
structure OnlyIssuer (s t : State) : Prop where
  rest : t = { s with cores := t.cores, cur := t.cur }
  cur : t.cur = { s.cur with verdict := t.cur.verdict, flags := t.cur.flags }
  cores : ∀ k, k ≠ s.cur.core → t.core k = s.core k
  own : t.core s.cur.core = { s.own with threads := (t.core s.cur.core).threads, poison := (t.core s.cur.core).poison }
  threads : ∀ j, j % 8 ≠ s.cur.thr % 8 → t.thread s.cur.core j = s.thread s.cur.core j
  poison : ∀ p ∈ (t.core s.cur.core).poison, p ∈ s.own.poison

/-- A form retires, and changes nothing but the issuing thread, which becomes `f` of the thread moved past the bundle. -/
def RetiresAs (s : State) (r : Host.Outcome State Fault Refusal) (f : Thread → Thread) : Prop :=
  ∃ t, r = .next t ∧ t.cur.verdict = .retired ∧ OnlyIssuer s t ∧ t.th = f (Thread.advance s.src.pc s.th)

/-- A form traps with a cause, a slot and a value: its thread takes the trap at the bundle, with nothing else done. -/
def TrapsWith (s : State) (r : Host.Outcome State Fault Refusal) (cause slot : Nat) (v : Word) : Prop :=
  r = .next ((s.trapEntry s.cur.core s.cur.thr cause slot v s.src.pc).verdict .trapped)

/-- A form retires with an effect that reaches beyond its thread: `f` of the state with the thread moved past the bundle, the
poison of the registers it wrote cleared (15 R402). -/
def RetiresTo (s : State) (r : Host.Outcome State Fault Refusal) (reads writes : List RegName) (f : State → State) : Prop :=
  r = .next (((f (s.modTh (Thread.advance s.src.pc))).cleanRegs reads writes).verdict .retired)

/-- The registers of a thread that software reads by name or number (02 R46 to R50, R62), everything else of it as at reset. -/
def Thread.regs (th : Thread) : Thread :=
  { Thread.reset with
    s := th.s, ssup := th.ssup, sfw := th.sfw, v := th.v, q := th.q, fpm := th.fpm, fpf := th.fpf, rngk := th.rngk, srseq := th.srseq,
    xh := th.xh, xv := th.xv, wto := th.wto, grp := th.grp, twin := th.twin, dbgc := th.dbgc, mode := th.mode, pmode := th.pmode,
    intrap := th.intrap, kcause := th.kcause, kepc := th.kepc, kval := th.kval, rba := th.rba }

/-- The registers of a core that software reads: its tiles and their shapes, its semaphores and full/empty bits, KVEC, and the state of
its engines (02 R49, R50, R58, R61), everything else of it as at reset. -/
def Core.regs (c : Core) : Core :=
  { Core.reset with
    tsh := c.tsh, tiles := c.tiles, sems := c.sems, fe := c.fe, kvec := c.kvec, cfault := c.cfault, mfault := c.mfault,
    cnext := c.cnext, cdone := c.cdone }

/-- Every register of every thread and core reads as it read. -/
def RegsKept (s t : State) : Prop :=
  (∀ k j, (t.thread k j).regs = (s.thread k j).regs) ∧ ∀ k, (t.core k).regs = (s.core k).regs

/-- What a form leaves as it was: its thread has the registers of `th`, its core those of `own`, and every other register, and every
byte of memory, reads as it read. -/
structure Frame (s t : State) (th : Thread) (own : Core) : Prop where
  thread : t.th.regs = th.regs
  threads : ∀ k j, k ≠ s.cur.core ∨ j % 8 ≠ s.cur.thr % 8 → (t.thread k j).regs = (s.thread k j).regs
  own : t.own.regs = own.regs
  cores : ∀ k, k ≠ s.cur.core → (t.core k).regs = (s.core k).regs
  mem : t.mem = s.mem

/-- A form retires, and the state it leaves is as `p` says. -/
def Retires (r : Host.Outcome State Fault Refusal) (p : State → Prop) : Prop :=
  ∃ t, r = .next t ∧ t.cur.verdict = .retired ∧ p t

/-- A form parks its thread on `w` with its request made: the event that meets the request lets the bundle go on (11 R283). -/
def Parks (r : Host.Outcome State Fault Refusal) (w : Wait) (p : State → Prop) : Prop :=
  ∃ t, r = .next t ∧ t.cur.verdict = .joined ∧ t.th.st = .parked ∧ t.th.park = w ∧ p t

/-- A form parks its thread on a condition, with nothing else done (02 R38, 11 R283). -/
def ParksOn (s : State) (r : Host.Outcome State Fault Refusal) (w : Wait) : Prop := r = .next (s.parkOn w .parked)

/-- An event waits to take place. -/
def State.awaits (s : State) (i : Instr) : Prop := ∃ e ∈ s.agenda, e.what = i

/-- An event takes place, and the state it leaves is as `p` says. -/
def Happens (r : Host.Outcome State Fault Refusal) (p : State → Prop) : Prop :=
  ∃ t, r = .next t ∧ t.cur.verdict = .done ∧ p t

/-- An event takes place with the effect `t`. -/
def HappensAs (r : Host.Outcome State Fault Refusal) (t : State) : Prop := r = .next (t.verdict .done)

/-- An event whose condition is not met waits: nothing changes (log 3). -/
def Waits (s : State) (r : Host.Outcome State Fault Refusal) : Prop := r = .next (s.verdict .waiting)

/-! ### The results of the scalar forms, as integers (04 R88) -/

/-- SX32 of an integer. -/
def sx32Int (n : Int) : Int := (BitVec.ofInt 32 n).toInt

/-- S[d] by form, an integer reduced modulo 2^64 (04 R90). -/
def aluTable : List ((BitVec 6 → BitVec 6 → BitVec 6 → Instr) × (Word → Word → Int)) :=
  [(.add, fun x y => x.toNat + y.toNat), (.sub, fun x y => x.toNat - y.toNat),
   (.and, fun x y => (x &&& y).toNat), (.or, fun x y => (x ||| y).toNat), (.xor, fun x y => (x ^^^ y).toNat),
   (.andn, fun x y => (x &&& ~~~y).toNat), (.orn, fun x y => (x ||| ~~~y).toNat),
   (.sll, fun x y => x.toNat * 2 ^ (y.toNat % 64)), (.srl, fun x y => x.toNat / 2 ^ (y.toNat % 64)),
   (.sra, fun x y => x.toInt / 2 ^ (y.toNat % 64)), (.ror, fun x y => (x.rotateRight (y.toNat % 64)).toNat),
   (.slt, fun x y => if x.toInt < y.toInt then 1 else 0), (.sltu, fun x y => if x.toNat < y.toNat then 1 else 0),
   (.seq, fun x y => if x.toNat = y.toNat then 1 else 0), (.sne, fun x y => if x.toNat = y.toNat then 0 else 1),
   (.min, fun x y => min x.toInt y.toInt), (.max, fun x y => max x.toInt y.toInt),
   (.minu, fun x y => (min x.toNat y.toNat : Nat)), (.maxu, fun x y => (max x.toNat y.toNat : Nat)),
   (.addw, fun x y => sx32Int (x.toNat + y.toNat)), (.subw, fun x y => sx32Int (x.toNat - y.toNat)),
   (.sllw, fun x y => sx32Int (x.toNat % 2 ^ 32 * 2 ^ (y.toNat % 32))),
   (.srlw, fun x y => sx32Int ((x.toNat % 2 ^ 32 / 2 ^ (y.toNat % 32) : Nat))),
   (.sraw, fun x y => sx32Int (sx32Int x.toNat / 2 ^ (y.toNat % 32)))]

/-- S[d] of the multiply and divide forms (04 R91, R92). -/
def mulDivTable : List ((BitVec 6 → BitVec 6 → BitVec 6 → Instr) × (Word → Word → Int)) :=
  [(.mul, fun x y => x.toNat * y.toNat), (.mulh, fun x y => x.toInt * y.toInt / 2 ^ 64),
   (.mulhu, fun x y => (x.toNat * y.toNat / 2 ^ 64 : Nat)), (.mulhsu, fun x y => x.toInt * y.toNat / 2 ^ 64),
   (.mulw, fun x y => sx32Int (x.toNat * y.toNat)),
   (.div, fun x y => if y.toInt = 0 then -1 else x.toInt.tdiv y.toInt),
   (.divu, fun x y => if y.toNat = 0 then -1 else (x.toNat / y.toNat : Nat)),
   (.rem, fun x y => if y.toInt = 0 then x.toInt else x.toInt - y.toInt * x.toInt.tdiv y.toInt),
   (.remu, fun x y => if y.toNat = 0 then x.toNat else (x.toNat % y.toNat : Nat)),
   (.divw, fun x y => if sx32Int y.toNat = 0 then -1 else sx32Int ((sx32Int x.toNat).tdiv (sx32Int y.toNat))),
   (.divuw, fun x y => if y.toNat % 2 ^ 32 = 0 then -1 else sx32Int ((x.toNat % 2 ^ 32 / (y.toNat % 2 ^ 32) : Nat))),
   (.remw, fun x y => if sx32Int y.toNat = 0 then sx32Int x.toNat else
      sx32Int (sx32Int x.toNat - sx32Int y.toNat * (sx32Int x.toNat).tdiv (sx32Int y.toNat))),
   (.remuw, fun x y => if y.toNat % 2 ^ 32 = 0 then sx32Int x.toNat else
      sx32Int ((x.toNat % 2 ^ 32 % (y.toNat % 2 ^ 32) : Nat)))]

/-- S[d] of the forms that scale an index (04 R93). -/
def leaTable : List ((BitVec 6 → BitVec 6 → BitVec 6 → Instr) × Nat) := [(.lea1, 1), (.lea2, 2), (.lea3, 3), (.lea4, 4)]

/-- The number of zero bits above the highest set bit, that is 64 less the bits the value needs (04 R93). -/
def zerosAbove (x : Word) : Nat := if x = 0 then 64 else 63 - Nat.log2 x.toNat

/-- S[d] of the bit forms whose result is an integer (04 R93). -/
def bitTable : List ((BitVec 6 → BitVec 6 → Instr) × (Word → Int)) :=
  [(.clz, fun x => zerosAbove x), (.popc, fun x => ((List.range 64).filter (fun i => x.getLsbD i)).length),
   (.sxb, fun x => (BitVec.ofInt 8 x.toNat).toInt), (.sxh, fun x => (BitVec.ofInt 16 x.toNat).toInt),
   (.sxw, fun x => sx32Int x.toNat), (.zxh, fun x => (x.toNat % 2 ^ 16 : Nat)), (.zxw, fun x => (x.toNat % 2 ^ 32 : Nat))]

/-- S[d] of the immediate forms, from the source and the 13-bit immediate (04 R94). -/
def immTable : List ((BitVec 6 → BitVec 6 → BitVec 13 → Instr) × (Word → BitVec 13 → Int)) :=
  [(.addi, fun x i => x.toNat + i.toInt), (.andi, fun x i => (x &&& BitVec.ofInt 64 i.toInt).toNat),
   (.ori, fun x i => (x ||| BitVec.ofInt 64 i.toInt).toNat), (.xori, fun x i => (x ^^^ BitVec.ofInt 64 i.toInt).toNat),
   (.slti, fun x i => if x.toInt < i.toInt then 1 else 0),
   (.sltiu, fun x i => if (x.toNat : Int) < i.toInt % 2 ^ 64 then 1 else 0),
   (.addiw, fun x i => sx32Int (x.toNat + i.toInt))]

/-- S[d] of the shifts by an immediate (04 R94). -/
def shiftTable : List ((BitVec 6 → BitVec 6 → BitVec 6 → Instr) × (Word → Nat → Int)) :=
  [(.slli, fun x n => x.toNat * 2 ^ n), (.srli, fun x n => (x.toNat / 2 ^ n : Nat)), (.srai, fun x n => x.toInt / 2 ^ n)]

/-- The conditions of the branches (04 R96). -/
def branchTable : List ((BitVec 6 → BitVec 6 → BitVec 13 → Instr) × (Word → Word → Bool)) :=
  [(.beq, fun x y => decide (x.toNat = y.toNat)), (.bne, fun x y => decide (x.toNat ≠ y.toNat)),
   (.blt, fun x y => decide (x.toInt < y.toInt)), (.bge, fun x y => decide (y.toInt ≤ x.toInt)),
   (.bltu, fun x y => decide (x.toNat < y.toNat)), (.bgeu, fun x y => decide (y.toNat ≤ x.toNat))]

/-! ### Accesses (09 R221 to R237) -/

/-- A form has put the entry `e` into its thread's access table and sent it: no register and no byte of memory has been written yet, and
its thread goes on at the next bundle. -/
structure Issued (s t : State) (e : AccEntry) (event : Instr) : Prop where
  entry : t.th.acc = s.th.acc ++ [e]
  seq : e.seq = s.th.aseq
  held : e.held = none
  sent : { what := event, input := Input.none } ∈ t.agenda
  frame : Frame s t s.th s.own
  pc : t.th.pc = s.src.pc + 8

/-- The address of an A.M form (02 R40, 09 R230). -/
def effAddr (base : Word) (o : BitVec 13) (size : Nat) : Word := base + BitVec.ofInt 64 (o.toInt * size)

/-- The scalar loads: bytes, and whether the value is sign-extended (09 R230). -/
def loadTable : List ((BitVec 6 → BitVec 6 → BitVec 13 → Instr) × Nat × Bool) :=
  [(.ldb, 1, true), (.ldbu, 1, false), (.ldh, 2, true), (.ldhu, 2, false), (.ldw, 4, true), (.ldwu, 4, false), (.ldd, 8, false)]

/-- The scalar stores: bytes (09 R230). -/
def storeTable : List ((BitVec 6 → BitVec 6 → BitVec 13 → Instr) × Nat) := [(.stb, 1), (.sth, 2), (.stw, 4), (.std, 8)]

/-- Every byte outside `n` bytes from `a` on reads as it read. -/
def MemoryKeptBut (s t : State) (a n : Nat) : Prop := ∀ b, (b < a ∨ a + n ≤ b) → Memory.get t.mem b = Memory.get s.mem b

/-! ### Vector results (06 R130, R133) -/

/-- The signed reading of a `w`-bit element. -/
def signedElem (w x : Nat) : Int := if x < 2 ^ (w - 1) then x else (x : Int) - 2 ^ w

/-- A value brought between two bounds. -/
def between (lo hi x : Int) : Int := max lo (min hi x)

/-- VADD, VSUB and VMUL on integers: variants 0 and 1 wrap, 2 saturates as signed, 3 as unsigned (06 R133). -/
def intVariant (f : Int → Int → Int) (w v x y : Nat) : Int :=
  if v < 2 then f (signedElem w x) (signedElem w y)
  else if v = 2 then between (-2 ^ (w - 1)) (2 ^ (w - 1) - 1) (f (signedElem w x) (signedElem w y))
  else between 0 (2 ^ w - 1) (f x y)

/-- The element-wise integer forms of two sources with variants, by element width and variant (06 R133). -/
def vecIntTable : List ((BitVec 5 → BitVec 5 → BitVec 5 → BitVec 3 → ElemType → BitVec 4 → Instr) × (Nat → Nat → Nat → Nat → Int)) :=
  [(.vadd, intVariant (fun x y => x + y)), (.vsub, intVariant (fun x y => x - y)), (.vmul, intVariant (fun x y => x * y)),
   (.vmin, fun w v x y => if v = 0 then min (signedElem w x) (signedElem w y) else min x y),
   (.vmax, fun w v x y => if v = 0 then max (signedElem w x) (signedElem w y) else max x y),
   (.vdiv, fun w v x y => if y = 0 then -1 else if v = 0 then (signedElem w x).tdiv (signedElem w y) else (x / y : Nat)),
   (.vshr, fun w v x y => if v = 0 then signedElem w x / 2 ^ (y % w) else (x / 2 ^ (y % w) : Nat))]

/-- Those without variants, the old destination element last (06 R133). -/
def vecPlainTable : List ((BitVec 5 → BitVec 5 → BitVec 5 → BitVec 3 → ElemType → Instr) × (Nat → Nat → Nat → Nat → Int)) :=
  [(.vfma, fun _ x y z => x * y + z), (.vshl, fun w x y _ => x * 2 ^ (y % w)), (.vand, fun _ x y _ => Nat.land x y),
   (.vor, fun _ x y _ => Nat.lor x y), (.vxor, fun _ x y _ => Nat.xor x y)]

/-- VABS and VNEG on integers: variant 0 wraps, 2 saturates (06 R133). -/
def vecUnaryTable : List ((BitVec 5 → BitVec 5 → BitVec 3 → ElemType → BitVec 4 → Instr) × (Nat → Nat → Nat → Int)) :=
  [(.vabs, fun w v x => if v = 2 then between (-2 ^ (w - 1)) (2 ^ (w - 1) - 1) (signedElem w x).natAbs else (signedElem w x).natAbs),
   (.vneg, fun w v x => if v = 2 then between (-2 ^ (w - 1)) (2 ^ (w - 1) - 1) (-signedElem w x) else -signedElem w x)]

/-- A register `y` by element: where the mask has the element, the integer `f` gives modulo 2^w, and elsewhere the old element. -/
def ElementsAre (ty : ElemType) (q : Mask) (old y : Vec) (f : Nat → Int) : Prop :=
  ∀ i, i < elemCount ty → elemAt (elemBits ty) y i =
    if activeElem q ty i then (f i % 2 ^ elemBits ty).toNat else elemAt (elemBits ty) old i

/-- A vector form retires with `y` in its register and flags `fl` raised in FPF (05 R126, 06 R131). -/
def RetiresVector (s : State) (r : Host.Outcome State Fault Refusal) (vd : BitVec 5) (y : Vec) (fl : BitVec 5) : Prop :=
  RetiresAs s r (fun th => { (th.writeV vd y) with fpf := th.fpf ||| fl.setWidth 64 })

/-- The floating forms of two sources with variants, all of variant 0 (06 R134). -/
def vecFloatTable : List (BitVec 5 → BitVec 5 → BitVec 5 → BitVec 3 → ElemType → BitVec 4 → Instr) :=
  [.vadd, .vsub, .vmul, .vmin, .vmax, .vdiv]

/-- A floating form retires with its flags added and its inactive elements kept (06 R130; 05 R126). -/
def RetiresFloat (s : State) (r : Host.Outcome State Fault Refusal) (vd : BitVec 5) (q : Mask) (ty : ElemType) (en : BitVec 5) : Prop :=
  ∃ y fl, RetiresVector s r vd y fl ∧ fl &&& en = 0 ∧
    ∀ i, i < elemCount ty → activeElem q ty i = false → elemAt (elemBits ty) y i = elemAt (elemBits ty) (s.rv vd) i

/-- A floating form retires where no flag is enabled; where one is, it retires with none of them raised, or takes FP_TRAP (35) in
slot B (05 R126). -/
def FloatOutcome (s : State) (r : Host.Outcome State Fault Refusal) (vd : BitVec 5) (q : Mask) (ty : ElemType) : Prop :=
  (fpmEn s.src.fpm = 0 → RetiresFloat s r vd q ty 0) ∧
  (RetiresFloat s r vd q ty (fpmEn s.src.fpm) ∨ fpmEn s.src.fpm ≠ 0 ∧ ∃ v, TrapsWith s r 35 1 v)

/-- The comparison of VCMP on integers by condition (06 R135). -/
def intCompare (w v x y : Nat) : Bool :=
  let a := signedElem w x
  let b := signedElem w y
  match v with
  | 0 => decide (a = b) | 1 => decide (a ≠ b) | 2 => decide (a < b) | 3 => decide (a ≤ b) | 4 => decide (b < a) | 5 => decide (b ≤ a)
  | 10 => decide (x < y) | 11 => decide (x ≤ y) | 12 => decide (y < x) | 13 => decide (y ≤ x) | _ => false

/-- The comparison of VCMP on two floating values by condition (06 R135): none but NE and UN holds with a NaN. -/
def floatCompare (v : Nat) (a b : FNum) : Bool :=
  let un := a.isNan || b.isNan
  match v with
  | 0 => !un && decide (a.order b = 0) | 1 => un || decide (a.order b ≠ 0) | 2 => !un && decide (a.order b < 0)
  | 3 => !un && decide (a.order b ≤ 0) | 4 => !un && decide (0 < a.order b) | 5 => !un && decide (0 ≤ a.order b) | 6 => un | _ => !un

/-- NV of a comparison: any NaN for the four orders, a signalling one for the other conditions (06 R135). -/
def compareInvalid (v : Nat) (a b : FNum) : Bool :=
  if 2 ≤ v ∧ v ≤ 5 then a.isNan || b.isNan else a.isSnan || b.isSnan

/-- Node j of level L of the reduction tree, absent where no leaf below it is present (06 R141). -/
def redNode (comb : Nat → Nat → FRes) (leaf : Nat → Option Nat) : Nat → Nat → Option Nat
  | 0, j => leaf j
  | L + 1, j =>
    match redNode comb leaf L (2 * j), redNode comb leaf L (2 * j + 1) with
    | some x, some y => some (comb x y).bits
    | some x, none => some x
    | none, y => y

/-- The flags of every operation below node j of level L (06 R141). -/
def redFlags (comb : Nat → Nat → FRes) (leaf : Nat → Option Nat) : Nat → Nat → BitVec 5
  | 0, _ => 0
  | L + 1, j => redFlags comb leaf L (2 * j) ||| redFlags comb leaf L (2 * j + 1) |||
    (match redNode comb leaf L (2 * j), redNode comb leaf L (2 * j + 1) with
     | some x, some y => (comb x y).fl
     | _, _ => 0)

/-- A leaf of a floating reduction: a subnormal is a zero of its sign under DAZ (06 R141). -/
def floatLeaf (f : FFmt) (daz : Bool) (x : Nat) : Nat :=
  match f.readDaz daz x with
  | .fin n 0 _ => f.zeroBits n
  | _ => x

/-- What a floating reduction writes, with its flags: the value at the root, as the result of an operation, or the identity (06 R141). -/
def floatReduce (f : FFmt) (fpm : Word) (v : Nat) (levels : Nat) (leaf : Nat → Option Nat) : FRes :=
  let comb := fun x y =>
    if v = 0 then f.add (fpmFtz fpm) (fpmRound fpm) (f.read x) (f.read y) else minMaxFlt f (fpmFtz fpm) (v == 2) (f.read x) (f.read y)
  let root : FRes := match redNode comb leaf levels 0 with
    | some r => convertFlt f false (fpmFtz fpm) .rne (f.read r)
    | none => { bits := if v = 0 then 0 else f.infBits (v == 2), fl := 0 }
  { root with fl := redFlags comb leaf levels 0 ||| root.fl }

/-- What an integer reduction writes, from the active elements (06 R141). -/
def IntReduces (w v : Nat) (l : List Nat) (x : Nat) : Prop :=
  (v = 0 → x = l.sum % 2 ^ w) ∧ (v = 3 → x = l.foldl Nat.land (2 ^ w - 1)) ∧ (v = 4 → x = l.foldl Nat.lor 0) ∧
  (v = 5 → x = l.foldl Nat.xor 0) ∧
  (l = [] → (v = 1 → x = 2 ^ (w - 1) - 1) ∧ (v = 2 → x = 2 ^ (w - 1)) ∧ (v = 6 → x = 2 ^ w - 1) ∧ (v = 7 → x = 0)) ∧
  (l ≠ [] → (v = 1 ∨ v = 2 ∨ v = 6 ∨ v = 7) → x ∈ l) ∧
  ∀ y ∈ l, (v = 1 → signedElem w x ≤ signedElem w y) ∧ (v = 2 → signedElem w y ≤ signedElem w x) ∧ (v = 6 → x ≤ y) ∧ (v = 7 → y ≤ x)

end Sys2Proof.Machine
end

