-- ==== Sys2Proof/Certificates/Slice0/Obligations.lean ====
section
/-! DEFINITION. The statements about the model. -/

open Sys2Proof Sys2Proof.Machine

/-- 04 R90, R91, R92: every form of the integer ALU group and of the multiply and divide group retires and writes the integer the rule
gives, reduced modulo 2^64, with the fixed results of a zero divisor and of signed overflow, whatever the register operands (s0 and the
banked s60 to s63 as `writeS` has them); no other register, flag, byte of memory or thread changes. -/
def Obligations.ArithmeticFormsWriteTheirResult : Prop :=
  (∀ p ∈ aluTable, ∀ (s : State) (d a b : BitVec 6), s.atHand [rn a, rn b] [rn d] →
    RetiresAs s (exec (p.1 d a b) s) (fun th => th.writeS d (BitVec.ofInt 64 (p.2 (s.rs a) (s.rs b))))) ∧
  (∀ p ∈ mulDivTable, ∀ (s : State) (d a b : BitVec 6), s.atHand [rn a, rn b] [rn d] →
    RetiresAs s (exec (p.1 d a b) s) (fun th => th.writeS d (BitVec.ofInt 64 (p.2 (s.rs a) (s.rs b)))))

/-- 04 R93: the bit forms and the scaled sums. CTZ, BREV and BSWAP are given bit by bit: the result y is such that CTZ's bit y is the
lowest set one (64 for zero), BREV's bit i is bit 63 - i, and BSWAP's byte i is byte 7 - i. -/
def Obligations.BitFormsWriteTheirResult : Prop :=
  (∀ p ∈ bitTable, ∀ (s : State) (d a : BitVec 6), s.atHand [rn a] [rn d] →
    RetiresAs s (exec (p.1 d a) s) (fun th => th.writeS d (BitVec.ofInt 64 (p.2 (s.rs a))))) ∧
  (∀ p ∈ leaTable, ∀ (s : State) (d a b : BitVec 6), s.atHand [rn a, rn b] [rn d] →
    RetiresAs s (exec (p.1 d a b) s) (fun th => th.writeS d (s.rs a + s.rs b * BitVec.ofNat 64 (2 ^ p.2)))) ∧
  (∀ (s : State) (d a : BitVec 6), s.atHand [rn a] [rn d] →
    (∃ n, RetiresAs s (exec (.ctz d a) s) (fun th => th.writeS d (BitVec.ofNat 64 n)) ∧
      n ≤ 64 ∧ (∀ j, j < n → (s.rs a).getLsbD j = false) ∧ (n < 64 → (s.rs a).getLsbD n = true)) ∧
    (∃ y : Word, RetiresAs s (exec (.brev d a) s) (fun th => th.writeS d y) ∧
      ∀ i, i < 64 → y.getLsbD i = (s.rs a).getLsbD (63 - i)) ∧
    (∃ y : Word, RetiresAs s (exec (.bswap d a) s) (fun th => th.writeS d y) ∧
      ∀ i, i < 64 → y.getLsbD i = (s.rs a).getLsbD (8 * (7 - i / 8) + i % 8)))

/-- 04 R94, R95: the immediate forms, the shifts by an immediate, LUI, ADDPC and MOVL. -/
def Obligations.ImmediateFormsWriteTheirResult : Prop :=
  (∀ p ∈ immTable, ∀ (s : State) (d a : BitVec 6) (i : BitVec 13), s.atHand [rn a] [rn d] →
    RetiresAs s (exec (p.1 d a i) s) (fun th => th.writeS d (BitVec.ofInt 64 (p.2 (s.rs a) i)))) ∧
  (∀ p ∈ shiftTable, ∀ (s : State) (d a n : BitVec 6), s.atHand [rn a] [rn d] →
    RetiresAs s (exec (p.1 d a n) s) (fun th => th.writeS d (BitVec.ofInt 64 (p.2 (s.rs a) n.toNat)))) ∧
  (∀ (s : State) (d : BitVec 6) (i : BitVec 19) (j : BitVec 50), s.atHand [] [rn d] →
    RetiresAs s (exec (.lui d i) s) (fun th => th.writeS d (BitVec.ofInt 64 (i.toInt * 2 ^ 13))) ∧
    RetiresAs s (exec (.addpc d i) s) (fun th => th.writeS d (s.src.pc + BitVec.ofInt 64 (i.toInt * 8))) ∧
    RetiresAs s (exec (.movl d j) s) (fun th => th.writeS d (BitVec.ofInt 64 j.toInt)))

/-- 04 R96: a branch compares its two sources and goes to the target or to the next bundle; it changes nothing else. -/
def Obligations.BranchesChooseTheNextPc : Prop :=
  ∀ p ∈ branchTable, ∀ (s : State) (a b : BitVec 6) (o : BitVec 13), s.atHand [rn a, rn b] [] →
    RetiresAs s (exec (p.1 a b o) s) (fun th => { th with
      pc := if p.2 (s.rs a) (s.rs b) then s.src.pc + BitVec.ofInt 64 (o.toInt * 8) else s.src.pc + 8 })

/-- 04 R97: JAL, LJAL and JALR write the link and go to the target; a JALR whose target is not bundle-aligned traps with
MISALIGNED_FETCH (6), the target in KVAL, its link unwritten. -/
def Obligations.JumpsLinkAndGo : Prop :=
  ∀ (s : State) (d a : BitVec 6) (i : BitVec 19) (j : BitVec 50) (k : BitVec 13),
    (s.atHand [] [rn d] →
      RetiresAs s (exec (.jal d i) s)
        (fun th => { (th.writeS d (s.src.pc + 8)) with pc := s.src.pc + BitVec.ofInt 64 (i.toInt * 8) }) ∧
      RetiresAs s (exec (.ljal d j) s)
        (fun th => { (th.writeS d (s.src.pc + 8)) with pc := s.src.pc + BitVec.ofInt 64 (j.toInt * 8) })) ∧
    (s.atHand [rn a] [rn d] →
      ((s.rs a + BitVec.ofInt 64 (k.toInt * 8)).toNat % 8 = 0 →
        RetiresAs s (exec (.jalr d a k) s)
          (fun th => { (th.writeS d (s.src.pc + 8)) with pc := s.rs a + BitVec.ofInt 64 (k.toInt * 8) })) ∧
      ((s.rs a + BitVec.ofInt 64 (k.toInt * 8)).toNat % 8 ≠ 0 →
        TrapsWith s (exec (.jalr d a k) s) 6 0 (s.rs a + BitVec.ofInt 64 (k.toInt * 8))))

/-! ### Traps, modes and control registers (02, 13, 14) -/

/-- 14 R374, R380: a trap entry of a thread outside a trap saves the pc and the value, records cause and slot, keeps the old mode in
PMODE, enters supervisor mode (firmware mode stays) and goes to the core's KVEC; every other register of the thread, its masks,
streams, pending marks, entries and retry latch stay, and no byte of memory, other thread or other core changes. A trap of a thread that is inside one stops it, with its trap registers as they were; in user or supervisor mode
DOUBLE_TRAP (63) goes to the firmware of its die. -/
def Obligations.TrapEntrySavesAndVectors : Prop :=
  (∀ (s : State) (k t cause slot : Nat) (v e : Word), (s.thread k t).intrap = false →
    let th := s.thread k t
    let u := s.trapEntry k t cause slot v e
    (u.thread k t).kepc = e ∧ (u.thread k t).kval = v ∧ (u.thread k t).kcause = BitVec.ofNat 64 (slot * 64 + cause) ∧
    (u.thread k t).pmode = th.mode ∧ (u.thread k t).intrap = true ∧ (u.thread k t).pc = (s.core k).kvec ∧
    (u.thread k t).mode = (if th.mode = .firmware then .firmware else .supervisor) ∧
    (u.thread k t).s = th.s ∧ (u.thread k t).ssup = th.ssup ∧ (u.thread k t).sfw = th.sfw ∧ (u.thread k t).v = th.v ∧
    (u.thread k t).q = th.q ∧ (u.thread k t).fpm = th.fpm ∧ (u.thread k t).fpf = th.fpf ∧ (u.thread k t).xh = th.xh ∧
    (u.thread k t).srseq = th.srseq ∧ (u.thread k t).streams = th.streams ∧ (u.thread k t).pend = th.pend ∧
    (u.thread k t).acc = th.acc ∧ (u.thread k t).latch = th.latch ∧ u.mem = s.mem ∧
    (∀ j i, j ≠ k ∨ i % 8 ≠ t % 8 → u.thread j i = s.thread j i)) ∧
  (∀ (s : State) (k t cause slot : Nat) (v e : Word), (s.thread k t).intrap = true → (s.thread k t).mode ≠ .firmware →
    let th := s.thread k t
    let u := s.trapEntry k t cause slot v e
    (u.thread k t).stopF = true ∧ (u.thread k t).kcause = th.kcause ∧ (u.thread k t).kepc = th.kepc ∧
    (u.thread k t).kval = th.kval ∧ (u.thread k t).mode = th.mode ∧ (u.thread k t).pc = th.pc ∧ u.mem = s.mem ∧
    (u.cdie (dieOfCore k)).reports = (s.cdie (dieOfCore k)).reports ++ [(63, doubleTrapVal cause slot k t e)])

/-- 14 R382: KRET completes in a mode that may run it: it restores the mode from PMODE, clears INTRAP and goes to KEPC, and leaves every
other register, of its thread and of any other, and every byte of memory. Outside a trap it raises RESERVED_FIELD (3), and it raises
PRIVILEGED (5) in user mode or where PMODE is above the mode. -/
def Obligations.KretReturns : Prop :=
  ∀ (s : State),
    (s.src.mode ≠ .user → s.src.intrap = true → s.src.pmode.level ≤ s.src.mode.level →
      Retires (exec .kret s) (fun t => t.th.mode = s.th.pmode ∧ t.th.intrap = false ∧ t.th.pc = s.src.kepc ∧
        Frame s t { s.th with mode := s.th.pmode, intrap := false } s.own)) ∧
    (s.src.mode = .user → TrapsWith s (exec .kret s) 5 0 0) ∧
    (s.src.mode ≠ .user → s.src.intrap = false → TrapsWith s (exec .kret s) 3 0 s.cur.bundle) ∧
    (s.src.mode ≠ .user → s.src.intrap = true → s.src.mode.level < s.src.pmode.level → TrapsWith s (exec .kret s) 5 0 0)

/-- 04 R108; 14 R381: SVC and, in user and firmware mode, TRAP complete by taking their own trap, SVC (37) and USER_TRAP (36), with n in
KVAL: outside a trap the pc is saved, the mode kept in PMODE and raised, and the thread goes to KVEC; every other register and every
byte of memory stays. In supervisor mode TRAP parks with a request of the service that n numbers before the firmware of the die,
FIRMWARE_REQUEST (61), and once it is answered it completes with the two result words in s1 and s2. -/
def Obligations.SoftwareTrapsAndRequests : Prop :=
  ∀ (s : State) (n : BitVec 13),
    let takes := fun (i : Instr) (cause : Nat) =>
      ∃ t, exec i s = .next t ∧ t.cur.verdict = .trapped ∧ t.th.pc = s.own.kvec ∧ t.th.intrap = true ∧
        Frame s t { s.th with
          kcause := BitVec.ofNat 64 cause, kval := n.setWidth 64, kepc := s.src.pc, pmode := s.th.mode, intrap := true,
          mode := if s.th.mode = .firmware then .firmware else .supervisor } s.own
    (s.th.intrap = false → takes (.svc n) 37 ∧ (s.src.mode ≠ .supervisor → takes (.trap n) 36)) ∧
    TrapsWith s (exec (.svc n) s) 37 0 (n.setWidth 64) ∧
    (s.src.mode ≠ .supervisor → TrapsWith s (exec (.trap n) s) 36 0 (n.setWidth 64)) ∧
    (s.src.mode = .supervisor → s.atHand ((List.range 8).map (fun i => RegName.s (1 + i))) [.s 1, .s 2] →
      (s.src.grant = none → s.src.fwreq = none →
        Parks (exec (.trap n) s) .firmware (fun t => t.th.fwreq.isSome = true ∧
          (t.cdie (dieOfCore s.cur.core)).fwq = (s.cdie (dieOfCore s.cur.core)).fwq ++ [(s.cur.core, s.cur.thr % 8)] ∧
          t.agenda = s.agenda ++ [{ what := serviceOf n.toNat, input := { Input.none with who := .thread s.cur.core (s.cur.thr % 8) } }])) ∧
      (∀ x y : Word, s.src.grant = some [x, y] →
        RetiresAs s (exec (.trap n) s) (fun th => (th.writeS 1 x).writeS 2 y)))

/-- 02 R35, R64; 13 R366; 14 R383, R385, R389: in user mode a privileged form raises PRIVILEGED (5) and has no effect. -/
def Obligations.UserModeIsRefusedPrivilegedForms : Prop :=
  ∀ (s : State), s.src.mode = .user → ∀ (a b : BitVec 6) (z : BitVec 2) (d : BitVec 6) (sel : BitVec 13),
    (s.atHand [rn a, rn b] [] → TrapsWith s (exec (.xinv a b z) s) 5 0 0) ∧
    (s.atHand [rn a] [] → TrapsWith s (exec (.xinvCtx a z) s) 5 0 0 ∧ TrapsWith s (exec (.rlatch a) s) 5 0 0 ∧
      TrapsWith s (exec (.gstop a) s) 5 0 0 ∧ TrapsWith s (exec (.gresume a) s) 5 0 0 ∧
      TrapsWith s (exec (.dbgstep a) s) 5 0 0) ∧
    (0x100 ≤ sel.toNat → selAssigned sel.toNat = true →
      (s.atHand [] [rn d] → TrapsWith s (exec (.getc d sel) s) 5 0 0) ∧
      (s.atHand [rn a] [] → TrapsWith s (exec (.putc a sel) s) 5 0 0))

/-- 02 R50, R52 to R64; 12 R339: GETC completes on every register on which the mode has a right: the destination receives the register's
value as it stood before the bundle, and nothing else changes; a read of RBD also moves RBA on. The value of each selector is given. In
deterministic mode TIME and CYC read the thread's retired bundles and WREF reads 0, and a read of EST waits, noting what the engines
had accepted, until each of these operations has completed or its engine has faulted. -/
def Obligations.GetcReadsTheRegister : Prop :=
  ∀ (s : State) (d : BitVec 6) (sel : BitVec 13), s.atHand [] [rn d] → s.cregTrap sel.toNat = none →
    (sel.toNat = 5 → ∀ r ∈ s.src.sfr, r.back = true) →
    (0x20 ≤ sel.toNat → sel.toNat < 0x40 → s.was.isW (sel.toNat - 0x20) = false) →
    let k := s.cur.core
    let th := s.src
    let det := s.detAt k
    let x := s.cregOf k s.cur.thr th sel.toNat
    let noted := BitVec.ofNat 64 (4 * s.was.cnext.toNat + 3) :: s.was.accepted
    let faulted := fun (y : Word) => if bits y 0 2 = 2 then s.was.mfault else s.was.cfault
    (sel.toNat ≠ 0x1001 → (sel.toNat = 0xD → det = false ∧ th.park ≠ .enginesIdle) →
      RetiresAs s (exec (.getc d sel) s) (fun u => u.writeS d x)) ∧
    (sel.toNat = 0x1001 → RetiresAs s (exec (.getc d sel) s) (fun u => { (u.writeS d (s.rbd th.rba)) with rba := rbaNext th.rba })) ∧
    (sel.toNat = 0xD → det = true →
      (th.park ≠ .enginesIdle →
        ((∀ y ∈ s.was.accepted, faulted y = true) →
          RetiresAs s (exec (.getc d sel) s) (fun u => { (u.writeS d s.was.est) with call := [] })) ∧
        (∀ y ∈ s.was.accepted, faulted y = false →
          Parks (exec (.getc d sel) s) .enginesIdle (fun t => t.th.call = noted ∧ Frame s t s.th s.own))) ∧
      (th.park = .enginesIdle →
        ((∀ y ∈ s.was.accepted, y ∈ th.call → faulted y = true) →
          RetiresAs s (exec (.getc d sel) s) (fun u => { (u.writeS d (s.was.estAfter th.call)) with call := [] })) ∧
        (∀ y ∈ s.was.accepted, y ∈ th.call → faulted y = false →
          Parks (exec (.getc d sel) s) .enginesIdle (fun t => t.th.call = th.call ∧ Frame s t s.th s.own)))) ∧
    (∀ n l, n < 2 ^ 16 → th.call = BitVec.ofNat 64 (4 * n + 3) :: l → s.was.cfault = false → s.was.mfault = false →
      s.was.estAfter th.call = BitVec.ofNat 64 ((n + 65535) % 65536 * 2 ^ 8 + n * 2 ^ 24)) ∧
    (sel = 0x000 → x = BitVec.ofNat 64 (s.cur.thr % 8 + k * 2 ^ 8)) ∧
    (sel = 0x001 → x = BitVec.ofNat 64 (coreX k + coreY k * 2 ^ 8 + clusterInDie k * 2 ^ 16 + coreInCluster k * 2 ^ 20 +
      dieOfCore k * 2 ^ 24 + s.own.cidPanel.toNat * 2 ^ 32)) ∧
    (sel = 0x002 → x = if det then BitVec.ofNat 64 th.retired else s.timeAt (.compute (dieOfCore k))) ∧
    (sel = 0x003 → x = if det then BitVec.ofNat 64 th.retired else BitVec.ofNat 64 (s.clock - s.own.cyc0)) ∧
    (sel = 0x004 → x = th.fpm) ∧ (sel = 0x005 → x = th.fpf) ∧ (sel = 0x006 → x = th.rngk) ∧ (sel = 0x007 → x = th.srseq) ∧
    (sel = 0x008 → x = th.xh) ∧ (sel = 0x009 → x = th.xv) ∧ (sel = 0x00A → x = th.wto) ∧ (sel = 0x00B → x = th.grp) ∧
    (sel = 0x00C → x = th.twin) ∧
    (sel = 0x00D → bit x 0 = !(s.was.copies.isEmpty && s.was.batches.isEmpty) ∧ bit x 1 = s.was.cfault ∧
      bit x 2 = !(s.was.mq.isEmpty && s.was.drains.isEmpty) ∧ bit x 3 = s.was.mfault ∧ bits x 5 3 = 0 ∧ bits x 40 24 = 0 ∧
      bits x 8 16 = s.was.cdone.toNat ∧ bits x 24 16 = s.was.cnext.toNat) ∧
    (sel = 0x00E → x = if det then 0 else s.wref) ∧
    (∀ c, s.ctxOfCore k = some c → (sel = 0x00F → x = c.qnt) ∧ (sel = 0x010 → x = c.stealAge)) ∧
    (sel = 0x011 → x = th.dbgc) ∧ (sel = 0x012 → x = s.capb) ∧
    (∀ n, n < 32 → sel.toNat = 0x20 + n → x = s.was.shape n) ∧
    (sel = 0x100 → x = BitVec.ofNat 64 (th.mode.level + th.pmode.level * 2 ^ 2 + if th.intrap then 2 ^ 4 else 0)) ∧
    (sel = 0x101 → x = th.kcause) ∧ (sel = 0x102 → x = th.kepc) ∧ (sel = 0x103 → x = th.kval) ∧ (sel = 0x104 → x = s.was.kvec) ∧
    (∀ n, n < 8 → sel.toNat = 0x110 + n → x = (s.was.thread n).latchWord) ∧
    (∀ n, n < 8 → let o := if n = s.cur.thr % 8 then th else s.was.thread n
      (sel.toNat = 0x180 + n → x = o.kstat) ∧ (sel.toNat = 0x188 + n → x = o.kcause) ∧ (sel.toNat = 0x190 + n → x = o.kepc) ∧
      (sel.toNat = 0x198 + n → x = o.kval)) ∧
    (sel = 0x1000 → x = th.rba) ∧ (sel = 0x1002 → x = s.smap) ∧ (sel = 0x1003 → x = s.rto) ∧ (sel = 0x1004 → x = s.wmlag) ∧
    (sel = 0x1005 → x = BitVec.ofNat 64 ((s.cdie (dieOfCore k)).therm % 2 ^ 8 + (s.cdie (dieOfCore k)).throttle % 2 ^ 8 * 2 ^ 8))

/-- 02 R50, R65: PUTC completes on every register on which the mode has a right, where no reserved bit is set and no field is refused,
with the register's write and nothing else. It writes the registers a thread holds for itself (FPM, SRSEQ, XH, XV, WTO, TWIN, RNGK,
KCAUSE, KEPC, KVAL), and KVEC of its core. -/
def Obligations.PutcWritesTheRegister : Prop :=
  ∀ (s : State) (a : BitVec 6) (sel : BitVec 13), s.atHand [rn a] [] → s.cregTrap sel.toNat = none →
    reservedBits sel.toNat (s.rs a) = false →
    (s.fieldBad sel.toNat (s.rs a) = false → (sel = 0x100 → bits (s.rs a) 2 2 = 2 → s.src.mode ≠ .supervisor) →
      (0x20 ≤ sel.toNat → sel.toNat < 0x40 → s.was.isW (sel.toNat - 0x20) = false) →
      RetiresTo s (exec (.putc a sel) s) [rn a] [] (fun t => t.writeCreg s.src.mode sel.toNat (s.rs a))) ∧
    (sel = 0x004 → RetiresAs s (exec (.putc a sel) s) (fun th => { th with fpm := s.rs a })) ∧
    (sel = 0x006 → RetiresAs s (exec (.putc a sel) s) (fun th => { th with rngk := s.rs a })) ∧
    (sel = 0x007 → RetiresAs s (exec (.putc a sel) s) (fun th => { th with srseq := s.rs a })) ∧
    (sel = 0x008 → RetiresAs s (exec (.putc a sel) s) (fun th => { th with xh := s.rs a })) ∧
    (sel = 0x009 → RetiresAs s (exec (.putc a sel) s) (fun th => { th with xv := s.rs a })) ∧
    (sel = 0x00A → RetiresAs s (exec (.putc a sel) s) (fun th => { th with wto := s.rs a })) ∧
    (sel = 0x00C → RetiresAs s (exec (.putc a sel) s) (fun th => { th with twin := s.rs a })) ∧
    (sel = 0x101 → RetiresAs s (exec (.putc a sel) s) (fun th => { th with kcause := s.rs a })) ∧
    (sel = 0x102 → RetiresAs s (exec (.putc a sel) s) (fun th => { th with kepc := s.rs a })) ∧
    (sel = 0x103 → RetiresAs s (exec (.putc a sel) s) (fun th => { th with kval := s.rs a })) ∧
    (sel = 0x104 → Retires (exec (.putc a sel) s) (fun t => t.th.pc = s.src.pc + 8 ∧ Frame s t s.th { s.own with kvec := s.rs a }))

/-- 13 R366; 14 R383, R385, R386, R388, R389: in supervisor or firmware mode the privileged forms complete with their effect: XINV and
XINV.CTX remove the translations of a range or of a whole context, RLATCH sends the held accesses of a thread again or delivers
their cause to it, GSTOP parks until its scope has stopped and then completes, GRESUME completes once it has, and DBGSTEP acts on
the thread it names. -/
def Obligations.PrivilegedFormsAct : Prop :=
  ∀ (s : State), s.src.mode ≠ .user → ∀ (a b : BitVec 6) (z : BitVec 2),
    (s.atHand [rn a, rn b] [] → isContextVa (s.rs a) = true → isContextVa (s.rs b - 1) = true →
      RetiresTo s (exec (.xinv a b z) s) [rn a, rn b] [] (fun t => if (s.rs b).toNat ≤ (s.rs a).toNat then t else
        t.invalidate s.own.owner z.toNat (some ((s.rs a).toNat, (s.rs b).toNat)))) ∧
    (s.atHand [rn a] [] →
      ((s.rs a).toNat < 2 ^ 12 → (s.src.mode = .supervisor → (s.rs a).toNat = s.own.owner) →
        RetiresTo s (exec (.xinvCtx a z) s) [rn a] [] (fun t => t.invalidate (s.rs a).toNat z.toNat none)) ∧
      ((s.rs a).toNat < 8 → (s.rs a).toNat ≠ s.cur.thr % 8 →
        ((s.thread s.cur.core (s.rs a).toNat).needsRetry = true →
          RetiresTo s (exec (.rlatch a) s) [rn a] [] (fun t => t.reissue s.cur.core (s.rs a).toNat)) ∧
        ((s.thread s.cur.core (s.rs a).toNat).needsRetry = false → RetiresAs s (exec (.rlatch a) s) id)) ∧
      (∀ j, (s.rs a).toNat = 8 + j → j < 8 → j ≠ s.cur.thr % 8 →
        let th := s.thread s.cur.core j
        th.grant = none → th.grantB = false → (∀ e ∈ th.acc, e.held ≠ some 47) → (∀ l, th.latch = some l → l.cause ≠ some 47) →
        (th.held.isSome = true → RetiresTo s (exec (.rlatch a) s) [rn a] [] (fun t => t.deliver s.cur.core j)) ∧
        (th.held = none → RetiresAs s (exec (.rlatch a) s) id)) ∧
      (s.stopScopeBad (s.rs a) = false →
        let sup := decide (s.src.mode = .supervisor)
        (s.src.park ≠ .stopping → Parks (exec (.gstop a) s) .stopping (fun _ => True)) ∧
        (s.src.park = .stopping → s.stopDone (s.stopCores (s.rs a)) = true → RetiresAs s (exec (.gstop a) s) id) ∧
        (s.stopDone (s.stopCores (s.rs a)) = true →
          RetiresTo s (exec (.gresume a) s) [rn a] [] (fun t =>
            let u := if sup then t else t.restoreScope (s.rs a)
            u.gangResume (u.stopCores (s.rs a)) sup (some (u.cur.core, u.cur.thr % 8)))) ∧
        (s.stopDone (s.stopCores (s.rs a)) = false → ParksOn s (exec (.gresume a) s) .stopping)) ∧
      (bits (s.rs a) 31 33 = 0 → bits (s.rs a) 25 3 ≤ 3 → (bits (s.rs a) 25 3 ≠ 3 → bits (s.rs a) 28 3 = 0) →
        s.ownPanel (bits (s.rs a) 17 8) = true → bits (s.rs a) 3 14 ≠ s.cur.core →
        (bits (s.rs a) 25 3 = 1 → (s.thread (bits (s.rs a) 3 14) (bits (s.rs a) 0 3)).stopD = true) → s.src.mode = .firmware →
        RetiresTo s (exec (.dbgstep a) s) [rn a] []
          (fun t => t.dbgAct (bits (s.rs a) 3 14) (bits (s.rs a) 0 3) (s.rs a) s.src.dbgc) ∧
        (bits (s.rs a) 25 3 = 0 →
          Retires (exec (.dbgstep a) s) (fun t => (t.thread (bits (s.rs a) 3 14) (bits (s.rs a) 0 3)).stopD = true))))

/-- 02 R35; 03 R84, R85: a bundle that encodes no instruction traps with KCAUSE by R85 and the bundle in KVAL. -/
def Obligations.ReservedEncodingsTrap : Prop :=
  ∀ (s : State),
    (decodeBundle s.cur.bundle.toNat = .error .illegalBundle → TrapsWith s (exec .reservedEncoding s) 1 2 s.cur.bundle) ∧
    (∀ n, decodeBundle s.cur.bundle.toNat = .error (.illegalOp n) → TrapsWith s (exec .reservedEncoding s) 2 n s.cur.bundle) ∧
    (∀ n, decodeBundle s.cur.bundle.toNat = .error (.reservedField n) → TrapsWith s (exec .reservedEncoding s) 3 n s.cur.bundle)

/-! ### Tasks and the thread's own control (04, 09, 11) -/

/-- 02 R32; 04 R102; 09 R228, R247; 11 R294: NOP, THROW, FENCEI, RTSET and PUBL complete: NOP changes nothing but the pc; THROW to a
handler sets XV, clears XH and goes there, and without a handler or a parent traps with THROW_UNCAUGHT (38); FENCEI discards the
fetched bundles once no earlier store is left, and waits for them before; RTSET sets a slot's range, and traps with 34 on a limit
below its base; PUBL sets what the task publishes. -/
def Obligations.ThreadControlForms : Prop :=
  ∀ (s : State),
    RetiresAs s (exec .nop s) id ∧
    (s.src.latch = none → s.src.acc.any (fun e => e.isStore) = false → RetiresAs s (exec .fencei s) (fun th => { th with ibuf := [] })) ∧
    (s.src.acc.any (fun e => e.isStore) = true → ParksOn s (exec .fencei s) .earlierStores) ∧
    ∀ (a b : BitVec 6), s.atHand [rn a, rn b] [] →
      (s.src.xh ≠ 0 → s.atHand [rn a] [] →
        RetiresAs s (exec (.throw a) s) (fun th => { th with xv := s.rs a, pc := s.src.xh, xh := 0 })) ∧
      (s.src.xh = 0 → (s.src.task.kind ≠ 0 ∨ s.src.task.parent = 0) → s.atHand [rn a] [] →
        TrapsWith s (exec (.throw a) s) 38 0 (s.rs a)) ∧
      (∀ n : BitVec 4, n ≠ 0 → s.slotBusy n.toNat = false → (s.rs a).toNat ≤ (s.rs b).toNat →
        RetiresAs s (exec (.rtset a b n) s) (fun th => th.setRange n
          { used := true, desc := none, base := s.rs a, limit := s.rs b,
            cover := [(s.rs a, (s.rs b).toNat - (s.rs a).toNat)] })) ∧
      (∀ n : BitVec 4, n ≠ 0 → s.slotBusy n.toNat = false → (s.rs b).toNat < (s.rs a).toNat →
        TrapsWith s (exec (.rtset a b n) s) 34 0 (s.rs a)) ∧
      (TrapsWith s (exec (.rtset a b 0) s) 3 0 s.cur.bundle) ∧
      ((s.rs a).toNat < 2 ^ 16 → (s.rs b).toNat < 2 ^ 33 →
        RetiresAs s (exec (.publ a b) s) (fun th => { th with task :=
          { th.task with pubmask := (s.rs a).setWidth 16, tiles := (s.rs b).setWidth 32, pin := (s.rs b).getLsbD 32 } }))

/-- 04 R104, R107: END in user mode, with no register pending and the retry latch empty, completes: it retires the thread when it has no
launch, or when its task has no child left and did not begin at a spawn, and changes no register and, without a launch, no byte of
memory; a child left, or a task that did, traps with SYNC_ORPHAN (28); in supervisor mode END parks, and in firmware mode it
completes when a request wakes its thread. -/
def Obligations.EndRetiresTheThread : Prop :=
  ∀ (s : State),
    (s.src.mode = .user → s.src.pend = [] → s.src.latch = none →
      (s.launch? s.src.task.launch = none →
        Retires (exec .endThread s) (fun t => t.th.st = .retired ∧ t.th.pc = s.src.pc + 8 ∧ Frame s t s.th s.own)) ∧
      (∀ l p, s.launch? s.src.task.launch = some l → s.frameAt s.cur.core s.src.task.frame = some p →
        (s.joinCount p = 0 → s.src.task.kind ≠ 0 → Retires (exec .endThread s) (fun t => t.th.st = .retired ∧ RegsKept s t)) ∧
        (s.joinCount p ≠ 0 → TrapsWith s (exec .endThread s) 28 0 (BitVec.ofNat 64 (s.joinCount p))) ∧
        (s.joinCount p = 0 → s.src.task.kind = 0 → TrapsWith s (exec .endThread s) 28 0 0))) ∧
    (s.src.mode = .supervisor → Parks (exec .endThread s) .endParked (fun t => t.mem = s.mem)) ∧
    (s.src.mode = .firmware → s.src.grant.isSome = true → RetiresAs s (exec .endThread s) id)

/-- 11 R288, R292, R295, R297, R298, R310; 12 R336: SPAWN, SPAWNR, YIELD, SYNC and TRET complete. A plain SPAWN or SPAWNR starts the child
on the thread: its pc is the target, its task has the frame taken from the core's pool, the parent's frame and the parent's spawn
index, sp and fp stand at its stack and frame, XH is 0 and every other register stays; the parent's continuation at the next bundle
stands in the core's deque. A placed one goes on, and the child stands at the tail of its die's ready queue, or in deterministic mode
among the requests of the quantum, with s1 to s8 as its arguments. YIELD leaves its thread idle and its continuation in the deque. A
SYNC with no child left goes on in the resumption state, the exception value in its destination; with children left it sets SUSP,
leaves its continuation with the launch, and its thread is idle. A TRET of a task without a parent leaves its thread idle; one whose
parent's continuation its thread pushed and nobody has claimed resumes the parent. -/
def Obligations.TaskFormsMoveTheTask : Prop :=
  ∀ (s : State),
    (∀ (l : Launch) (f : Nat) (c : Core), s.launchOf s.cur.core (s.cur.thr % 8) = some l → s.own.takeFrame l.id = some (f, c) →
      let born : Task := { frame := l.frame s.cur.core f, parent := s.src.task.frame, sidx := s.src.task.nspawn, nspawn := 0, kind := 0,
                           pubmask := 0, tiles := 0, pin := false, launch := l.id }
      let after : Task := { s.src.task with nspawn := s.src.task.nspawn + 1 }
      let child := fun (t : State) (pc : Word) => t.th.pc = pc ∧ t.th.xh = 0 ∧ t.th.readS 61 = l.frame s.cur.core f ∧
        t.th.readS 62 = l.stackTop s.cur.core f ∧ (∀ n : BitVec 6, n ≠ 61 → n ≠ 62 → t.th.readS n = s.th.readS n) ∧ t.th.v = s.th.v ∧
        t.th.q = s.th.q ∧ t.th.task = born ∧ ∃ e ∈ t.own.deque, e.cont.pc = s.src.pc + 8 ∧ e.cont.task = after ∧ e.cont.child = true
      (s.own.dequeHeld < 64 →
        (∀ i : BitVec 19, s.atHand ([rn 0] ++ spawnReads 0) (spawnWrites 0) → (s.src.pc + sx i * 8).toNat % 8 = 0 →
          Retires (exec (.spawn 0 i) s) (fun t => child t (s.src.pc + sx i * 8))) ∧
        (∀ a : BitVec 6, s.atHand ([rn 0, rn a] ++ spawnReads 0) (spawnWrites 0) → (s.rs a).toNat % 8 = 0 →
          Retires (exec (.spawnr 0 a) s) (fun t => child t (s.rs a)))) ∧
      (∀ (d : BitVec 6) (x : Ctx) (p q : Nat), d ≠ 0 → s.ctxOfCore s.cur.core = some x → (s.rs d).toNat < 128 →
        x.hasDie (s.rs d).toNat = true → s.frameAt s.cur.core s.src.task.frame = some p →
        s.frameAt s.cur.core (l.frame s.cur.core f) = some q →
        (x.det = false → ∀ fr, s.readyTail (s.rs d).toNat = some fr → (s.frameAt s.cur.core fr).isSome = true) →
        let placed := fun (t : State) (pc : Word) => t.th.pc = s.src.pc + 8 ∧ t.th.s = s.th.s ∧ t.th.v = s.th.v ∧ t.th.task = after ∧
          ∃ y : Cont, y.pc = pc ∧ y.task = born ∧ y.sp = l.stackTop s.cur.core f ∧ y.fp = l.frame s.cur.core f ∧
            y.args = (List.range 8).map (fun i => s.rs (BitVec.ofNat 6 (1 + i))) ∧
            (x.det = false → (t.cdie (s.rs d).toNat).ready = (s.cdie (s.rs d).toNat).ready ++ [y]) ∧
            (x.det = true → ∃ z, t.ctxOfCore s.cur.core = some z ∧ ∃ r, z.reqs = x.reqs ++ [r] ∧ r.cont = y ∧ r.core = s.cur.core)
        (∀ i : BitVec 19, s.atHand ([rn d] ++ spawnReads d) (spawnWrites d) → (s.src.pc + sx i * 8).toNat % 8 = 0 →
          Retires (exec (.spawn d i) s) (fun t => placed t (s.src.pc + sx i * 8))) ∧
        (∀ a : BitVec 6, s.atHand ([rn d, rn a] ++ spawnReads d) (spawnWrites d) → (s.rs a).toNat % 8 = 0 →
          Retires (exec (.spawnr d a) s) (fun t => placed t (s.rs a))))) ∧
    (∀ p, s.src.pend = [] → s.own.dequeHeld < 64 → s.frameAt s.cur.core s.src.task.frame = some p →
      Retires (exec .yield s) (fun t => t.th.st = .idle ∧ t.th.s = s.th.s ∧ t.th.v = s.th.v ∧
        ∃ e ∈ t.own.deque, e.cont.pc = s.src.pc + 8 ∧ e.cont.task = s.src.task)) ∧
    (∀ (d : BitVec 6) (p : Nat), s.atHand [] [rn d] → s.src.pend = [] → s.frameAt s.cur.core s.src.task.frame = some p →
      (s.joinCount p ≠ 0 → Retires (exec (.sync d) s) (fun t => t.th.st = .idle ∧ t.th.s = s.th.s ∧ t.th.v = s.th.v ∧
        t.joinSusp p = true ∧ ∀ l, s.launch? s.src.task.launch = some l →
          ∃ l' y, t.launch? s.src.task.launch = some l' ∧ l'.susps = l.susps ++ [y] ∧ y.pc = s.src.pc + 8 ∧ y.task = s.src.task ∧
            y.sync = some d)) ∧
      (s.joinCount p = 0 → s.was.mmasAny (s.cur.thr % 8) = false → s.src.mode = .user → s.th.mode = .user →
        Retires (exec (.sync d) s) (fun t => t.th.st = .running ∧ t.th.pc = alignPc (s.src.pc + 8) ∧
          t.th.task = { s.src.task with nspawn := 0 } ∧ t.th.v = Vector.replicate 32 0 ∧
          ∀ n : BitVec 6, t.th.readS n = if n = 0 then 0 else if n = d then s.excValue p else
            if (16 ≤ n.toNat ∧ n.toNat < 32) ∨ n = 61 ∨ n = 62 then s.rs n else 0))) ∧
    (∀ (p : Nat), s.src.pend = [] → s.src.latch = none → s.frameAt s.cur.core s.src.task.frame = some p → s.joinCount p = 0 →
      s.releaseWaits s.cur.core s.cur.thr s.src.task.pubmask s.src.spawns = false →
      (s.src.task.parent = 0 → Retires (exec .tret s) (fun t => t.th.st = .idle ∧ t.th.s = s.th.s ∧ t.th.v = s.th.v)) ∧
      (∀ e, s.src.task.parent ≠ 0 → s.popEntry s.cur.core (s.cur.thr % 8) s.src.task = some e → e.spilled = false → e.claimed = none →
        e.cont.sync = none → (∀ l, s.launch? e.cont.task.launch = some l → l.rmode ≠ 2 ∧ l.reserved = []) →
        s.was.mmasAny (s.cur.thr % 8) = false →
        Retires (exec .tret s) (fun t => t.th.st = .running ∧ t.th.pc = alignPc e.cont.pc ∧ t.th.task = e.cont.task ∧
          ∀ y ∈ t.own.deque, y.cont ≠ e.cont)))

/-! ### Memory forms (09) -/

/-- 09 R221, R222, R230, R231: a load completes when its address passes the checks of R222 and its thread has a free access entry: its
bundle retires with the access sent, its destination is pending, and its bytes will be read by LOAD_RESULT_ARRIVAL; a malformed
address traps with LOAD_FAULT (9) and a full table parks the thread. -/
def Obligations.LoadsIssue : Prop :=
  (∀ p ∈ loadTable, ∀ (s : State) (d b : BitVec 6) (o : BitVec 13), s.atHand [rn b] [rn d] →
    let a := effAddr (s.rs b) o p.2.1
    (s.issueCheck .load 9 false a p.2.1 none = none → s.src.accFull = false →
      Retires (exec (p.1 d b o) s) (fun t => ∃ e, Issued s t e (.loadResultArrival s.cur.core (s.cur.thr % 8) e.seq.toNat) ∧
        e.form = .load p.2.1 p.2.2 ∧ e.addr = a ∧ e.pieces = piecesOf a p.2.1 ∧ e.d = d.toNat ∧
        (d ≠ 0 → bankName s.th.mode (rn d) ∈ t.th.pend))) ∧
    (formatBad a = true → TrapsWith s (exec (p.1 d b o) s) 9 0 a) ∧
    (s.issueCheck .load 9 false a p.2.1 none = none → s.src.accFull = true → ParksOn s (exec (p.1 d b o) s) .accessTable)) ∧
  (∀ (s : State) (d b : BitVec 6) (o : BitVec 13), s.atHand [rn b] [rn d, rnNext d] →
    s.issueCheck .load 9 false (effAddr (s.rs b) o 16) 16 none = none → s.src.accFull = false →
    Retires (exec (.ldq d b o) s) (fun t => ∃ e, Issued s t e (.loadResultArrival s.cur.core (s.cur.thr % 8) e.seq.toNat) ∧
      e.form = .loadPair ∧ e.addr = effAddr (s.rs b) o 16 ∧ e.pieces = piecesOf (effAddr (s.rs b) o 16) 16 ∧ e.d = d.toNat)) ∧
  (∀ (s : State) (d : BitVec 5) (a b : BitVec 6) (x : BitVec 5) (o : BitVec 13) (z : BitVec 2), s.src.accFull = false →
    (s.atHand [rn b] [rnv d] → s.issueCheck .load 9 false (effAddr (s.rs b) o 128) 128 none = none →
      Retires (exec (.vld d b o) s) (fun t => ∃ e, Issued s t e (.loadResultArrival s.cur.core (s.cur.thr % 8) e.seq.toNat) ∧
        e.form = .vload ∧ e.addr = effAddr (s.rs b) o 128 ∧ e.pieces = piecesOf (effAddr (s.rs b) o 128) 128 ∧
        rnv d ∈ t.th.pend)) ∧
    (s.atHand [rn a, rn b] [rnv d] → s.elementsCheck .load 9 (2 ^ z.toNat) (strided (s.rs a) (s.rs b) (2 ^ z.toNat)) = none →
      Retires (exec (.vldx d a b z) s) (fun t => ∃ e, Issued s t e (.loadResultArrival s.cur.core (s.cur.thr % 8) e.seq.toNat) ∧
        e.form = .vload ∧ e.pieces = elementPieces (2 ^ z.toNat) (strided (s.rs a) (s.rs b) (2 ^ z.toNat)) ∧ rnv d ∈ t.th.pend)) ∧
    (s.atHand [rn a, rnv x] [rnv d] → s.elementsCheck .load 9 (2 ^ z.toNat) (indexed (s.rs a) (s.rv x) (2 ^ z.toNat)) = none →
      Retires (exec (.vldxIx d a x z) s) (fun t => ∃ e, Issued s t e (.loadResultArrival s.cur.core (s.cur.thr % 8) e.seq.toNat) ∧
        e.form = .vload ∧ e.pieces = elementPieces (2 ^ z.toNat) (indexed (s.rs a) (s.rv x) (2 ^ z.toNat)) ∧ rnv d ∈ t.th.pend)))

/-- 09 R221, R222, R230, R231, R234: a store completes when its address passes the checks of R222 and its thread has a free access
entry: its data is captured as its bundle retires, and memory changes when ACCESS_COMPLETION performs it (STO: when its packet is
applied). -/
def Obligations.StoresIssue : Prop :=
  (∀ p ∈ storeTable, ∀ (s : State) (d b : BitVec 6) (o : BitVec 13), s.atHand [rn b, rn d] [] →
    let a := effAddr (s.rs b) o p.2
    (s.issueCheck .store 10 false a p.2 none = none → s.src.accFull = false →
      Retires (exec (p.1 d b o) s) (fun t => ∃ e, Issued s t e (.accessCompletion s.cur.core (s.cur.thr % 8) e.seq.toNat) ∧
        e.form = .store ∧ e.addr = a ∧ e.pieces = piecesOf a p.2 ∧ e.data = (s.rs d).setWidth 1024)) ∧
    (formatBad a = true → TrapsWith s (exec (p.1 d b o) s) 10 0 a)) ∧
  (∀ (s : State) (d b : BitVec 6) (o : BitVec 13), s.atHand [rn b, rn d, rnNext d] [] →
    s.issueCheck .store 10 false (effAddr (s.rs b) o 16) 16 none = none → s.src.accFull = false →
    Retires (exec (.stq d b o) s) (fun t => ∃ e, Issued s t e (.accessCompletion s.cur.core (s.cur.thr % 8) e.seq.toNat) ∧
      e.form = .store ∧ e.pieces = piecesOf (effAddr (s.rs b) o 16) 16 ∧
      e.data = BitVec.ofNat 1024 ((s.rs d).toNat + (s.rs (d + 1)).toNat * 2 ^ 64))) ∧
  (∀ (s : State) (d b : BitVec 6) (o : BitVec 13), s.atHand [rn b, rn d] [] →
    s.issueCheck .store 10 true (effAddr (s.rs b) o 8) 8 none = none → s.src.accFull = false →
    Retires (exec (.sto d b o) s) (fun t => ∃ e, Issued s t e (.orderedInject s.cur.core (s.cur.thr % 8)) ∧ e.form = .sto ∧
      e.addr = effAddr (s.rs b) o 8 ∧ e.data = (s.rs d).setWidth 1024)) ∧
  (∀ (s : State) (d : BitVec 5) (a b : BitVec 6) (x : BitVec 5) (o : BitVec 13) (z : BitVec 2), s.src.accFull = false →
    (s.atHand [rn b, rnv d] [] → s.issueCheck .store 10 false (effAddr (s.rs b) o 128) 128 none = none →
      Retires (exec (.vst d b o) s) (fun t => ∃ e, Issued s t e (.accessCompletion s.cur.core (s.cur.thr % 8) e.seq.toNat) ∧
        e.form = .vstore ∧ e.pieces = piecesOf (effAddr (s.rs b) o 128) 128 ∧ e.data = s.rv d)) ∧
    (s.atHand [rn a, rn b, rnv d] [] →
      s.elementsCheck .store 10 (2 ^ z.toNat) (strided (s.rs a) (s.rs b) (2 ^ z.toNat)) = none →
      Retires (exec (.vstx d a b z) s) (fun t => ∃ e, Issued s t e (.accessCompletion s.cur.core (s.cur.thr % 8) e.seq.toNat) ∧
        e.form = .vstore ∧ e.pieces = elementPieces (2 ^ z.toNat) (strided (s.rs a) (s.rs b) (2 ^ z.toNat)) ∧ e.data = s.rv d)) ∧
    (s.atHand [rn a, rnv x, rnv d] [] →
      s.elementsCheck .store 10 (2 ^ z.toNat) (indexed (s.rs a) (s.rv x) (2 ^ z.toNat)) = none →
      Retires (exec (.vstxIx d a x z) s) (fun t => ∃ e, Issued s t e (.accessCompletion s.cur.core (s.cur.thr % 8) e.seq.toNat) ∧
        e.form = .vstore ∧ e.pieces = elementPieces (2 ^ z.toNat) (indexed (s.rs a) (s.rv x) (2 ^ z.toNat)) ∧ e.data = s.rv d)))

/-- 02 R38; 09 R224, R226: LOAD_RESULT_ARRIVAL of a load of one piece that nothing delays, with every store seen by every cluster, reads
the bytes at its place, writes them, extended, to its destination, and frees it from pending; memory does not change. -/
def Obligations.LoadResultArrives : Prop :=
  ∀ (s : State) (k t n seq : Nat) (signed : Bool) (e : AccEntry) (p : Piece) (a : Nat) (d : BitVec 6),
    (s.thread k t).entry? seq = some e → e.form = .load n signed → e.d = d.toNat → d ≠ 0 → e.mode = (s.thread k t).mode →
    e.arrived = false → e.held = none → e.pieces = [p] → e.done = 0 → e.data = 0 → p.off = 0 → p.size = n → s.late = [] →
    (n = 1 ∨ n = 2 ∨ n = 4 ∨ n = 8) → s.entryWaits k t e = false → s.placeN k e.mode .load p.addr n = .ok a →
    Happens (exec (.loadResultArrival k t seq) s) (fun u => u.mem = s.mem ∧
      (u.thread k t).readS d = (if signed then (BitVec.ofNat (8 * n) (s.rd a n)).signExtend 64 else BitVec.ofNat 64 (s.rd a n)) ∧
      bankName e.mode (rn d) ∉ (u.thread k t).pend ∧ (∀ j : BitVec 6, j ≠ d → (u.thread k t).readS j = (s.thread k t).readS j) ∧
      (u.thread k t).v = (s.thread k t).v)

/-- 08 R208; 09 R226: ACCESS_COMPLETION of a store of one piece that nothing delays, seen by every cluster at once, writes its bytes,
low byte first, at its place, changes no other byte of memory, and frees the entry; a load that has arrived is freed, once every
cluster has seen what it read. No register changes. -/
def Obligations.StoreIsPerformed : Prop :=
  ∀ (s : State) (k t seq : Nat) (e : AccEntry), (s.thread k t).entry? seq = some e → e.held = none →
    (∀ (p : Piece) (a : Nat), e.form = .store → e.pieces = [p] → e.done = 0 → p.off = 0 → s.entryWaits k t e = false →
      s.place k e.mode .store p.addr = .ok a → s.lag = [] → s.lateOf k t seq = [] → s.storeLoses k e = false →
      Happens (exec (.accessCompletion k t seq) s) (fun u => MemoryKeptBut s u a p.size ∧
        u.rd a p.size = e.data.toNat % 2 ^ (8 * p.size) ∧ (u.thread k t).entry? seq = none ∧ (u.thread k t).s = (s.thread k t).s)) ∧
    (e.form = .store → e.done ≠ e.pieces.length → s.entryWaits k t e = false → s.storeLoses k e = true →
      Waits s (exec (.accessCompletion k t seq) s)) ∧
    (∀ n signed, e.form = .load n signed → e.arrived = true → s.late = [] →
      Happens (exec (.accessCompletion k t seq) s) (fun u => u.mem = s.mem ∧ (u.thread k t).entry? seq = none ∧ RegsKept s u))

/-- 09 R223; 15 R408: a cause of R223 that still stands holds the access: ACCESS_HELD marks the entry, parks its thread, and in user
mode records the cause for the core supervisor; REMOTE_TIMEOUT (47) comes when RTO ticks have passed without an answer. -/
def Obligations.AccessIsHeld : Prop :=
  ∀ (s : State) (k t seq cause : Nat) (e : AccEntry), (s.thread k t).entry? seq = some e → e.held = none →
    (cause ≠ 51 → e.arrived = false → e.done ≠ e.pieces.length → s.causeNow k e = some cause → (s.thread k t).mode = .user →
      Happens (exec (.accessHeld k t seq cause) s) (fun u => (u.thread k t).held = some cause ∧ u.mem = s.mem ∧
        (u.thread k t).s = (s.thread k t).s ∧ (u.thread k t).v = (s.thread k t).v ∧ (u.thread k t).pc = (s.thread k t).pc)) ∧
    ((s.cdie (dieOfCore k)).sync = true → s.rto.toNat ≤ 2 * (s.clock - e.since) → e.arrived = false → e.done ≠ e.pieces.length →
      (∀ p ∈ e.pieces, s.savedTarget k p.addr = false) → (e.form.isOrdered = true → e.key.isSome = true) → s.mustWait k t e.ord e.epoch e.slots e.isStore e.cover = false →
      HappensAs (exec (.remoteTimeout k t seq) s) (s.post (.accessHeld k t seq 47)))

/-- 09 R232, R233: a full/empty form parks its thread with its request sent to the word; once the word's bank has performed it the form
completes, LDF, LDFE and FEQRY with the word or the bit in the destination. In one bank cycle, LDF and LDFE wait for a full word and
read it, LDFE empties it, STFF writes and fills it, STEF waits for an empty word, writes and fills it, and FEQRY reads the bit. -/
def Obligations.FullEmptyForms : Prop :=
  (∀ (s : State) (d b : BitVec 6) (o : BitVec 13),
    (∀ x l, s.src.grant = some (x :: l) →
      (s.atHand [rn b] [rn d] → RetiresAs s (exec (.ldf d b o) s) (fun th => th.writeS d x) ∧
        RetiresAs s (exec (.ldfe d b o) s) (fun th => th.writeS d x) ∧ RetiresAs s (exec (.feqry d b) s) (fun th => th.writeS d x))) ∧
    (∀ l, s.src.grant = some l →
      (s.atHand [rn b, rn d] [] → RetiresAs s (exec (.stff d b o) s) id ∧ RetiresAs s (exec (.stef d b o) s) id) ∧
      (s.atHand [rn b] [] → RetiresAs s (exec (.feset b) s) id ∧ RetiresAs s (exec (.feclr b) s) id)) ∧
    (s.src.grant = none → s.src.accFull = false →
      let a := effAddr (s.rs b) o 8
      let asks := fun (r : Host.Outcome State Fault Refusal) (a : Word) =>
        Parks r (.feWord a) (fun t => t.mem = s.mem ∧ t.th.s = s.th.s ∧ t.th.acc.length = s.th.acc.length + 1)
      (s.atHand [rn b] [rn d] → feRegion 9 a = none → s.issueCheck .load 9 true a 8 none = none → formatBad a = false →
        asks (exec (.ldf d b o) s) a ∧ asks (exec (.ldfe d b o) s) a) ∧
      (s.atHand [rn b, rn d] [] → feRegion 10 a = none → s.issueCheck .store 10 true a 8 none = none → formatBad a = false →
        asks (exec (.stff d b o) s) a ∧ asks (exec (.stef d b o) s) a) ∧
      (s.atHand [rn b] [rn d] → feRegion 9 (s.rs b) = none → s.issueCheck .load 9 true (s.rs b) 8 none = none →
        formatBad (s.rs b) = false → asks (exec (.feqry d b) s) (s.rs b)) ∧
      (s.atHand [rn b] [] → feRegion 10 (s.rs b) = none → s.issueCheck .store 10 true (s.rs b) 8 none = none →
        formatBad (s.rs b) = false → asks (exec (.feset b) s) (s.rs b) ∧ asks (exec (.feclr b) s) (s.rs b)))) ∧
  (∀ (s : State) (fn : BitVec 7) (me k off : Nat) (x : Word),
    let p := ownKey
    let w := off / 8
    let a := physScratch p k off
    (((s.core k).isFull w = false → s.feDo 0x3A fn me p k off x = none ∧ s.feDo 0x3B fn me p k off x = none) ∧
     ((s.core k).isFull w = true → s.feDo 0x3A fn me p k off x = some (s, [s.rdw a]) ∧ s.feDo 0x3D fn me p k off x = none) ∧
     ((s.core k).isFull w = true → ∃ u, s.feDo 0x3B fn me p k off x = some (u, [s.rdw a]) ∧ (u.core k).isFull w = false ∧ u.mem = s.mem) ∧
     (∃ u, s.feDo 0x3C fn me p k off x = some (u, []) ∧ (u.core k).isFull w = true ∧ u.rdw a = x ∧ MemoryKeptBut s u a 8) ∧
     ((s.core k).isFull w = false → ∃ u, s.feDo 0x3D fn me p k off x = some (u, []) ∧ (u.core k).isFull w = true ∧ u.rdw a = x ∧
       MemoryKeptBut s u a 8) ∧
     s.feDo 0x3E 0 me p k off x = some (s, [if (s.core k).isFull w then 1 else 0])))

/-- 09 R235 to R237, R239: AMO, RUPD and CAS complete at issue when their address passes the checks and the retry latch is empty: the
bundle retires, the latch takes the operation, its address and its operands, the destination is pending, and no register and no byte
of memory changes yet; the agent then performs the latched operation and answers it (`AtomicIsPerformed`). With the latch taken they
park. -/
def Obligations.AtomicsIssue : Prop :=
  ∀ (s : State) (d a b : BitVec 6) (ord dbl : Bool) (op : AmoOp),
    let issues := fun (i : Instr) (code : BitVec 7) (size : Nat) (m : BitVec 6) (x y : BitVec 128) (writes : List RegName) =>
      ∃ t, exec i s = .next t ∧ t.cur.verdict = .retired ∧ Frame s t s.th s.own ∧ t.th.pc = s.src.pc + 8 ∧ t.th.acc = s.th.acc ∧
        (∀ r ∈ writes, r ≠ .s 0 → bankName s.th.mode r ∈ t.th.pend) ∧
        ∃ l, t.th.latch = some l ∧ l.op = code ∧ l.addr = s.rs a ∧ l.size = size ∧ l.d = m ∧ l.operand = x ∧ l.expected = y ∧
          l.answer = none ∧ l.cause = none ∧ l.sent = false
    (s.src.latch = none →
      (s.issueCheck .atomic 10 true (s.rs a) (if dbl then 8 else 4) none = none →
        (s.atHand [rn a, rn b] [rn d] →
          issues (.amo d a b ord dbl op) 0x40 (if dbl then 8 else 4) d ((s.rs b).setWidth 128) 0 [rn d]) ∧
        (s.atHand [rn a, rn b] [] →
          issues (.rupd a b ord dbl op) 0x42 (if dbl then 8 else 4) 0 ((s.rs b).setWidth 128) 0 []) ∧
        (s.atHand [rn a, rn b, rn d] [rn d] →
          issues (.cas d a b ord (if dbl then .d else .w)) 0x41 (if dbl then 8 else 4) d ((s.rs b).setWidth 128)
            ((s.rs d).setWidth 128) [rn d])) ∧
      (s.atHand [rn a, rn b, rnNext b, rn d, rnNext d] [rn d, rnNext d] → s.issueCheck .atomic 10 true (s.rs a) 16 none = none →
        issues (.cas d a b ord .q) 0x41 16 d (BitVec.ofNat 128 ((s.rs b).toNat + (s.rs (b + 1)).toNat * 2 ^ 64))
          (BitVec.ofNat 128 ((s.rs d).toNat + (s.rs (d + 1)).toNat * 2 ^ 64)) [rn d, rnNext d])) ∧
    (s.src.latch ≠ none → s.issueCheck .atomic 10 true (s.rs a) (if dbl then 8 else 4) none = none →
      (s.atHand [rn a, rn b] [rn d] → ParksOn s (exec (.amo d a b ord dbl op) s) .latchBusy) ∧
      (s.atHand [rn a, rn b] [] → ParksOn s (exec (.rupd a b ord dbl op) s) .latchBusy) ∧
      (s.atHand [rn a, rn b, rn d] [rn d] → ParksOn s (exec (.cas d a b ord (if dbl then .d else .w)) s) .latchBusy))

/-- 09 R235 to R237, R240: NEAR_MEMORY_ATOMIC performs the latched atomic in one step: the word becomes the operation's result, no other
byte of memory changes, and the old word is the answer; ATOMIC_ANSWER writes it to the destination and clears the latch. -/
def Obligations.AtomicIsPerformed : Prop :=
  ∀ (s : State) (k t : Nat) (l : Latch), (s.thread k t).latch = some l → l.cause = none →
    (∀ p, l.answer = none → s.latchOrdered k l = false → s.mustWait k t l.ord l.epoch l.slots true l.cover = false →
      s.waitsOutside k l.addr = false → s.placeN k l.mode .atomic l.addr l.size = .ok p →
      Happens (exec (.nearMemoryAtomic k t) s) (fun u => u.rd p l.size = l.newWord (s.rd p l.size) % 2 ^ (8 * l.size) ∧
        MemoryKeptBut s u p l.size ∧ (u.thread k t).s = (s.thread k t).s ∧
        ∃ m, (u.thread k t).latch = some m ∧ m.answer = some (BitVec.ofNat 128 (s.rd p l.size)))) ∧
    (∀ x, l.answer = some x → Happens (exec (.atomicAnswer k t) s) (fun u => (u.thread k t).latch = none ∧ u.mem = s.mem ∧
      (l.op = 0x40 → l.size = 8 → l.d ≠ 0 → l.mode = (s.thread k t).mode → (u.thread k t).readS l.d = x.setWidth 64) ∧
      (l.op = 0x40 → l.size = 4 → l.d ≠ 0 → l.mode = (s.thread k t).mode →
        (u.thread k t).readS l.d = (x.setWidth 32).signExtend 64) ∧
      (l.op = 0x42 → (u.thread k t).s = (s.thread k t).s)))

/-- 09 R228, R241, R243 to R245, R248, R249: FENCE, RTDESC with its descriptor at hand, CLEAN, PREF, MSGAPP and MSGTAKE with its message
at hand complete with what the rules give each, and change no other register and no byte of memory: FENCE turns the epoch and holds
what its kind, mask and scope say; RTDESC sets its slot to the descriptor's footprint; CLEAN sends its range; MSGAPP sends its words
to the inbox that its address names; MSGTAKE has the message's words in its registers. RTDESC first reads its descriptor, and
MSGTAKE joins the inbox's list. -/
def Obligations.OrderAndMessageForms : Prop :=
  ∀ (s : State) (d a b : BitVec 6),
    (∀ m e kind, s.atHand [rn a, rn b] [] → (s.rs b).toNat < 2 ^ 16 → s.scopeBad (s.ctxOfCore s.cur.core) (s.rs a) = false →
      (∀ f, s.src.fence = some f → s.fenceWaits s.cur.core s.cur.thr f = false) →
      ∃ t, exec (.fence a b m e kind) s = .next t ∧ t.cur.verdict = .retired ∧ Frame s t s.th s.own ∧ t.th.pc = s.src.pc + 8 ∧
        t.th.epoch = s.th.epoch + 1 ∧
        ∃ f, t.th.fence = some f ∧ f.kind = kind ∧ f.mask = (s.rs b).setWidth 16 ∧ f.scope = s.rs a ∧ f.epoch = s.th.epoch) ∧
    (s.atHand [rn a] [] → TrapsWith s (exec (.rtdesc a 0) s) 3 0 s.cur.bundle) ∧
    (∀ n l, n ≠ 0 → s.atHand [rn a] [] → s.src.grant = some l → descValid (s.rs a) (l.take 8) = true →
      RetiresAs s (exec (.rtdesc a n) s) (fun th => th.setRange n
        { used := true, desc := some (s.rs a), base := 0, limit := 0, cover := (Desc.ofWords l).footprint })) ∧
    (∀ n, n ≠ 0 → s.atHand [rn a] [] → s.src.grant = none → s.slotBusy n.toNat = false → s.issueCheck .load 9 false (s.rs a) 64 none = none →
      s.src.accFull = false → Parks (exec (.rtdesc a n) s) .descriptor (fun t => t.mem = s.mem ∧ t.th.s = s.th.s ∧
        ∃ e, t.th.acc = s.th.acc ++ [e] ∧ e.form = .read ∧ e.pieces = piecesOf (s.rs a) 64)) ∧
    (∀ inv, s.atHand [rn a, rn b] [] →
      ((s.rs b).toNat ≤ (s.rs a).toNat ∨ formatBad (s.rs a) = false ∧ formatBad (s.rs b - 1) = false) → s.src.accFull = false →
      Retires (exec (.clean a b inv) s) (fun t => ∃ e, Issued s t e (.accessCompletion s.cur.core (s.cur.thr % 8) e.seq.toNat) ∧
        e.form = .clean inv ∧ e.addr = s.rs a ∧
        e.pieces = [{ addr := s.rs a, size := (s.rs b).toNat - (s.rs a).toNat, off := 0 }])) ∧
    (∀ hint o, s.atHand [rn b] [] →
      ∃ t, exec (.pref hint b o) s = .next t ∧ t.cur.verdict = .retired ∧ Frame s t s.th s.own ∧ t.th.pc = s.src.pc + 8 ∧
        t.th.acc = s.th.acc) ∧
    (∀ (ord : Bool) (n : BitVec 3) (target : Nat),
      let regs := (List.range (n.toNat + 1)).map (fun j => BitVec.ofNat 6 (d.toNat + j))
      s.atHand (rn a :: regs.map rn) [] → s.msgDest (s.rs a) = some target → s.src.msgs < 4 → s.src.accFull = false →
      ∃ t, exec (.msgapp d a ord n) s = .next t ∧ t.cur.verdict = .retired ∧ Frame s t s.th s.own ∧ t.th.pc = s.src.pc + 8 ∧
        t.th.msgs = s.th.msgs + 1 ∧
        ∃ e, t.th.acc = s.th.acc ++ [e] ∧ e.form = .msg target (regs.map s.rs) (ord || s.detAt s.cur.core)) ∧
    (∀ (n : BitVec 3) (l : List Word), d.toNat + n.toNat ≤ 63 → s.src.grant = some l →
      s.atHand [] ((List.range (n.toNat + 1)).map (fun j => rn (BitVec.ofNat 6 (d.toNat + j)))) →
      ∃ t, exec (.msgtake d n) s = .next t ∧ t.cur.verdict = .retired ∧ t.mem = s.mem ∧ t.th.pc = s.src.pc + 8 ∧ t.th.v = s.th.v ∧
        (∀ j, j ≤ n.toNat → d.toNat + j ≠ 0 → t.th.readS (BitVec.ofNat 6 (d.toNat + j)) = l.getD j 0) ∧
        (∀ r : BitVec 6, r.toNat < d.toNat ∨ d.toNat + n.toNat < r.toNat → t.th.readS r = s.th.readS r)) ∧
    (∀ n : BitVec 3, s.atHand [] ((List.range (n.toNat + 1)).map (fun j => rn (BitVec.ofNat 6 (d.toNat + j)))) → s.src.grant = none →
      Parks (exec (.msgtake d n) s) .inbox (fun t => t.mem = s.mem))

/-- 09 R241, R242: MSG_PLACE of a plain message that may be sent, to an inbox with a free entry that has not refused its thread, places
it whole, unless a parked MSGTAKE has taken a message by then; a full inbox lists its sender, MSG_CALLBACK lets it send again when
an entry is free, and a sender its list had no room for tries again after 512 cycles. No register and no byte of memory changes. -/
def Obligations.MessagesArrive : Prop :=
  (∀ (s : State) (core thr : Nat) (e : AccEntry) (k : Nat) (w : List Word),
    ((s.thread core thr).unsentMsgs.find? (fun x => s.maySend core thr x.1 x.2.1) = some (e, k, w) → (s.core k).refused core thr = false →
      ((s.core k).inbox.length < 64 → (s.core k).boxWait = [] →
        Happens (exec (.msgPlace core thr) s) (fun u => (u.core k).inbox = (s.core k).inbox ++
          [{ words := w, core := core, thr := thr % 8, seq := e.seq, ctx := (s.core core).owner }] ∧ u.mem = s.mem ∧ RegsKept s u)) ∧
      (64 ≤ (s.core k).inbox.length → (s.core k).refuse.length < 64 →
        Happens (exec (.msgPlace core thr) s) (fun u => (u.core k).inbox = (s.core k).inbox ∧ u.mem = s.mem ∧
          (u.core k).refuse = (s.core k).refuse ++ [(core, thr % 8)] ∧ RegsKept s u))) ∧
    ((s.thread core thr).acc.find? (fun e => e.arrived && e.plainTo?.any (fun k => !((s.core k).refused core thr))) = some e →
      e.since + 512 ≤ s.clock → Happens (exec (.msgRetry core thr) s) (fun u => u.mem = s.mem ∧ RegsKept s u ∧
        u.awaits (.msgPlace core thr)))) ∧
  (∀ (s : State) c j t r, (s.core c).refuse = (j, t) :: r → (s.core c).inbox.length < 64 → (s.core c).boxWait = [] →
    Happens (exec (.msgCallback c) s) (fun u => (u.core c).refuse = r ∧ (u.core c).inbox = (s.core c).inbox ∧ u.mem = s.mem ∧
      u.awaits (.msgPlace j t)))

/-! ### Vector forms (05, 06) -/

/-- 06 R130, R133: on every integer type the element-wise forms write the rule's integer, modulo the element width, where the mask has
the element, and keep the element elsewhere; no flag is raised and nothing else changes. -/
def Obligations.IntegerVectorFormsByElement : Prop :=
  ∀ (s : State) (vd va vb : BitVec 5) (q : BitVec 3) (ty : ElemType) (v : BitVec 4), ty.isInt = true →
    let w := elemBits ty
    (∀ p ∈ vecIntTable, s.atHand [rnv va, rnv vb, rnq q] [rnv vd] →
      ∃ y, RetiresAs s (exec (p.1 vd va vb q ty v) s) (fun th => th.writeV vd y) ∧
        ElementsAre ty (s.rq q) (s.rv vd) y (fun i => p.2 w v.toNat (elemAt w (s.rv va) i) (elemAt w (s.rv vb) i))) ∧
    (∀ p ∈ vecPlainTable, s.atHand [rnv va, rnv vb, rnq q] [rnv vd] →
      ∃ y, RetiresAs s (exec (p.1 vd va vb q ty) s) (fun th => th.writeV vd y) ∧
        ElementsAre ty (s.rq q) (s.rv vd) y (fun i => p.2 w (elemAt w (s.rv va) i) (elemAt w (s.rv vb) i) (elemAt w (s.rv vd) i))) ∧
    (∀ p ∈ vecUnaryTable, s.atHand [rnv va, rnq q] [rnv vd] →
      ∃ y, RetiresAs s (exec (p.1 vd va q ty v) s) (fun th => th.writeV vd y) ∧
        ElementsAre ty (s.rq q) (s.rv vd) y (fun i => p.2 w v.toNat (elemAt w (s.rv va) i)))

/-- 05 R126; 06 R130, R134: with no flag enabled in FPM a floating form completes, its inactive elements kept and its flags added to FPF;
with one enabled it completes so with no enabled flag raised, or takes FP_TRAP. -/
def Obligations.FloatVectorFormsRetireOrTrap : Prop :=
  ∀ (s : State) (vd va vb : BitVec 5) (q : BitVec 3) (ty : ElemType), ty.isInt = false →
    (s.atHand [rnv va, rnv vb, rnq q] [rnv vd] →
      (∀ f ∈ vecFloatTable, FloatOutcome s (exec (f vd va vb q ty 0) s) vd (s.rq q) ty) ∧
      FloatOutcome s (exec (.vfma vd va vb q ty) s) vd (s.rq q) ty ∧
      FloatOutcome s (exec (.vscale vd va vb q ty) s) vd (s.rq q) ty) ∧
    (s.atHand [rnv va, rnq q] [rnv vd] →
      FloatOutcome s (exec (.vabs vd va q ty 0) s) vd (s.rq q) ty ∧ FloatOutcome s (exec (.vneg vd va q ty 0) s) vd (s.rq q) ty ∧
      FloatOutcome s (exec (.vsqrt vd va q ty) s) vd (s.rq q) ty)

/-- 05 R118; 06 R134: a NaN operand of an addition, a multiplication, a division, a square root or a fused multiply-add gives the
format's canonical NaN, whatever the other operands and the mode. -/
def Obligations.NanOperandsGiveTheCanonicalNan : Prop :=
  ∀ (f : FFmt) (ftz : Bool) (rm : Round) (a b c : FNum), a.isNan = true →
    (f.add ftz rm a b).bits = f.canonNan ∧ (f.add ftz rm b a).bits = f.canonNan ∧
    (f.mul ftz rm a b).bits = f.canonNan ∧ (f.mul ftz rm b a).bits = f.canonNan ∧
    (f.div ftz rm a b).bits = f.canonNan ∧ (f.div ftz rm b a).bits = f.canonNan ∧
    (f.sqrt ftz rm a).bits = f.canonNan ∧ (f.fma ftz rm a b c).bits = f.canonNan ∧ (f.fma ftz rm b a c).bits = f.canonNan ∧
    (f.fma ftz rm b c a).bits = f.canonNan

/-- 06 R130, R136, R137: the forms that move elements: VSEL chooses by the mask, VMOV, VBCS, VPERM and VIOTA write where the mask has
the element and keep it elsewhere, and VEXT writes one element, extended, or 0 for an inactive one. -/
def Obligations.VectorMovesByElement : Prop :=
  ∀ (s : State) (vd va vb sb : BitVec 5) (q : BitVec 3) (ty : ElemType),
    let w := elemBits ty
    (s.atHand [rnv va, rnv vb, rnq q] [rnv vd] →
      (∃ y, RetiresAs s (exec (.vsel vd va vb q ty) s) (fun th => th.writeV vd y) ∧
        ElementsAre ty (s.rq q) (s.rv vb) y (fun i => elemAt w (s.rv va) i)) ∧
      (∃ y, RetiresAs s (exec (.vperm vd va vb q ty) s) (fun th => th.writeV vd y) ∧
        ElementsAre ty (s.rq q) (s.rv vd) y (fun i => elemAt w (s.rv va) (elemAt w (s.rv vb) i % elemCount ty)))) ∧
    (s.atHand [rnv va, rnq q] [rnv vd] →
      ∃ y, RetiresAs s (exec (.vmov vd va q ty) s) (fun th => th.writeV vd y) ∧
        ElementsAre ty (s.rq q) (s.rv vd) y (fun i => elemAt w (s.rv va) i)) ∧
    (s.atHand [.s sb.toNat, rnq q] [rnv vd] →
      ∃ y, RetiresAs s (exec (.vbcs vd sb q ty) s) (fun th => th.writeV vd y) ∧
        ElementsAre ty (s.rq q) (s.rv vd) y (fun _ => (s.rs (sb.setWidth 6)).toNat)) ∧
    (s.atHand [rnq q] [rnv vd] →
      ∃ y, RetiresAs s (exec (.viota vd q ty) s) (fun th => th.writeV vd y) ∧
        ElementsAre ty (s.rq q) (s.rv vd) y (fun i => ((List.range i).filter (fun j => activeElem (s.rq q) ty j)).length)) ∧
    (∀ v : BitVec 4, s.atHand [rnv va, .s sb.toNat, rnq q] [.s vd.toNat] →
      let k := (s.rs (sb.setWidth 6)).toNat % elemCount ty
      RetiresAs s (exec (.vext vd va sb q ty v) s) (fun th => th.writeS (vd.setWidth 6)
        (if activeElem (s.rq q) ty k then
          (if v = 0 then BitVec.ofInt 64 (signedElem w (elemAt w (s.rv va) k)) else BitVec.ofNat 64 (elemAt w (s.rv va) k)) else 0)))

/-- 05 R126; 06 R135, R141: VCMP and VRED complete. VCMP writes every bit of its mask, set in all the byte bits of an active element for
which the condition holds, and raises NV where R135 says. VRED writes the result of its variant over the active elements to element 0
and zero to every other one: for an integer type the sum modulo the width, the bitwise combination, or the smallest or largest
element, and for a floating type the value at the root of R141's tree, with the flags of its operations. With no enabled flag among
those raised they retire; with one they take FP_TRAP (35), its KVAL the flags and the lowest element that raised one. -/
def Obligations.CompareAndReduce : Prop :=
  ∀ (s : State) (vd va vb : BitVec 5) (qd q : BitVec 3) (ty : ElemType) (v : BitVec 4),
    let w := elemBits ty
    let fmt := fmtOfElem ty
    let fpm := s.src.fpm
    let active := fun i => activeElem (s.rq q) ty i
    (okCmp ty v = true → s.atHand [rnv va, rnv vb, rnq q] [rnq qd] →
      let a := fun i => elemAt w (s.rv va) i
      let b := fun i => elemAt w (s.rv vb) i
      let holds := fun i => active i && if ty.isInt then intCompare w v.toNat (a i) (b i) else
        floatCompare v.toNat (fmt.readDaz (fpmDaz fpm) (a i)) (fmt.readDaz (fpmDaz fpm) (b i))
      let invalid := fun i => active i && !ty.isInt &&
        compareInvalid v.toNat (fmt.readDaz (fpmDaz fpm) (a i)) (fmt.readDaz (fpmDaz fpm) (b i))
      (((List.range (elemCount ty)).any invalid = false ∨ (fpmEn fpm).getLsbD 0 = false) →
        ∃ m : Mask, RetiresAs s (exec (.vcmp qd va vb q ty v) s) (fun th => { (th.writeQ qd m) with
            fpf := th.fpf ||| if (List.range (elemCount ty)).any invalid then 1 else 0 }) ∧
          ∀ j, j < 128 → m.getLsbD j = holds (j / elemSize ty)) ∧
      (∀ i, (List.range (elemCount ty)).find? invalid = some i → (fpmEn fpm).getLsbD 0 = true →
        TrapsWith s (exec (.vcmp qd va vb q ty v) s) 35 1 (BitVec.ofNat 64 (1 + i * 2 ^ 8)))) ∧
    (okRed ty v = true → s.atHand [rnv va, rnq q] [rnv vd] →
      let elems := ((List.range (elemCount ty)).filter active).map (fun i => elemAt w (s.rv va) i)
      (ty.isInt = true → ∃ y, RetiresAs s (exec (.vred vd va q ty v) s) (fun th => th.writeV vd y) ∧
        IntReduces w v.toNat elems (elemAt w y 0) ∧ ∀ i, 0 < i → i < elemCount ty → elemAt w y i = 0) ∧
      (ty.isInt = false →
        let r := floatReduce fmt fpm v.toNat (Nat.log2 (elemCount ty)) (fun i =>
          if active i then some (floatLeaf fmt (fpmDaz fpm) (elemAt w (s.rv va) i)) else none)
        (r.fl &&& fpmEn fpm = 0 → ∃ y, RetiresVector s (exec (.vred vd va q ty v) s) vd y r.fl ∧
          elemAt w y 0 = r.bits % 2 ^ w ∧ ∀ i, 0 < i → i < elemCount ty → elemAt w y i = 0) ∧
        (r.fl &&& fpmEn fpm ≠ 0 → TrapsWith s (exec (.vred vd va q ty v) s) 35 1 (BitVec.ofNat 64 r.fl.toNat))))

/-- 02 R35; 05 R124; 06 R140: VCVT into or out of a block format under a mask other than q0 raises RESERVED_FIELD (3); otherwise, with
no flag enabled, it retires, and SRSEQ advances by one under stochastic rounding and else stays. -/
def Obligations.ConversionsRetire : Prop :=
  ∀ (s : State) (vd va : BitVec 5) (fmt : BitVec 5) (q : BitVec 3) (ty : ElemType) (v : BitVec 4), s.atHand [rnv va, rnq q] [rnv vd] →
    (isBlockCode fmt.toNat = true → q ≠ 0 → TrapsWith s (exec (.vcvt vd va fmt q ty v) s) 3 1 s.cur.bundle) ∧
    ((isBlockCode fmt.toNat = false ∨ q = 0) → fpmEn s.src.fpm = 0 →
      ∃ y fl, RetiresAs s (exec (.vcvt vd va fmt q ty v) s) (fun th => { (th.writeV vd y) with
        fpf := th.fpf ||| BitVec.setWidth 64 (fl : BitVec 5), srseq := if v.toNat % 8 = 4 then th.srseq + 1 else th.srseq }))

/-- 06 R142, R143, R145, R147, R148: VPOP completes on a reading stream with a record left: it takes the record at its head, the
active elements of its destination written with the record's where it has arrived, and else pending until it does; VPUSH completes on a writing stream with a free entry:
it adds a record; both raise STREAM_UNBOUND (21) on a stream of the other kind. SFR with every flag masked completes at issue: its
request goes to the cluster's unit, its destination pending; with a flag enabled it parks until its results have come, and then
completes where none of them raises an enabled flag. It raises SFU_UNAVAILABLE (57) when both units are out of service. -/
def Obligations.StreamAndSpecialFunctionForms : Prop :=
  ∀ (s : State) (vd va : BitVec 5) (n q : BitVec 3) (ty : ElemType) (v : BitVec 4),
    (s.atHand [rnq q] [rnv vd] → (s.src.stream n).bound = true → (s.src.stream n).writing = false →
      (s.src.stream n).hasRecord (s.src.stream n).head = true → s.own.mmasOn s.cur.thr n = false →
      Retires (exec (.vpop vd n q ty) s) (fun t => (t.th.stream n).head = (s.src.stream n).head + 1 ∧ t.mem = s.mem ∧
        t.th.pc = s.src.pc + 8 ∧ t.th.s = s.th.s ∧ (∀ x : BitVec 5, x ≠ vd → (∀ p ∈ (s.src.stream n).pops, p.vd ≠ x.toNat) →
          t.th.readV x = s.th.readV x) ∧
        (∀ r, (s.src.stream n).record? (s.src.stream n).head = some r → r.arrived = true →
          (∀ p ∈ (s.src.stream n).pops, p.record ≠ (s.src.stream n).head) →
          rnv vd ∉ t.th.pend ∧ ∀ j, j < 128 → elemAt 8 (t.th.readV vd) j =
            if activeElem (s.rq q) ty (j / elemSize ty) then elemAt 8 r.data j else elemAt 8 (s.th.readV vd) j) ∧
        (((s.src.stream n).record? (s.src.stream n).head).all (fun r => !r.arrived) = true →
          rnv vd ∈ t.th.pend ∧ t.th.readV vd = s.th.readV vd ∧
          ∃ p ∈ (t.th.stream n).pops, p.vd = vd.toNat ∧ p.record = (s.src.stream n).head ∧ p.mask = elemMask (s.rq q) ty))) ∧
    (s.atHand [rnq q] [rnv vd] → ((s.src.stream n).bound = false ∨ (s.src.stream n).writing = true) →
      ∃ x, TrapsWith s (exec (.vpop vd n q ty) s) 21 1 x) ∧
    (s.atHand [rnv va, rnq q] [] → (s.src.stream n).bound = true → (s.src.stream n).writing = true →
      (s.src.stream n).hasRecord (s.src.stream n).head = true → (s.src.stream n).recs.length < 4 →
      Retires (exec (.vpush n va q ty) s) (fun t => (t.th.stream n) = (s.src.stream n).append (s.rv va) (elemMask (s.rq q) ty) s.th.epoch ∧
        t.th.pc = s.src.pc + 8 ∧ Frame s t s.th s.own)) ∧
    (s.atHand [rnv va, rnq q] [] → ((s.src.stream n).bound = false ∨ (s.src.stream n).writing = false) →
      ∃ x, TrapsWith s (exec (.vpush n va q ty) s) 21 1 x) ∧
    (s.atHand [rnv va, rnq q] [rnv vd] →
      (s.src.sfr.find? (fun r => r.holds) = none →
        ((s.cluster (clusterOfCore s.cur.core)).noUnit = true →
          TrapsWith s (exec (.sfr vd va q ty v) s) 57 1 (BitVec.ofNat 64 (dieOfCore s.cur.core + clusterInDie s.cur.core * 2 ^ 7))) ∧
        ((s.cluster (clusterOfCore s.cur.core)).noUnit = false → s.src.sfr.length < 4 →
          (fpmEn s.src.fpm = 0 →
            Retires (exec (.sfr vd va q ty v) s) (fun t => rnv vd ∈ t.th.pend ∧ t.th.pc = s.src.pc + 8 ∧ Frame s t s.th s.own ∧
              t.th.sfr.length = s.th.sfr.length + 1)) ∧
          (fpmEn s.src.fpm ≠ 0 → Parks (exec (.sfr vd va q ty v) s) .sfrResult (fun t => t.mem = s.mem ∧
            t.th.sfr.length = s.th.sfr.length + 1)))) ∧
      (∀ r, s.src.sfr.find? (fun r => r.holds) = some r → r.back = true → orFlags (r.results (s.rv vd)) &&& fpmEn r.fpm = 0 →
        Retires (exec (.sfr vd va q ty v) s) (fun t => t.th.readV vd = vecOf r.ty (r.results (s.rv vd)) ∧ t.th.pc = s.src.pc + 8 ∧
          t.th.fpf = s.th.fpf ||| (orFlags (r.results (s.rv vd))).setWidth 64 ∧ t.th.s = s.th.s ∧ t.mem = s.mem)))

/-! ### Matrix forms and engine commands (07, 10) -/

/-- 07 R161, R166, R168, R170, R171, R174: a matrix form whose shapes pass its checks completes when the matrix queue has room: it joins
the queue, changes no register and no byte of memory, and waits when the queue has none; a shape that fails raises the cause of its
first failing check. MMAG arrives at its gang barrier, and completes once every member of its gang has arrived. -/
def Obligations.MatrixFormsAreQueued : Prop :=
  ∀ (s : State) (e : EngCmd) (d a b : BitVec 5) (w : BitVec 3) (f : MFlags) (four : Bool),
    (∀ (i : Instr) (slot : Nat) (check : Option (Nat × Word)), (i, slot, check) ∈
        [(Instr.mma d a b f, 1, checkMma s.own (matSpec (.mma d a b f))), (.mmal e d a b f, 2, checkMma s.own (matSpec (.mmal e d a b f))),
         (.mmas d a b w f, 1, checkMmas s.own s.src (matSpec (.mmas d a b w f)) w),
         (.mmaw d a b f, 1, checkMmaw s.own s.src (matSpec (.mmaw d a b f)))] →
      (check = none → s.own.mqFull = false → Retires (exec i s) (fun t => t.th.pc = s.src.pc + 8 ∧ Frame s t s.th s.own ∧
        t.own.mseq = s.own.mseq + 1 ∧ (∃ o, t.own.mq = s.own.mq ++ [o] ∧ o.instr = i ∧ o.thr = s.cur.thr % 8 ∧ o.started = false) ∧
        t.awaits (.matrixOpStart s.cur.core))) ∧
      (check = none → s.own.mqFull = true → ParksOn s (exec i s) .queueFull) ∧
      (∀ c v, check = some (c, v) → exec i s = .next (((s.logTrap c v).trapEntry s.cur.core s.cur.thr c slot v s.src.pc).verdict .trapped))) ∧
    (s.src.grantB = true → RetiresAs s (exec (.mmag d a b four f) s) id) ∧
    (s.src.grantB = false → checkMmag s.own (gangLeader s.cur.core four == s.cur.core) (matSpec (.mmag d a b four f)) = none →
      (s.own.mqFull = false → Parks (exec (.mmag d a b four f) s) .gang (fun t => t.mem = s.mem ∧
        ∃ g, t.own.gang = s.own.gang ++ [g] ∧ g.thr = s.cur.thr % 8 ∧ g.seen = false)) ∧
      (s.own.mqFull = true → ParksOn s (exec (.mmag d a b four f) s) .queueFull))

/-- 07 R163, R175: TZERO, TROWV and TVROW complete when no operation has their tile: TZERO clears it, TROWV writes the bytes of a row
that its mask has, TVROW reads them; every other byte of the tiles, every other register and all memory stand as they stood. A tile
that an operation will write holds all three, and one that it only reads holds the two that write. -/
def Obligations.TileForms : Prop :=
  ∀ (s : State) (d va sb : BitVec 5) (q : BitVec 3),
    let r := (s.rs (rowReg sb)).toNat % 32
    let others := fun (t : State) (c : Core) => t.th.pc = s.src.pc + 8 ∧ Frame s t s.th c
    (s.own.isW d.toNat = false → s.own.isBusy s.cur.core d.toNat = false →
      Retires (exec (.tzero d) s) (fun t => others t { s.own with tiles := t.own.tiles } ∧
        ∀ n i, n < 32 → i < 32 → t.own.tileRow n i = if n = d.toNat then 0 else s.own.tileRow n i) ∧
      (s.atHand [rnv va, rn (rowReg sb), rnq q] [] →
        Retires (exec (.trowv d va sb q) s) (fun t => others t { s.own with tiles := t.own.tiles } ∧
          (∀ n i, n < 32 → i < 32 → (n ≠ d.toNat ∨ i ≠ r) → t.own.tileRow n i = s.own.tileRow n i) ∧ ∀ j, j < 128 →
          t.own.tileRow d.toNat r / 2 ^ (8 * j) % 2 ^ 8 =
            (if (s.rq q).getLsbD j then elemAt 8 (s.rv va) j else s.own.tileRow d.toNat r / 2 ^ (8 * j) % 2 ^ 8)))) ∧
    (s.own.isW d.toNat = false → s.atHand [rn (rowReg sb), rnq q] [rnv va] →
      (s.own.poison.contains (.tileRow d.toNat r) = false →
        Retires (exec (.tvrow va d sb q) s) (fun t => t.th.pc = s.src.pc + 8 ∧ Frame s t (s.th.writeV va (t.th.readV va)) s.own ∧
          ∀ j, j < 128 → elemAt 8 (t.th.readV va) j =
            (if (s.rq q).getLsbD j then s.own.tileRow d.toNat r / 2 ^ (8 * j) % 2 ^ 8 else elemAt 8 (s.rv va) j))) ∧
      (s.own.poison.contains (.tileRow d.toNat r) = true → let v := BitVec.ofNat 64 (d.toNat + r * 2 ^ 5)
        exec (.tvrow va d sb q) s =
          .next (((s.logTrap 50 v).trapEntry s.cur.core s.cur.thr 50 1 v s.src.pc).verdict .trapped))) ∧
    (s.own.isW d.toNat = true → s.own.rowGranted s.cur.thr d.toNat r = false →
      ParksOn s (exec (.tzero d) s) .tileMark ∧
      (s.atHand [rnv va, rn (rowReg sb), rnq q] [rnv va] →
        ParksOn s (exec (.trowv d va sb q) s) .tileMark ∧ ParksOn s (exec (.tvrow va d sb q) s) .tileMark)) ∧
    (s.own.isBusy s.cur.core d.toNat = true → ParksOn s (exec (.tzero d) s) .tileMark)

/-- 07 R176, R178, R179: DRNWAIT with a row granted completes with its descriptor in the destination, and without one parks; DRNPUT of
the row its thread holds completes: the row is released, and with bit 35 it first goes into the write buffer of its stream. Neither
writes a byte of memory, and DRNPUT writes no register. A DRNPUT without a row, or with another descriptor, traps with
ILLEGAL_INSTRUCTION (3). -/
def Obligations.DrainForms : Prop :=
  ∀ (s : State) (d a : BitVec 6),
    (∀ x l, s.src.grant = some (x :: l) → s.atHand [] [rn d] → RetiresAs s (exec (.drnwait d) s) (fun th => th.writeS d x)) ∧
    (s.src.grant = none → s.own.granted? s.cur.thr = none → s.atHand [] [rn d] →
      Parks (exec (.drnwait d) s) .drain (fun t => t.own.drnList = s.own.drnList ++ [s.cur.thr % 8] ∧ t.mem = s.mem)) ∧
    (s.atHand [rn a] [] →
      (∀ x r, s.was.granted? s.cur.thr = some (x, r) → bits (s.rs a) 0 32 = (rowDesc x r).toNat → bits (s.rs a) 36 28 = 0 →
        (bit (s.rs a) 35 = false →
          Retires (exec (.drnput a) s) (fun t => t.th.pc = s.src.pc + 8 ∧ Frame s t s.th s.own ∧
            (s.own.drains = s.was.drains → (∀ y ∈ s.own.drains, y ≠ x → ∀ z ∈ y.out, z.2 ≠ s.cur.thr % 8) →
              t.own.granted? s.cur.thr = none))) ∧
        (∀ n : BitVec 3, n = (s.rs a).extractLsb' 32 3 → bit (s.rs a) 35 = true →
          ((s.src.stream n).bound = true → (s.src.stream n).writing = true → (s.src.stream n).hasRecord (s.src.stream n).head = true →
            (s.own.poison.contains (.tileRow x.tile r) = true → let v := BitVec.ofNat 64 (x.tile + r * 2 ^ 5)
              exec (.drnput a) s = .next (((s.logTrap 50 v).trapEntry s.cur.core s.cur.thr 50 0 v s.src.pc).verdict .trapped)) ∧
            ((s.src.stream n).recs.length < 4 → s.own.poison.contains (.tileRow x.tile r) = false → Retires (exec (.drnput a) s) (fun t => t.th.pc = s.src.pc + 8 ∧ Frame s t s.th s.own ∧
              t.awaits (.streamDrain s.cur.core (s.cur.thr % 8) n.toNat) ∧
              ∃ y, (t.th.stream n).recs = (s.th.stream n).recs ++ [y] ∧ y.data = BitVec.ofNat 1024 (s.was.tileRow x.tile r))) ∧
            (4 ≤ (s.src.stream n).recs.length → s.own.poison.contains (.tileRow x.tile r) = false →
              ParksOn s (exec (.drnput a) s) .streamFull)))) ∧
      (∀ x r, s.was.granted? s.cur.thr = some (x, r) → bits (s.rs a) 0 32 ≠ (rowDesc x r).toNat →
        TrapsWith s (exec (.drnput a) s) 3 0 s.cur.bundle) ∧
      (s.was.granted? s.cur.thr = none → TrapsWith s (exec (.drnput a) s) 3 0 s.cur.bundle))

/-- 10 R250, R254, R261, R263, R264, R269, R270: CPY, CPYR, TLD, TLDW and TST complete when the queue of 16 has room: the command joins
it with its operands captured, and no register and no byte of memory changes; they wait when it is full. CBATCH completes: it closes
a batch and numbers the next. CWAIT completes once its batch is complete, and adds to its semaphore where its engine word says so;
it waits before, and raises BATCH_STALE (25) for a batch that is not among the last 32,768. -/
def Obligations.CopyCommandsAreQueued : Prop :=
  ∀ (s : State) (e : EngCmd) (a b c : BitVec 6) (t : BitVec 5) (op : RedOp) (tr pad ord int : Bool),
    let queued := fun (i : Instr) (vc : Word) =>
      (s.own.copies.length < 16 → Retires (exec i s) (fun u => u.th.pc = s.src.pc + 8 ∧ Frame s u s.th s.own ∧
        u.awaits (.copyCommandStart s.cur.core) ∧
        ∃ x, u.own.copies = s.own.copies ++ [x] ∧ x.instr = i ∧ x.va = s.rs a ∧ x.vb = s.rs b ∧ x.vc = vc ∧ x.state = 0 ∧
          x.batch = s.own.cnext.toNat)) ∧
      (16 ≤ s.own.copies.length → ParksOn s (exec i s) .queueFull)
    (s.atHand [rn a, rn b, rn c] [] →
      queued (.cpy e a b c tr pad) (s.rs c) ∧ queued (.cpyr e a b c op false ord int) (s.rs c) ∧
      (shapeTrap false (tileOf (s.rs b)) (s.own.shape (tileOf (s.rs b))) = none → queued (.cpyr e a b c op true ord int) (s.rs c)) ∧
      ((tileCheck t s).2 = none → queued (.tldw e a b c t) (s.rs c))) ∧
    (s.atHand [rn a, rn b] [] → (tileCheck t s).2 = none → queued (.tld e a b t tr pad) 0 ∧ queued (.tst e a b t tr) 0) ∧
    Retires (exec (.cbatch e) s) (fun u => u.own.batches = s.own.batches ++ [{ n := s.own.cnext, cmd := e }] ∧
      u.th.pc = s.src.pc + 8 ∧ Frame s u s.th { s.own with cnext := s.own.cnext + 1 }) ∧
    (s.atHand [rn a] [] →
      ((s.own.cnext - (s.rs a).setWidth 16).toNat ≠ 0 → (s.own.cnext - (s.rs a).setWidth 16).toNat ≤ 32768 →
        (s.own.batches.any (fun x => x.n == (s.rs a).setWidth 16) = false → s.own.waitMet e = true →
          (s.own.sem e.ssem).toNat + e.sinc.toNat ≤ 0xFFFF →
          Retires (exec (.cwait e a) s) (fun u => u.th.pc = s.src.pc + 8 ∧ u.mem = s.mem ∧ u.th.regs = s.th.regs) ∧
          (s.own.semWait = [] → s.own.signals = [] → Retires (exec (.cwait e a) s) (fun u => u.th.pc = s.src.pc + 8 ∧
            Frame s u s.th (s.own.setSem e.ssem (s.own.sem e.ssem + e.sinc.setWidth 16))))) ∧
        (s.own.batches.any (fun x => x.n == (s.rs a).setWidth 16) = true → ParksOn s (exec (.cwait e a) s) .batch)) ∧
      ((s.own.cnext - (s.rs a).setWidth 16).toNat = 0 ∨ 32768 < (s.own.cnext - (s.rs a).setWidth 16).toNat →
        TrapsWith s (exec (.cwait e a) s) 25 2
          (BitVec.ofNat 64 (((s.rs a).setWidth 16 : BitVec 16).toNat + s.own.cnext.toNat * 2 ^ 16))))

/-- 10 R265, R267, R268: SBIND completes on a stream that no operation uses: it binds it at record 0; SUNBIND completes: it unbinds the
stream, and its buffered records go on draining. Neither changes a register or a byte of memory. -/
def Obligations.StreamBinding : Prop :=
  ∀ (s : State) (e : EngCmd) (a b : BitVec 6) (n : BitVec 3) (wr : Bool), s.own.mmasOn s.cur.thr n = false →
    (s.atHand [rn a, rn b] [] → (s.src.stream n).recs = [] → (s.src.stream n).pops = [] → s.src.drains = [] →
      Retires (exec (.sbind e a b n wr) s) (fun t => (t.th.stream n).bound = true ∧ (t.th.stream n).writing = wr ∧
        (t.th.stream n).base = s.rs a ∧ (t.th.stream n).shape = s.rs b ∧ (t.th.stream n).head = 0 ∧ (t.th.stream n).recs = [] ∧
        t.th.pc = s.src.pc + 8 ∧ Frame s t s.th s.own)) ∧
    Retires (exec (.sunbind e n) s) (fun t => (t.th.stream n) = (s.src.stream n).unbind ∧ t.th.pc = s.src.pc + 8 ∧ Frame s t s.th s.own ∧
      { what := .streamDrain s.cur.core (s.cur.thr % 8) n.toNat, input := Input.none } ∈ t.agenda)

/-! ### Synchronisation (11) -/

/-- 08 R218; 11 R307 to R309, R312, R313, R316 to R319: the forms that wait. Each parks with its request made: BAR and BART arrive at their
group's barrier, CHSEND and CHRECV send the request to the channel's word, WAITW sends the load of its word, TICKET joins its die's
ticket unit, DONATE reads its record and then asks for its placing, and SEMW joins the list of its core, where it passes at once if
nobody waits before it and its condition is met, taking its units. Once what it waited for is at hand it completes: BAR with the phase
complete, BART with the status in its destination, CHSEND and CHRECV with the transfer made, WAITW with the status or with its
condition met, TICKET with its index, DONATE with its record placed, SEMW with its take made. SEMS completes once its thread's earlier
accesses to the core's scratchpad are performed: it adds to its semaphore, and raises SEMAPHORE_OVERFLOW (26) above 65,535. No other
register and no byte of memory changes. -/
def Obligations.SynchronisationForms : Prop :=
  ∀ (s : State) (d a b : BitVec 6), let me := (s.cur.core, s.cur.thr % 8)
    let parks := fun (i : Instr) (w : Wait) (p : State → Prop) => Parks (exec i s) w (fun t => t.mem = s.mem ∧ RegsKept s t ∧ p t)
    (∀ x l, s.src.grant = some (x :: l) →
      (s.atHand [rn a] [] → RetiresAs s (exec (.bar a) s) id) ∧
      (s.atHand [rn a] [rn d] → RetiresAs s (exec (.bart d a) s) (fun th => th.writeS d x) ∧
        RetiresAs s (exec (.ticket d a) s) (fun th => th.writeS d x)) ∧
      (x ≠ 1 → s.atHand [rn a, rn b] [] → RetiresAs s (exec (.chsend a b) s) id) ∧
      (x ≠ 1 → ∀ y m, l = y :: m → s.atHand [rn a] [rn d] → RetiresAs s (exec (.chrecv d a) s) (fun th => th.writeS d y)) ∧
      (x = 1 → (s.atHand [rn a, rn b] [] → TrapsWith s (exec (.chsend a b) s) 31 0 (s.rs a)) ∧
        (s.atHand [rn a] [rn d] → TrapsWith s (exec (.chrecv d a) s) 31 0 (s.rs a))) ∧
      (s.atHand [rn a, rn b] [] →
        (l = [] → RetiresAs s (exec (.donate a b) s) (fun th => { th with spawns := th.spawns + 1, call := [] })) ∧
        (l ≠ [] → parks (.donate a b) .donation (fun t => t.th.call = s.rs a :: (x :: l).take 8 ∧ t.th.grant = none ∧
          t.awaits (.donateRetry s.cur.core (s.cur.thr % 8)))))) ∧
    (∀ x y eq, s.atHand [rn a, rn b] [rn d] →
      (s.src.grant = some [x] →
        Retires (exec (.waitw d a b eq) s) (fun t => t.th.pc = s.src.pc + 8 ∧ Frame s t (s.th.writeS d x) s.own)) ∧
      (s.src.grant = some [x, y] → (decide (x = s.rs b) = eq) →
        Retires (exec (.waitw d a b eq) s) (fun t => t.th.pc = s.src.pc + 8 ∧ Frame s t (s.th.writeS d 0) s.own)) ∧
      (s.src.grant = some [x, y] → (decide (x = s.rs b) ≠ eq) → s.src.call ≠ [2] →
        parks (.waitw d a b eq) (.watch (s.rs a)) (fun t => t.th.grant = none)) ∧
      (s.src.grant = none → (s.rs a).toNat % 8 = 0 → s.issueCheck .load 9 true (s.rs a) 8 none = none → s.src.accFull = false →
        parks (.waitw d a b eq) (.watch (s.rs a)) (fun t => ∃ e, t.th.acc = s.th.acc ++ [e] ∧ e.form = .read ∧ e.addr = s.rs a ∧
          e.pieces = piecesOf (s.rs a) 8))) ∧
    (s.src.grant = none → s.atHand [rn a] [rn d] →
      ((s.rs a).toNat < 2 ^ 8 → (s.src.groupField (s.rs a).toNat).isSome = true →
        let arrives := fun (t : State) => t.awaits (.barrierPhaseComplete s.th.task.launch (s.rs a).toNat) ∧
          ∀ l, s.launch? s.th.task.launch = some l → ∃ m, t.launch? s.th.task.launch = some m ∧
            m.groups = l.groups.map (fun g => if g.n = (s.rs a).toNat then { g with arrived := g.arrived ++ [me] } else g)
        parks (.bar a) .barrier arrives ∧ parks (.bart d a) .barrierTimed (fun t => arrives t ∧
          (s.src.wto ≠ 0 → t.awaits (.bartTimeout s.cur.core (s.cur.thr % 8))))) ∧
      (((s.src.groupField (s.rs a).toNat).isNone = true ∨ 2 ^ 8 ≤ (s.rs a).toNat) →
        TrapsWith s (exec (.bar a) s) 30 0 (s.rs a) ∧ TrapsWith s (exec (.bart d a) s) 30 0 (s.rs a)) ∧
      ((s.launchOf s.cur.core s.cur.thr = none ∨ s.rs a = 0) → TrapsWith s (exec (.ticket d a) s) 29 0 (s.rs a)) ∧
      (∀ l, s.launchOf s.cur.core s.cur.thr = some l → s.rs a ≠ 0 →
        ((∀ x ∈ l.loops, x.addr ≠ s.rs a) → TrapsWith s (exec (.ticket d a) s) 29 0 (s.rs a)) ∧
        (∀ x ∈ l.loops, x.addr = s.rs a → parks (.ticket d a) .ticket (fun t => t.awaits (.ticketGrant s.cur.core (s.cur.thr % 8)) ∧
          (t.cdie (s.ticketDie s.cur.core)).grabq = (s.cdie (s.ticketDie s.cur.core)).grabq ++ [me] ∧
          ∃ n y, t.th.call = [BitVec.ofNat 64 n] ∧ l.loops[n]? = some y ∧ y.addr = s.rs a)))) ∧
    (s.src.grant = none → s.src.accFull = false →
      (let asks := fun (i : Instr) (kind : AccKind) => feRegion (formatCause kind) (s.rs a) = none → formatBad (s.rs a) = false →
        s.issueCheck kind (formatCause kind) true (s.rs a) 16 none = none →
        parks i (.channel (s.rs a)) (fun t => ∃ e, t.th.acc = s.th.acc ++ [e] ∧ e.form = .fe ∧ e.addr = s.rs a ∧ t.awaits (e.event s.cur.core (s.cur.thr % 8)))
       (s.atHand [rn a, rn b] [] → asks (.chsend a b) .store) ∧ (s.atHand [rn a] [rn d] → asks (.chrecv d a) .load)) ∧
      (s.atHand [rn a, rn b] [] → (s.rs a).toNat % 64 = 0 → (s.rs b).toNat % 64 = 0 → formatBad (s.rs a) = false →
        donateRegion (s.rs a) = true → s.issueCheck .store 10 true (s.rs a) 64 none = none →
        s.issueCheck .load 9 true (s.rs b) 64 none = none →
        parks (.donate a b) .donation (fun t => ∃ e, t.th.acc = s.th.acc ++ [e] ∧ e.form = .read ∧ e.addr = s.rs b ∧
          e.pieces = piecesOf (s.rs b) 64))) ∧
    (∀ k : BitVec 8, s.atHand [rn a] [] →
      let thr := bits (s.rs a) 0 16
      let take := bits (s.rs a) 16 16
      ((s.rs a).toNat < 2 ^ 32 → take ≤ thr →
        (∀ l, s.src.grant = some l → Retires (exec (.semw a k) s) (fun t => t.th.pc = s.src.pc + 8 ∧ Frame s t s.th s.own)) ∧
        (s.src.grant = none → Parks (exec (.semw a k) s) (.sem k.toNat) (fun t => t.mem = s.mem)) ∧
        (s.src.grant = none → s.own.semWait = [] → s.own.signals = [] → s.isBlocked s.cur.core s.cur.thr = false →
          (thr ≤ (s.own.sem k).toNat → Parks (exec (.semw a k) s) (.sem k.toNat) (fun t => t.th.grant = some [] ∧ t.own.semWait = [] ∧
            Frame s t s.th (s.own.setSem k (BitVec.ofNat 16 ((s.own.sem k).toNat - take))))) ∧
          ((s.own.sem k).toNat < thr → Parks (exec (.semw a k) s) (.sem k.toNat) (fun t => t.th.grant = s.th.grant ∧
            t.own.semWait = [(s.cur.thr % 8, k.toNat)] ∧ Frame s t s.th s.own)))) ∧
      ((2 ^ 32 ≤ (s.rs a).toNat ∨ thr < take) → TrapsWith s (exec (.semw a k) s) 3 0 (s.rs a)) ∧
      ((s.rs a).toNat < 2 ^ 16 →
        ((s.own.sem k).toNat + (s.rs a).toNat ≤ 0xFFFF →
          (s.scratchLeft s.cur.core s.cur.thr s.src.acount (ownKey, s.cur.core) = false →
            Retires (exec (.sems a k) s) (fun t => t.th.pc = s.src.pc + 8 ∧ t.mem = s.mem ∧ t.th.regs = s.th.regs)) ∧
          (s.scratchLeft s.cur.core s.cur.thr s.src.acount (ownKey, s.cur.core) = false → s.own.semWait = [] → s.own.signals = [] →
            Retires (exec (.sems a k) s) (fun t => t.th.pc = s.src.pc + 8 ∧
              Frame s t s.th (s.own.setSem k (s.own.sem k + (s.rs a).setWidth 16)))) ∧
          (s.scratchLeft s.cur.core s.cur.thr s.src.acount (ownKey, s.cur.core) = true → ParksOn s (exec (.sems a k) s) .earlierStores)) ∧
        (0xFFFF < (s.own.sem k).toNat + (s.rs a).toNat → TrapsWith s (exec (.sems a k) s) 26 0 (BitVec.ofNat 64 k.toNat))))

/-! ### Events of the engines and units (06, 07, 10) -/

/-- 06 R143, R145, R147, R148; 10 R266 to R268: a special-function unit takes the oldest request of the core whose place in the rotation
it serves (the rotation's place in a cycle is the model's, log 22), and waits while it is out of service or that core has none; a
request that was sent comes back in order: its results and flags are written and its register is no longer pending, or, where it holds
an enabled flag, its results wait for the bundle that parked. A bound reading stream with room asks for its next record; a record that
has been read arrives, and serves the VPOPs that wait for it; the oldest record of a writing stream, once written, leaves it; an access
that faults stops the stream. -/
def Obligations.SpecialFunctionAndStreamEvents : Prop :=
  (∀ (s : State) (cl unit : Nat), let q := (s.cluster cl).queueOf unit
    let next := q.find? (fun x => (s.cluster cl).offersTo unit s.clock x.1)
    (∀ k t, next = some (k, t) → (s.cluster cl).unitUp unit = true → Happens (exec (.sfrRequestIntake cl unit) s) (fun u =>
        (u.cluster cl).queueOf unit = q.erase (k, t) ∧ u.awaits (.sfrResultReturn k t) ∧ u.mem = s.mem ∧ RegsKept s u)) ∧
    (q ≠ [] → (next = none ∨ (s.cluster cl).unitUp unit = false) → Waits s (exec (.sfrRequestIntake cl unit) s))) ∧
  (∀ (s : State) (k t : Nat) (r : SfrReq) (rest : List SfrReq),
    (s.cluster (clusterOfCore k)).noUnit = false → (s.thread k t).sfr = r :: rest → r.sent = true →
      (r.holds = true → Happens (exec (.sfrResultReturn k t) s) (fun u =>
        (u.thread k t).sfr = { r with back := true } :: rest ∧ RegsKept s u ∧ u.mem = s.mem)) ∧
      (r.holds = false → Happens (exec (.sfrResultReturn k t) s) (fun u =>
        let x := r.results ((s.thread k t).readV (BitVec.ofNat 5 r.vd))
        (u.thread k t).readV (BitVec.ofNat 5 r.vd) = vecOf r.ty x ∧ (u.thread k t).sfr = rest ∧
          (∀ m : BitVec 5, m ≠ BitVec.ofNat 5 r.vd → (u.thread k t).readV m = (s.thread k t).readV m) ∧
          (u.thread k t).fpf = (s.thread k t).fpf ||| (orFlags x).setWidth 64 ∧ RegName.v r.vd ∉ (u.thread k t).pend ∧ u.mem = s.mem))) ∧
  (∀ (s : State) (k t : Nat) (n : BitVec 3), let w := (s.thread k t).stream n
    (w.bound = true → w.writing = false → w.stopped = false → w.hasRecord w.asked = true → w.asked < w.head + 4 →
      w.mayStart (s.core k) = true → s.fenceKeepsRecord k t w.base w.shape w.asked (s.thread k t).epoch false = false →
      (s.core k).stops = [] →
      Happens (exec (.streamRefill k t n.toNat) s) (fun u => u.awaits (.streamRecordArrival k t n.toNat) ∧ u.mem = s.mem ∧ RegsKept s u ∧
        ((u.thread k t).stream n).recs = w.recs ++
          [{ data := 0, mask := 0, arrived := false, again := false, epoch := (s.thread k t).epoch }])) ∧
    (∀ i, w.inFlight? = some i → w.stopped = false → (w.recOf i).again = false →
      let a := recordAddr w.base w.shape i
      (∀ s' x, s.engBytes k t w.mode a a 128 = .ok (s', x) →
        Happens (exec (.streamRecordArrival k t n.toNat) s) (fun u => u.mem = s'.mem ∧
          u.thread k t = ((s'.thread k t).setStream n (((s'.thread k t).stream n).setArrived i (BitVec.ofNat 1024 x))).servePops n i
            (BitVec.ofNat 1024 x))) ∧
      (∀ c v, s.engBytes k t w.mode a a 128 = .error (.fault c v) →
        Happens (exec (.streamRecordArrival k t n.toNat) s) (fun u => ((u.thread k t).stream n).stopped = true ∧ u.mem = s.mem))) ∧
    (∀ r rest, (s.thread k t).drains = [] → w.writing = true → w.stopped = false → w.recs = r :: rest →
      s.fenceKeepsRecord k t w.base w.shape w.first r.epoch true = false →
      let a := recordAddr w.base w.shape w.first
      (∀ s' l, s.engStore k t w.mode a a 128 r.data.toNat (byteBits r.mask) = .ok (s', l) →
        Happens (exec (.streamDrain k t n.toNat) s) (fun u => ((u.thread k t).stream n).recs = rest ∧ u.mem = s'.mem ∧
          ((u.thread k t).stream n).first = ((s'.thread k t).stream n).first + 1)) ∧
      (∀ c v, s.engStore k t w.mode a a 128 r.data.toNat (byteBits r.mask) = .error (.fault c v) →
        Happens (exec (.streamDrain k t n.toNat) s) (fun u => ((u.thread k t).stream n).stopped = true ∧ u.mem = s.mem))))

/-- 08 R220; 10 R251, R252, R261 to R263, R271, R272: the oldest command whose wait is met starts once its thread's earlier accesses to
the own scratchpad are performed, its descriptors have been read and no command in progress overlaps it; a CPY, TLD, TLDW or TST
completes: its elements are moved and it leaves the queue; a CPYR completes: it applies one element at a time, and leaves the queue
after the last; a fault halts the engine until EST clears it; a batch completes, oldest first, once its commands have. Beyond what
they move these events change no register. -/
def Obligations.CopyEngineEvents : Prop :=
  ∀ (s : State) (k : Nat) (x : CopyCmd), let c := s.core k
    (c.copies.find? (fun x => x.state == 0) = some x → s.startWaits k x = false →
      ∀ s' y, s.openCopy k x = .ok (s', y) → (c.copies.filter (fun y => y.state == 1)).any (fun z => y.clashes z) = false →
        y.weightBad = none →
        Happens (exec (.copyCommandStart k) s) (fun u => u.awaits (y.event k) ∧ u.mem = s'.mem ∧ RegsKept s' u ∧
          ∃ z : CopyCmd, z.state = 1 ∧ z.dst = y.dst ∧ z.src = y.src ∧ u.core k = (s'.core k).modCopy x.id (fun _ => z))) ∧
    (c.copies.find? (fun x => x.state == 0) = some x → s.startWaits k x = true → Waits s (exec (.copyCommandStart k) s)) ∧
    (c.copy? x.id = some x →
      (x.state ≠ 2 → ∀ v, Happens (exec (.copyEngineFault k x.id 23 v) s) (fun u => (u.core k).cfault = true ∧ u.mem = s.mem ∧
        (u.core k).tiles = c.tiles ∧ ∀ y, (u.core k).copy? x.id = some y → y.state = 2)) ∧
      (x.state = 1 → s.copyHalted k = false →
        (x.reduces = true → x.total ≤ x.next → s.copyUnsettled k x = false →
          Happens (exec (.copyCommandComplete k x.id) s) (fun u => u.mem = s.mem ∧ RegsKept s u ∧
            (u.core k).copies = c.copies.filter (fun y => !(y.id == x.id)))) ∧
        (x.reduces = false → ∀ s' y,
          (s.moveRest k x = (s', y, none) → y.total ≤ y.next →
            ((s'.cleanMoved k y x.next y.next).modCore k (fun c => c.modCopy x.id (fun _ => y))).copyUnsettled k y = false → y.id = x.id →
            Happens (exec (.copyCommandComplete k x.id) s) (fun u => u.mem = s'.mem ∧ RegsKept s' u ∧ ∀ z ∈ (u.core k).copies, z.id ≠ x.id)) ∧
          (∀ n v, s.moveRest k x = (s', y, some (.fault n v)) →
            Happens (exec (.copyCommandComplete k x.id) s) (fun u => u.mem = s'.mem ∧ RegsKept s' u ∧
              u.awaits (.copyEngineFault k x.id n v)))) ∧
        (x.reduces = true → x.ordered = false → x.next < x.total → ∀ s' y, s.redApply k x x.next = .ok (s', y) →
          Happens (exec (.copyReductionApply k x.id) s) (fun u => u.mem = s'.mem ∧ RegsKept s' u ∧
            u.core k = (s'.core k).modCopy x.id (fun _ => y))))) ∧
    (∀ b r, c.batches = b :: r → c.copies.any (fun x => x.closed && x.batch == b.n.toNat) = false → c.waitMet b.cmd = true →
      Happens (exec (.batchComplete k) s) (fun u => (u.core k).batches = r ∧ u.mem = s.mem ∧
        RegsKept (s.modCore k (fun c => { c with cdone := b.n })) u)) ∧
    Happens (exec (.estClearCfault k) s) (fun u => u.mem = s.mem ∧ RegsKept (s.modCore k (fun c => { c with cfault := false })) u)

/-- 07 R159, R161, R168, R171, R172, R176, R178, R180, R182: the head of the matrix queue starts once its operands are free and no
drained tile that it names still has rows to release, accumulates group by group, and leaves the queue when it is complete; the
members of a gang join once all have arrived with like operands, and a difference stops both arrivals; a row that is ready is
granted to the thread that waits longest, and one that no thread can take is reported once as DRAIN_HANDLER_MISSING (56); a fault
halts the engine until EST clears it. Beyond the accumulator these events change no register and no byte of memory. The sum of an
integer accumulation is exact and wraps or saturates. -/
def Obligations.MatrixEngineEvents : Prop :=
  (∀ (s : State) (k : Nat) (o : MatOp), (s.core k).headOp? = some o → o.gang = [] → s.opReady k o = true →
    (o.started = false → (s.core k).drainHolds k = false → s.headWaits k = false → (matCmd o.instr).all (fun e => (s.core k).waitMet e) = true →
      Happens (exec (.matrixOpStart k) s) (fun u => u.mem = s.mem ∧ RegsKept s u ∧
        ((u.core k).headOp?.map (fun o => o.started)) = some true ∧ u.awaits (.matrixGroupComplete o.leader))) ∧
    (o.started = false → (s.core k).drainHolds k = true → Waits s (exec (.matrixOpStart k) s)) ∧
    (o.started = true → s.input.ok = true → matStream o.instr = none →
      (o.groups < o.groupCount → (s.core k).tilePoison o k = none → Happens (exec (.matrixGroupComplete k) s) (fun u =>
        u.mem = s.mem ∧ ((u.core k).headOp?.map (fun o => o.groups)) = some (o.groups + 1) ∧
        RegsKept (s.modCore k (fun c => { c with tiles := (applyGroup c (s.core o.leader) o o.groups o.groups).tiles })) u)) ∧
      (o.groupCount ≤ o.groups → Happens (exec (.matrixGroupComplete k) s) (fun u =>
        u.awaits (.matrixOpComplete k) ∧ u.mem = s.mem ∧ RegsKept s u))) ∧
    (o.started = true → s.input.ok = false → Happens (exec (.matrixGroupComplete k) s) (fun u =>
      (u.core k).mfault = true ∧ (u.core k).tiles = (s.core k).tiles ∧ u.mem = s.mem)) ∧
    (o.started = true → o.finished = true → Happens (exec (.matrixOpComplete k) s) (fun u =>
      u.mem = s.mem ∧ RegsKept s u ∧ (u.core k).mq = (s.core k).mq.tail))) ∧
  (∀ (s : State) (k t : Nat) (me : GangArr), (s.core k).arrival? t = some me →
    let near := fun (x : Nat × GangArr) => x ∈ s.rowArrivals k t ∧ x.1 ≠ gangPos k ∧ sharesGang (gangPos k) me x.1 x.2 = true
    ((∀ x, near x → gangDiff (gangPos k) me x.1 x.2 = none) →
      (∀ j ∈ gangCores k me.four, j = k ∨ ((s.core j).arrival? t).any (fun g => g.seen) = true) →
      Happens (exec (.mmagBarrierComplete k t) s) (fun u => u.mem = s.mem ∧ RegsKept s u ∧ ∀ j ∈ gangCores k me.four,
        (u.thread j t).grantB = true ∧ (u.core j).arrival? t = none ∧
        ∃ o, (u.core j).mq = (s.core j).mq ++ [o] ∧ o.gang = gangCores k me.four ∧ o.leader = gangLeader k me.four)) ∧
    (∀ x n, near x → gangDiff (gangPos k) me x.1 x.2 = some n →
      Happens (exec (.mmagBarrierComplete k t) s) (fun u => u.mem = s.mem ∧ (u.core k).arrival? t = none))) ∧
  (∀ (s : State) (k t : Nat) (d : DrainRows) (l : List Nat), (s.core k).nextDrain = some d →
    ((s.core k).drnList = t :: l → s.isBlocked k t = false → s.detAt k = false → Happens (exec (.drainRowOffer k) s) (fun u => u.mem = s.mem ∧ RegsKept s u ∧
      (u.thread k t).grant = some [rowDesc d d.offered] ∧ t ∉ (u.core k).drnList)) ∧
    ((s.core k).drnList = [] → (s.core k).missing = false →
      (∀ j, (s.thread k j).isSup = true ∨ (s.thread k j).st = .free ∨ (s.thread k j).st = .retired) →
      exec (.drainRowOffer k) s =
        .next (((s.modCore k (fun c => { c with missing := true })).report k 56 (rowDesc d d.offered)).verdict .waiting))) ∧
  (∀ (s : State) (k : Nat), Happens (exec (.estClearMfault k) s) (fun u => u.mem = s.mem ∧
    RegsKept (s.modCore k (fun c => { c with mfault := false })) u)) ∧
  (∀ (fa : Nat) (f : MFlags) (x : Nat) (va vb : List NVal), 2 ≤ pairClass fa → x < 2 ^ 32 →
    let sum := signedElem 32 x + ((va.zip vb).map (fun y => y.1.asInt * y.2.asInt)).sum
    (accWord fa f x va vb : Int) = (if f.sat then between (-2 ^ 31) (2 ^ 31 - 1) sum else sum) % 2 ^ 32)

/-! ### Events of synchronisation, tasks and the ordered network (08, 09, 11, 12) -/

/-- 09 R233; 11 R311, R312, R316, R318 to R320: a semaphore takes its signals (and stays at 65,535 where they pass it) and serves the
SEMW at its head; a waiting LDF gets its full word, and a waiting LDFE gets it and leaves it empty; a barrier with every member
present or gone lets its arrivals go; a BART whose time is over, while no group that it has arrived at is complete, has its arrival
withdrawn and answers 1; a watched line or a poll reads the word again; a WAITW whose time is over answers 1. No other register
changes. -/
def Obligations.SynchronisationEvents : Prop :=
  ∀ (s : State) (k t : Nat),
    (∀ n x, (s.core k).signals = [(n, x)] → (s.core k).semWait = [] →
      let sum := min (((s.core k).sem (BitVec.ofNat 8 n)).toNat + x) 0xFFFF
      Happens (exec (.semaphoreUpdate k) s) (fun u => (u.core k).sem (BitVec.ofNat 8 n) = BitVec.ofNat 16 sum ∧
        (∀ j : BitVec 8, j ≠ BitVec.ofNat 8 n → (u.core k).sem j = (s.core k).sem j) ∧ (u.core k).signals = [] ∧ u.mem = s.mem)) ∧
    (∀ n x y, (s.core k).signals = [] → (s.core k).semWait = [(t, n)] → (s.thread k t).call = [x, y] → s.isBlocked k t = false →
      x.toNat ≤ ((s.core k).sem (BitVec.ofNat 8 n)).toNat → Happens (exec (.semaphoreUpdate k) s) (fun u =>
        (u.thread k t).grant = some [] ∧ (u.core k).semWait = [] ∧ u.mem = s.mem ∧
        RegsKept (s.modCore k (fun c => c.setSem (BitVec.ofNat 8 n)
          (BitVec.ofNat 16 (((s.core k).sem (BitVec.ofNat 8 n)).toNat - y.toNat)))) u)) ∧
    (∀ j w e off, (s.core k).felist = [(j, t, w)] → (s.thread j t).acc.find? (fun e => decide (e.form = AccForm.fe)) = some e →
      s.scratchOf j e.addr = some (ownKey, k, off) → off / 8 = w → (s.core k).isFull w = true → (s.core k).poison = [] →
      s.isBlocked j t = false →
      (e.op = 0x3A → Happens (exec (.feWaitTry k w) s) (fun u => u.mem = s.mem ∧ (u.core k).felist = [] ∧ RegsKept s u ∧
        (u.thread j t).grant = some [s.rdw (physScratch ownKey k off)])) ∧
      (e.op = 0x3B → Happens (exec (.feWaitTry k w) s) (fun u => u.mem = s.mem ∧ (u.core k).felist = [] ∧
        RegsKept (s.modCore k (fun c => c.setFull w false)) u ∧ (u.thread j t).grant = some [s.rdw (physScratch ownKey k off)]))) ∧
    (∀ e, (s.thread k t).acc.find? (fun e => decide (e.form = AccForm.fe)) = some e → (s.thread k t).parkT + 64 ≤ s.clock →
      Happens (exec (.feRequestResend k t) s) (fun u => u.awaits (e.event k t) ∧ u.mem = s.mem ∧ RegsKept s u)) ∧
    (∀ n l g, s.launch? n = some l → l.groups.find? (fun x => x.n == g.n) = some g → g.arrived ≠ [] →
      (∀ m ∈ g.members, m ∈ g.arrived ∨ s.memberGone n m = true) →
      Happens (exec (.barrierPhaseComplete n g.n) s) (fun u => u.mem = s.mem ∧ RegsKept s u ∧
        ∀ m ∈ g.arrived, (u.thread m.1 m.2).grant = some [0])) ∧
    ((s.thread k t).park = .barrierTimed → (s.thread k t).grant = none → s.timeUp k t = true →
      ∀ l, s.launch? (s.thread k t).task.launch = some l →
        let whole := fun (g : Group) => (k, t % 8) ∈ g.arrived ∧
          ∀ m ∈ g.members, m ∈ g.arrived ∨ s.memberGone (s.thread k t).task.launch m = true
        ((∀ g ∈ l.groups, ¬ whole g) → Happens (exec (.bartTimeout k t) s) (fun u => (u.thread k t).grant = some [1] ∧ u.mem = s.mem ∧
          RegsKept s u ∧ ∃ l', u.launch? (s.thread k t).task.launch = some l' ∧
            l'.groups = l.groups.map (fun g => { g with arrived := g.arrived.filter (fun m => !(m == (k, t % 8))) }))) ∧
        (∀ g ∈ l.groups, whole g → Waits s (exec (.bartTimeout k t) s))) ∧
    (∀ a, (s.thread k t).park = .watch a → (s.thread k t).grant = none → (s.thread k t).acc = [] →
      let reads := fun (u : State) => u.mem = s.mem ∧ RegsKept s u ∧ ∃ e, (u.thread k t).acc = [e] ∧ e.form = .read ∧ e.addr = a
      Happens (exec (.watchWake k t) s) reads ∧
      ((s.thread k t).since + 1024 ≤ s.clock → Happens (exec (.waitwPoll k t) s) reads) ∧
      (s.timeUp k t = true → Happens (exec (.waitwTimeout k t) s) (fun u => (u.thread k t).grant = some [1] ∧ u.mem = s.mem ∧ RegsKept s u)))

/-- 11 R292, R301, R303, R307, R309; 12 R331: a ticket unit serves one grab in a cycle, in the order of arrival: a thread that asks for
a ticket gets the next chunk of its loop, or bit 63 when none is left; a donation with room is placed; an idle thread whose steal
engine has taken its search up claims the continuation it finds, or searches again 64 cycles after finding nothing; the claim starts
a fresh task at its pc in the next cycle, once the accesses it is ordered after are performed. -/
def Obligations.SchedulingEvents : Prop :=
  ∀ (s : State) (k t : Nat) (l : Launch), s.launchOf k t = some l → l.rmode = 0 → s.detAt k = false →
    (∀ (n : Nat) (x : Loop), (s.thread k t).asksTicket = true → (s.thread k t).call = [BitVec.ofNat 64 n] → n < 2 ^ 64 →
      l.loops[n]? = some x → s.isBlocked k t = false →
      (s.unitFree (s.ticketDie k) = true → (∀ y ys, s.grabsAt (s.ticketDie k) = y :: ys → y = (k, t % 8)) →
        Happens (exec (.ticketGrant k t) s) (fun u => u.mem = s.mem ∧ RegsKept s u ∧ u.unitFree (s.ticketDie k) = false ∧
          (u.thread k t).grant = some [match x.grab (s.ticketDie k) with | some c => x.indexOf c.1 | none => 0x8000000000000000])) ∧
      (s.unitFree (s.ticketDie k) = false → Waits s (exec (.ticketGrant k t) s))) ∧
    (∀ a rec p cap hd tl, (s.thread k t).donates = true → (s.thread k t).call = a :: rec → (s.thread k t).parkT = 0 →
      s.releaseWaits k t (s.thread k t).task.pubmask (s.thread k t).spawns = false → s.dqAt k a = some (p, cap, hd, tl) →
      (tl + 2 ^ 64 - hd) % 2 ^ 64 < cap → Happens (exec (.donateRetry k t) s) (fun u => (u.thread k t).grant = some [0] ∧ RegsKept s u ∧
        u.mem = ((s.wrWords (p + 64 + 64 * (tl % max 1 cap)) rec).wr (p + 16) 8 ((tl + 1) % 2 ^ 64)).mem)) ∧
    ((s.thread k t).searches = true →
      let v := if (s.cluster (clusterOfCore k)).searchq.contains (k, t % 8) then s else s.joinSearch k t
      (v.takenUp k t = true → (s.core k).mmasAny t = false →
        (v.search l k = none → Happens (exec (.stealSearch k t) s) (fun u => u.awaits (.stealSearchRetry k t) ∧ u.mem = s.mem ∧
          RegsKept s u ∧ (u.thread k t).parkT = s.clock)) ∧
        (∀ c e, v.search l k = some (.entry c e) → Happens (exec (.stealSearch k t) s) (fun u => u.mem = s.mem ∧ RegsKept s u ∧
          (u.thread k t).steal = some { e with claimed := some (k, t % 8), claimT := s.clock, logged := true } ∧
          u.awaits (.stealResume k (t % 8))))) ∧
      ((s.thread k t).parkT + 64 ≤ s.clock → Happens (exec (.stealSearchRetry k t) s) (fun u =>
        u.awaits (.stealSearch k t) ∧ u.mem = s.mem ∧ RegsKept s u))) ∧
    (∀ e c, (s.thread k t).steal = some e → (s.thread k t).stopped = false → (e.claimed = none ∨ e.claimT < s.clock) →
      s.releaseWaits e.cont.core e.cont.thr e.cont.rel e.cont.spawn = false → (s.core k).mmasAny t = false →
      s.entryCont k e = some c → c.fresh = true →
      Happens (exec (.stealResume k t) s) (fun u => u.mem = s.mem ∧ (u.thread k t).pc = alignPc c.pc ∧ (u.thread k t).st = .running ∧
        (u.thread k t).task = c.task ∧ (u.thread k t).steal = none ∧ ∀ j n, j ≠ k ∨ n % 8 ≠ t % 8 → (u.thread j n).regs = (s.thread j n).regs))

/-- 10 R276, R277, R279, R281; 12 R344: an ordered access gets its time and key and enters the network; a link's watermark rises to the
earliest of its inputs by its cairn; the packet that its target may apply is applied there; a link whose watermark lags beyond WMLAG
is marked and its die's firmware told, and it is no longer once it lags by less than half. No register changes by these. -/
def Obligations.OrderedNetworkEvents : Prop :=
  ∀ (s : State) (k t : Nat) (l : Link),
    ((s.ordOps k t).isEmpty = false → s.detAt k = false →
      (s.takenOut (.compute (dieOfCore k)) = true → Waits s (exec (.orderedInject k t) s)) ∧
      (∀ x, s.takenOut (.compute (dieOfCore k)) = false → s.injectable k t = some x → (∀ c, x ≠ .copy c) → s.logCheck k t 4 0 = .free →
        Happens (exec (.orderedInject k t) s) (fun u => RegsKept s u ∧ (∃ p, u.ordered = s.ordered ++ [p] ∧ p.core = k ∧ p.thr = t % 8 ∧
          p.t = ((s.timeAt (.compute (dieOfCore k))).setWidth 48).toNat ∧ p.key = plainKey s.panel.toNat k t (s.thread k t).oseq.toNat ∧
          u.awaits (.orderedApply p.target)) ∧
          (u.thread k t).oseq = BitVec.ofNat 32 (((s.thread k t).oseq.toNat + 1) % 2 ^ 16)))) ∧
    (isDereneLink l = true → s.links.any (fun x => decide (x.l = l)) = true → Happens (exec (.cairn l) s) (fun u =>
      u.mem = s.mem ∧ RegsKept s u ∧ ∀ y ∈ u.links, y.l = l → ∃ z ∈ s.links, z.l = l ∧
        y.w = laterTime z.w (earlierTime (s.time.setWidth 48) (s.input.word.setWidth 48)))) ∧
    (∀ x, s.link? l = some x → isDereneLink l = false → x.up = true → (linkStamped l && s.takenOut (linkDie l)) = false →
      (x.last + 256 ≤ s.time.toNat → Happens (exec (.cairn l) s) (fun u => u.mem = s.mem ∧ RegsKept s u ∧
        ∀ y ∈ u.links, y.l = l → y.last = s.time.toNat ∧ ∃ z ∈ s.links, z.l = l ∧ y.w = laterTime z.w (s.bound l))) ∧
      (s.time.toNat < x.last + 256 → Waits s (exec (.cairn l) s))) ∧
    (∀ x, s.links.find? (fun y => decide (y.l = l)) = some x →
      (x.stalled = true → s.lagOf x < s.wmlag.toNat / 2 → Happens (exec (.watermarkStall l) s) (fun u =>
        u.mem = s.mem ∧ RegsKept s u ∧ ∀ y ∈ u.links, y.l = l → y.stalled = false)) ∧
      (x.stalled = false → s.wmlag.toNat < s.lagOf x → Happens (exec (.watermarkStall l) s) (fun u =>
        u.mem = s.mem ∧ (∀ y ∈ u.links, y.l = l → y.stalled = true) ∧
        match linkDie l with
        | .compute i => (45, stallVal x) ∈ (u.cdie i).reports
        | .memory i => (45, stallVal x) ∈ (u.mdie i).reports))) ∧
    (∀ target u, s.ordered.any (fun p => decide (p.target = target)) = true → (s.applicable target).findSome? s.applyPkt = some u →
      HappensAs (exec (.orderedApply target) s) (u.postOnce (.orderedApply target)))

/-! ### Coherence, translation and the host (08, 13) -/

/-- 08 R192, R197, R200, R202 to R204; 13 R359, R360: a read request leaves the line in the cluster; an ownership request leaves it
modified there, in the order of the home's ports, unless a host still shares the line, whose answer it waits for; an eviction
removes a line; a translation walk fills the home's table; a snoop or a read of the host is answered with the line's bytes, a write
of the host is stored and answered, and a BIRsp ends the wait it answers. Only the host's writes change memory, and none of these
changes a register. -/
def Obligations.CoherenceEvents : Prop :=
  ∀ (s : State),
    (∀ (cl id : Nat) (va : Word) (c : Ctx), s.ctx? id = some c →
      (vaRegion va = 0xA → s.refreshOpen = false → Happens (exec (.homeReadRequest cl id va) s) (fun u =>
        (u.cluster cl).lineState c.id (lineOf va) = .s ∧ u.mem = s.mem ∧ RegsKept s u)) ∧
      (∀ p, vaRegion va ≠ 0xA → s.placeOf c va = some p → s.calibrating p = false →
        let a := s.aliasOf c va p
        let home := s.homeOfLine a.1 a.2
        let shared := ((s.mdie home).entry? a.1 a.2).any (fun e => e.host)
        (s.hostOwns c va p = false → Happens (exec (.homeReadRequest cl id va) s) (fun u =>
          (u.cluster cl).lineState a.1 a.2 ≠ .i ∧ u.mem = s.mem ∧ RegsKept s u)) ∧
        (shared = true → exec (.homeOwnershipRequest cl id va) s = .next ((s.snoopHost home p 7).verdict .waiting)) ∧
        (shared = false → s.losesPort (c.homeOf va) cl (p / 128) = false →
          Happens (exec (.homeOwnershipRequest cl id va) s) (fun u => (u.cluster cl).lineState a.1 a.2 = .m ∧ u.mem = s.mem ∧
            RegsKept s u)) ∧
        (shared = false → s.losesPort (c.homeOf va) cl (p / 128) = true → Waits s (exec (.homeOwnershipRequest cl id va) s)))) ∧
    (∀ (id : Nat) (va : Word) (c : Ctx), s.ctx? id = some c → isContextVa va = true →
      Happens (exec (.translationWalk id va) s) (fun u => u.mem = s.mem ∧ u.cores = s.cores ∧ ∀ e n, s.walk c va = .leaf e n →
        ∃ x ∈ (u.mdie (c.homeOf va)).tlb, tlbHits x c.id va = true)) ∧
    Happens (exec .l1Eviction s) (fun u => u.mem = s.mem ∧ RegsKept s u ∧
      (u.cluster s.input.unit).lineState s.input.code (lineOf s.input.addr) = .i) ∧
    (let p := physHost s.input.addr.toNat
     let h := s.holdings p
     let line := readList s.mem (p / 64 * 64) 64
     (heldDirty h = true → (∀ i ∈ [Instr.snpInv, .snpData, .snpCur], Happens (exec i s) (fun u => u.mem = s.mem ∧ RegsKept s u ∧
        ∃ code, u.out = s.out ++ [.cxlRsp p code line]))) ∧
     (heldDirty h = false → (∀ i ∈ [Instr.snpInv, .snpData, .snpCur], Happens (exec i s) (fun u => u.mem = s.mem ∧ RegsKept s u ∧
        ∃ code, u.out = s.out ++ [.cxlRsp p code []])))) ∧
    (∀ c p, s.hdmPlace = some (c, p) →
      Happens (exec .memRd s) (fun u => u.mem = s.mem ∧ RegsKept s u ∧
        ∃ code l, u.out = s.out ++ l ++ [.cxlRsp p code (readList s.mem (p / 64 * 64) 64)]) ∧
      (s.losesPort (c.homeOf s.input.addr) (1024 + s.input.port % 4) (p / 128) = false → Happens (exec .memWr s) (fun u => u.mem = writeList s.mem (p / 64 * 64) (s.input.bytes.take 64) ∧ RegsKept s u ∧
        u.out = s.out ++ [.cxlRsp p memCmp []]))) ∧
    (s.hostOutstanding s.input.unit = true → s.input.bytes = [] → Happens (exec .biRsp s) (fun u =>
      u.mem = s.mem ∧ RegsKept s u ∧ u.hostOutstanding s.input.unit = false))

/-! ### Launches, queues and quanta (12, 13) -/

/-- 04 R105; 11 R284, R285, R287; 12 R322, R323, R326 to R328, R330; 13 R353: a kick moves the producer index, and one with reserved
bits sets ERR; the command whose turn it is leaves its queue, and one whose turn it is not waits: refused, a barrier with nothing
open, a teardown that stops its context, a launch that is recorded and then seeded once the contexts it pre-empts are saved, its
cores are its own, their supervisors have parked and its frames can be accessed: every thread it takes begins at its entry as a
root, or idle; its end retires its idle threads, and its completion closes it once nothing of it is under way. A kick, an end and a
completion change no register. -/
def Obligations.LaunchEvents : Prop :=
  ∀ (s : State) (n : Nat) (w : List Word), let q := s.queue n
    (∀ v : Word, s.input.unit = n → s.input.word = v → n < 128 → q.en = true → 10 ≤ s.bring →
      (bits v 32 32 = 0 → 0 < (v.setWidth 32 - q.pidx).toNat → (v.setWidth 32 - q.pidx).toNat < 2 ^ 31 →
        (v.setWidth 32 - q.cidx).toNat ≤ 2 ^ q.log2cap →
        Happens (exec .kickRegisterWrite s) (fun u => (u.queue n).pidx = v.setWidth 32 ∧ RegsKept s u)) ∧
      (bits v 32 32 ≠ 0 → Happens (exec .kickRegisterWrite s) (fun u => (u.queue n).err = true ∧ (u.queue n).pidx = q.pidx ∧ u.mem = s.mem ∧
        RegsKept s u))) ∧
    (s.turnOf n = some w → q.skip = [] →
      (s.headGone n (.refusedCommand n) = false → Happens (exec (.refusedCommand n) s) (fun u => (u.queue n).cidx = q.cidx + 1 ∧ RegsKept s u)) ∧
      (s.headGone n (.barrierCommand n) = false →
        s.judge n w = .take → Happens (exec (.barrierCommand n) s) (fun u => (u.queue n).cidx = q.cidx + 1 ∧ RegsKept s u)) ∧
      (s.headGone n (.launchCommand n) = false →
        (s.judge n w = .take → ∀ c loops groups, s.ctx? (bits (cw w 0) 8 12) = some c →
          (List.range 8).mapM (fun j => s.readLoop c ((cw w 1).setWidth 32) (cw w (12 + j))) = some loops →
          s.readGroups c (cw w 11) = some groups → Happens (exec (.launchCommand n) s) (fun u => u.nextLaunch = s.nextLaunch + 1 ∧
            (u.queue n).cidx = q.cidx + 1 ∧ ∃ l, u.launch? s.nextLaunch = some l ∧ l.seeded = false ∧ l.queue = n ∧ l.loops = loops ∧
              l.groups = groups ∧ l.ctx = bits (cw w 0) 8 12 ∧ l.entry = cw w 2 ∧ u.awaits (.launchSeeding s.nextLaunch)))) ∧
      (s.headGone n (.teardownCommand n) = false → s.input.code = 0 → s.judge n w = .take →
        Happens (exec (.teardownCommand n) s) (fun u => u.awaits (.teardownCommand n) ∧
          ∀ c, u.ctx? (bits (cw w 0) 8 12) = some c → c.dying = true))) ∧
    (s.turnOf n = none → ∀ i ∈ [Instr.refusedCommand n, .barrierCommand n, .launchCommand n], s.headGone n i = false → Waits s (exec i s)) ∧
    (s.input.code ≠ 0 →
      (∀ v, s.tearReady s.input.unit = some v → v.spillsLeft (v.coresOf s.input.unit) = false →
        Happens (exec (.teardownCommand n) s) (fun u => ∀ l ∈ u.launches, l.2.ctx ≠ s.input.unit)) ∧
      (s.tearReady s.input.unit = none → Waits s (exec (.teardownCommand n) s))) ∧
    (∀ l c, s.launch? n = some l → l.id = n → s.ctx? l.ctx = some c → l.seeded = false →
      (s.waitsPreempt l = true → Waits s (exec (.launchSeeding n) s)) ∧
      (s.waitsPreempt l = false → (∀ k ∈ s.seedCores l, (s.core k).owner = c.id) → s.supsReady c.id (s.seedCores l) = true →
        (∀ k ∈ s.seedCores l, ∀ f, f < l.nf → (s.frameAt k (l.frame k f)).isSome = true) → (∀ m, (l.groupsOf m).length ≤ 4) →
        Happens (exec (.launchSeeding n) s) (fun u => (∃ l', u.launch? n = some l' ∧ l'.seeded = true ∧ l'.loops = l.loops ∧
            u.awaits (.launchWorkEnd n) ∧ u.awaits (.launchCompletion n)) ∧
          ∀ x ∈ s.seeds c l, (u.thread x.1 x.2.1).pc = l.entry ∧ (u.thread x.1 x.2.1).rngk = l.rngk ∧
            (u.thread x.1 x.2.1).task.launch = n ∧ (u.thread x.1 x.2.1).st = (if x.2.2 then .running else .idle)))) ∧
    (∀ l, s.launch? n = some l → l.id = n → l.seeded = true → s.partSaved l = false →
      (l.ended = false → s.workEnded l = true → s.logLeft l = none → (s.threadsOf l).any (fun m => (s.thread m.1 m.2).stopped) = false →
        Happens (exec (.launchWorkEnd n) s) (fun u => u.mem = s.mem ∧ RegsKept s u ∧ ∃ l', u.launch? n = some l' ∧ l'.ended = true)) ∧
      ((s.threadsOf l).all (fun m => s.settled m.1 m.2) = true → l.left.any s.underWay = false → s.workEnded l = true → s.unexamined l = false →
        Happens (exec (.launchCompletion n) s) (fun u => u.launch? n = none ∧ RegsKept s u)) ∧
      (l.left.any s.underWay = true → Waits s (exec (.launchCompletion n) s)))

/-- 12 R329, R330, R335, R336; 14 R397, R398: a quantum of a launched context ends when no thread has it open: its requests are served;
once every stop is answered the next one begins, with LEN more bundles for each thread and no register changed; the cores that a preemption saved are
restored and run on once the launch has ended and nothing is left to save. -/
def Obligations.QuantumAndRestoreEvents : Prop :=
  ∀ (s : State) (id : Nat) (c : Ctx),
    (s.ctx? id = some c → c.id = id → c.det = true → c.kept = [] →
      (c.stopping = false → s.inQuanta c = true → (s.ctxThreads id).any (fun m => s.opens m.1 m.2) = true →
        Waits s (exec (.quantumEnd id) s)) ∧
      (c.stopping = false → s.inQuanta c = true → (s.ctxThreads id).any (fun m => s.opens m.1 m.2) = false →
        let u := (((s.serveQuantum id).reportConflict id).endQuantum id).marked id (s.logicalMark c)
        exec (.quantumEnd id) s = .next (u.verdict .waiting) ∧ ∃ c', u.ctx? id = some c' ∧ c'.stopping = true) ∧
      (c.stopping = true → c.caught = [] → (s.coresOf id).Nodup → (s.ctxThreads id).any (fun m => (s.thread m.1 m.2).anyStop) = false →
        ∃ u c', exec (.quantumEnd id) s = .next u ∧ u.mem = s.mem ∧ RegsKept s u ∧ u.ctx? id = some c' ∧ c'.quantum = c.quantum + 1 ∧
          c'.stopping = false ∧ ∀ k ∈ s.coresOf id, ∀ t, (u.thread k t).qlim = (s.thread k t).qlim + c.len ∧ (u.thread k t).qseq = 0)) ∧
    (∀ (n : Nat) (u : State), s.ctxs.filter (fun x => x.2.keptFor.any (fun y => y.2 == n)) = [(id, c)] → s.launch? n = none →
      (∀ e ∈ s.agenda, ∀ o, e.what = .contextSave o → e.input.unit ≠ n) →
      let mine := (c.keptFor.filter (fun x => x.2 == n)).map Prod.fst
      mine.any (fun k => s.busy k || s.launches.any (fun l => !l.2.seeded && inRect l.2.rect k)) = false →
      (∀ k ∈ mine, (s.core k).owner = 0) → s.restoreCores id mine = some u →
      HappensAs (exec (.preemptionRestore n) s) (u.gangResume (u.widen mine) false none))

/-! ### Stops, saves and readback (14) -/

/-- 14 R376, R379, R384, R387, R389, R397, R398; 15 R409, R410: a report that the supervisor takes is a trap entry with slot 3; a thread
that is told to stop stops at a boundary, once what its bundle cannot be withdrawn from has finished; a stop is complete once its
core is quiet; a saved context's spills are written and its cores cleared; a restore puts its cores back; RBD reads the word at RBA
and moves on, and a write moves on too. A stop changes no register and no byte of memory. -/
def Obligations.StopSaveAndReadbackEvents : Prop :=
  ∀ (s : State) (k t : Nat),
    (∀ cause v r j, (s.core k).reports = (cause, v) :: r → (s.core k).repWait = [] →
      (List.range 8).find? (fun i => (s.thread k i).isSup) = some j → (s.thread k j).intrap = false → (s.thread k j).stopped = false →
      (s.thread k j).held = none → (s.thread k j).anyStop = false → (s.thread k j).st = .running → (s.thread k j).classA = [] →
      Happens (exec (.reportTaken k) s) (fun u => (u.core k).reports = r ∧ (u.thread k j).intrap = true ∧
        (u.thread k j).kcause = BitVec.ofNat 64 (3 * 64 + cause) ∧ (u.thread k j).kval = v ∧ (u.thread k j).kepc = (s.thread k j).pc ∧
        (u.thread k j).pc = (s.core k).kvec ∧ u.mem = s.mem ∧ (u.core k).regs = (s.core k).regs ∧
        ∀ i n, i ≠ k ∨ n % 8 ≠ j → (u.thread i n).regs = (s.thread i n).regs)) ∧
    ((s.thread k t).anyStop = true → (s.thread k t).stopped = false →
      (s.mayStop k (s.thread k t) = true → s.mustFinish k t = false →
        Happens (exec (.threadStop k t) s) (fun u => (u.thread k t).stopped = true ∧ (u.thread k t).pc = (s.thread k t).pc ∧
          RegsKept s u ∧ u.mem = s.mem)) ∧
      (s.mustFinish k t = true → Waits s (exec (.threadStop k t) s))) ∧
    (∀ x, (s.core k).stops.find? (s.mayComplete k) = some x → s.coreQuiet k = true →
      Happens (exec (.gangStopComplete k) s) (fun u => { x with complete := true } ∈ (u.core k).stops ∧ u.mem = s.mem ∧ RegsKept s u)) ∧
    ((s.core k).stops.all (fun x => x.complete) = false → s.coreQuiet k = false ∨ (∀ x ∈ (s.core k).stops, s.mayComplete k x = false) →
      Waits s (exec (.gangStopComplete k) s)) ∧
    ((s.thread k t).stopD = true → (s.thread k t).stopped = true → s.accessesSettled k t = true → ∀ x, (s.thread k t).stepped = some x →
      Happens (exec (.debugHalt k t) s) (fun u => (u.thread k t).stepped = none ∧ (u.thread k t).stopD = true ∧ RegsKept s u)) ∧
    (∀ id, s.stopDone ((s.coresOf id).filter (fun k => s.inScope s.input.word k)) = true →
      (s.spillAll ((s.coresOf id).filter (fun k => s.inScope s.input.word k))).spillsLeft
        ((s.coresOf id).filter (fun k => s.inScope s.input.word k)) = false → ∀ c, s.ctx? id = some c →
      Happens (exec (.contextSave id) s) (fun u =>
        ∀ j ∈ (s.coresOf id).filter (fun k => s.inScope s.input.word k), (u.core j).owner = 0)) ∧
    (∀ id c u, s.ctx? id = some c → s.input.unit = 0 → (∀ x ∈ c.keptFor, (s.core x.1).owner = 0) →
      s.restoreCores id (c.keptFor.map Prod.fst) = some u → HappensAs (exec (.contextRestore id) s) u) ∧
    (∀ d, Happens (exec (.rbdRead k t d) s) (fun u => u.mem = s.mem ∧
      u.thread k t = { ((s.thread k t).writeS d (s.rbd (s.thread k t).rba)) with rba := rbaNext (s.thread k t).rba } ∧
      ∀ i n, i ≠ k ∨ n % 8 ≠ t % 8 → u.thread i n = s.thread i n)) ∧
    (∀ v, (s.rbdRefused (s.thread k t).rba = false →
        Happens (exec (.rbdWrite k t v) s) (fun u => (u.thread k t).rba = rbaNext (s.thread k t).rba)) ∧
      (s.rbdRefused (s.thread k t).rba = true → HappensAs (exec (.rbdWrite k t v) s) s))

/-! ### The panel: time, power, faults and repair (01, 08, 15) -/

/-- 08 R200; 13 R363; 15 R421 to R423, R427: time synchronisation, refresh windows, the power sequence, the bring-up and the thermal
limits. -/
def Obligations.TimeAndPowerEvents : Prop :=
  ∀ (s : State) (i : Nat), let d : DieRef := .compute i
    (s.input.die = d →
      Happens (exec .timeSyncMessage s) (fun u => (u.cdie i).errEst = s.input.code ∧ (u.cdie i).lastSync = s.time.toNat ∧ u.mem = s.mem ∧ RegsKept s u) ∧
      ((s.cdie i).sync = true → 32 < (s.cdie i).errEst → Happens (exec .timeSyncLost s) (fun u =>
        (u.cdie i).sync = false ∧ (46, BitVec.ofNat 64 (i % 256 + 256)) ∈ (u.cdie i).reports ∧ u.mem = s.mem ∧ RegsKept s u)) ∧
      ((s.cdie i).sync = false → Happens (exec .timeSyncRegained s) (fun u =>
        (u.cdie i).sync = true ∧ (u.cdie i).errEst = s.input.code ∧ u.mem = s.mem ∧ RegsKept s u)) ∧
      Happens (exec .thermalThrottle s) (fun u => (u.cdie i).therm = s.input.code ∧
        (u.cdie i).throttled = decide ((s.cdie i).throttle ≤ s.input.code) ∧ u.mem = s.mem ∧ RegsKept s u) ∧
      (105 ≤ s.input.code → Happens (exec .thermalStop s) (fun u => (∃ v, (62, v) ∈ (u.cdie i).reports) ∧ u.mem = s.mem ∧ RegsKept s u)) ∧
      (115 ≤ s.input.code → Happens (exec .thermalPowerOff s) (fun u => u.rails = Vector.replicate 5 false ∧ u.cores = State.reset.cores ∧
        u.ctxs = State.reset.ctxs))) ∧
    (s.wref ≠ 0 → s.refreshOpen = false → timeBefore (s.time.toNat % 2 ^ 48) (bits s.wref 0 48) = false →
      Happens (exec .refreshWindowOpen s) (fun u => u.refreshOpen = true ∧ u.mem = s.mem ∧ RegsKept s u ∧ u.awaits .refreshWindowClose)) ∧
    (s.refreshOpen = true → timeBefore (s.time.toNat % 2 ^ 48) ((bits s.wref 0 48 + bits s.wref 48 16) % 2 ^ 48) = false →
      Happens (exec .refreshWindowClose s) (fun u => u.refreshOpen = false ∧ u.mem = s.mem ∧ RegsKept s u ∧ u.awaits .refreshWindowOpen)) ∧
    (s.railsUp < 5 → Happens (exec .powerUp s) (fun u => s.railsUp < u.railsUp ∧ u.mem = s.mem)) ∧
    (0 < s.railsUp → s.railsUp ≤ 5 → Happens (exec .powerDown s) (fun u => u.railsUp + 1 = s.railsUp)) ∧
    (s.bring = 0 → 1 ≤ s.railsUp → Happens (exec .panelBringUp s) (fun u => u.bring = 1 ∧ u.mem = s.mem ∧ u.awaits .panelBringUp)) ∧
    (s.bring = 2 → Happens (exec .panelBringUp s) (fun u =>
      (s.bootTrust = none ∧ u.out = s.out ++ [.pldm 6 2] ∧ u.bring = 2) ∨ (s.bootTrust ≠ none ∧ u.bring = 3)))

/-- 06 R148; 15 R404 to R406, R418 to R420, R424, R426: errors and repair. A fatal error goes to the firmware of its die; a sector that
cannot be corrected is noted; a die, a special-function unit or a link (at both of its ends) out of service is so, and one that
returns is back; a spare takes a die's place. -/
def Obligations.ErrorAndRepairEvents : Prop :=
  ∀ (s : State) (n : Nat),
    (∀ v, s.input.die = .compute n → s.input.unit = 2 → s.input.word = v → Happens (exec .machineCheck s) (fun u =>
      (62, machineCheckVal n 2 (v.toNat % 2 ^ 32) true) ∈ (u.cdie n).reports ∧ u.mem = s.mem ∧ RegsKept s u)) ∧
    (s.input.ok = true → let p := backPlace (s.input.port % 4) s.input.unit (s.input.code / 32 * 32)
      Happens (exec .pageQuarantine s) (fun u => p / 32 ∈ u.poison ∧ RegsKept s u)) ∧
    (s.input.ok = false → Happens (exec .pageQuarantine s) (fun u =>
      physWeight s.input.unit s.input.code / 32 ∈ u.poisonWeight ∧ u.mem = s.mem ∧ RegsKept s u)) ∧
    Happens (exec .scrub s) (fun u => u.mem = s.mem ∧ u.poison = s.poison ∧ RegsKept s u) ∧
    (s.input.code = 0 → s.input.unit = n → Happens (exec .memoryDieOutOfService s) (fun u => (u.mdie n).up = false)) ∧
    (∀ p, s.replacing = some (n, p) → s.input.unit = n → s.input.port = 1 → s.input.code = 1 →
      s.stopDone ((s.ctxsOn n).flatMap s.coresOf) = true →
      Happens (exec .dieReplacement s) (fun u => AMap.get? u.sites n = some (siteCode p) ∧ u.mem = s.mem)) ∧
    (s.replacing.isSome = true → s.input.port = 1 → s.input.code = 2 →
      Happens (exec .dieReplacement s) (fun u => u.replacing = none)) ∧
    (s.input.unit = n → let x := s.input.port % 2
      Happens (exec .sfuOutOfService s) (fun u => (u.cluster n).unitUp x = false ∧ u.mem = s.mem ∧ RegsKept s u) ∧
      Happens (exec .sfuReturnToService s) (fun u => (u.cluster n).unitUp x = true ∧ u.mem = s.mem ∧ RegsKept s u)) ∧
    (s.input.unit % 64 = n → AMap.get? s.calib n = none → Happens (exec .lpddr6Calibration s) (fun u =>
      AMap.get? u.calib n = some (s.time.toNat, min s.input.code 2000) ∧ u.mem = s.mem ∧ RegsKept s u)) ∧
    (s.wireOf s.input = none → HappensAs (exec .linkRetry s) s ∧ HappensAs (exec .linkUp s) s) ∧
    (∀ w, s.wireOf s.input = some w →
     (s.input.ok = true → Happens (exec .linkRetry s) (fun u => AMap.get? u.retries w.code = none ∧ u.mem = s.mem ∧ RegsKept s u)) ∧
     (s.input.ok = false → AMap.getD 0 s.retries w.code < 15 → Happens (exec .linkRetry s) (fun u =>
       AMap.get? u.retries w.code = some (AMap.getD 0 s.retries w.code + 1) ∧ u.mem = s.mem ∧ RegsKept s u)) ∧
     (∀ j, j < 4 → w = .host j →
       Happens (exec .linkUp s) (fun u => u.ports.toList.getD j false = true) ∧
       (s.input.ok = false → 15 ≤ AMap.getD 0 s.retries w.code →
         Happens (exec .linkRetry s) (fun u => u.ports.toList.getD j true = false))) ∧
     (∀ d j, w = .mesh d j →
       Happens (exec .linkUp s) (fun u => ∀ l ∈ s.ends w, ∀ y ∈ u.links, y.l = l → y.up = true) ∧
       (s.input.ok = false → 15 ≤ AMap.getD 0 s.retries w.code →
         Happens (exec .linkRetry s) (fun u => ∀ l ∈ s.ends w, ∀ y ∈ u.links, y.l = l → y.up = false)))) ∧
    (s.input.unit = n → let image : Image := { bytes := s.input.bytes, sig := s.input.more, version := s.input.word.toNat }
      (128 ≤ n → Happens (exec .firmwareUpdate s) (fun u => AMap.get? u.images 0x11 = some image ∧ u.mem = s.mem)) ∧
      (n < 128 → (s.cdie n).up = true → Happens (exec .firmwareUpdate s) (fun u => u.mem = s.mem ∧
        (u.cdie n).mr = (if image.verified (s.siteNo n) then extendMr (s.cdie n).mr s.input.bytes 0x11 else (s.cdie n).mr))))

/-! ### Firmware services and attestation (13, 14) -/

/-- 13 R351, R354, R357, R368; 14 R391; 15 R415, R416: the services of a host's mailbox are answered with a status and a word: QUERY
with the version, a number no service has with 4, an argument that fails its checks with 1, and otherwise with 0 and the service's
effect. SECTOR_READ of a thread is answered with the sectors it could read. -/
def Obligations.ServiceRequests : Prop :=
  ∀ (s : State) (p : Nat), p < 4 →
    let answered := fun (i : Instr) (st x : Word) (f : State → Prop) => Happens (exec i s) (fun u =>
      (u.box p).ans = [st, x] ∧ (u.box p).busy = false ∧ f u)
    (s.input.port = p → (s.box p).busy = false → 10 ≤ s.bring → bits s.input.word 12 52 = 0 → Happens (exec .mailboxGo s) (fun u =>
      (u.box p).busy = true ∧ u.boxq = s.boxq ++ [p] ∧ (u.box p).svc = s.input.word ∧ u.mem = s.mem ∧
        u.awaits (serviceOf (bits s.input.word 0 12)))) ∧
    (s.input.who = .mailbox p → s.input.code = 0 → s.boxq.head? = some p →
      let a := (s.box p).args
      answered .query 0 (BitVec.ofNat 64 (s.firmwareVersion 0)) (fun u => u.mem = s.mem) ∧
      answered .unknownService 4 0 (fun u => u.mem = s.mem) ∧
      answered .sectorRead 1 0 (fun u => u.mem = s.mem) ∧
      (s.readEntry (a.getD 0 0) = none → answered .ctxCreate 1 0 (fun u => u.mem = s.mem) ∧ answered .ctxChange 1 0 (fun u => u.mem = s.mem)) ∧
      (∀ c, s.readEntry (a.getD 0 0) = some c →
        ((s.ctx? c.id).isSome = true → answered .ctxCreate 1 0 (fun u => u.mem = s.mem)) ∧
        (s.ctx? c.id = none → s.lacks c = true → answered .ctxCreate 2 0 (fun u => u.mem = s.mem)) ∧
        (s.ctx? c.id = none → s.lacks c = false → c.wins = [] →
          answered .ctxCreate 0 (s.groundAt c) (fun u => u.ctx? c.id = some { c with gsb := s.groundAt c, wins := [] })) ∧
        (∀ old, s.ctx? c.id = some old → old.id = c.id → old.rel7 = c.rel7 → old.pmax = c.pmax → old.lx0 = c.lx0 → old.ly0 = c.ly0 →
          old.lx1 = c.lx1 → old.ly1 = c.ly1 → old.root = c.root → old.svimg = c.svimg → old.hset = c.hset →
          c.wext = [] → c.wins = [] → old.wins = [] → answered .ctxChange 0 0 (fun u => u.mem = s.mem ∧
            ∃ x, u.ctx? c.id = some x ∧ x.panels = c.panels ∧ x.qnt = c.qnt ∧ x.stealAge = c.stealAge ∧ x.wext = c.wext))) ∧
      (s.ctx? (bits (a.getD 0 0) 0 12) = none → answered .ctxDestroy 1 0 (fun u => u.mem = s.mem)) ∧
      (s.grantNamed = none → answered .winGrant 1 0 (fun u => u.mem = s.mem) ∧ answered .winRevoke 1 0 (fun u => u.mem = s.mem)) ∧
      (∀ acc w c, s.grantNamed = some (acc, w) → s.ctx? acc = some c →
        (c.wins.length < 8 → answered .winGrant 0 0 (fun u => u.mem = s.mem ∧ ∃ x, u.ctx? acc = some x ∧ w ∈ x.wins)) ∧
        (w ∈ c.wins → Happens (exec .winRevoke s) (fun u => u.mem = s.mem ∧ u.awaits .winRevoke ∧ ∃ x, u.ctx? acc = some x ∧ w ∉ x.wins))) ∧
      (∀ l, (a.getD 0 0).toNat < 136 → (a.getD 1 0).toNat + (a.getD 2 0).toNat ≤ 2 ^ 31 → (s.mdie (a.getD 0 0).toNat).up = true →
        s.ctxs.any (fun c => c.2.wext.any (fun e => e.holds (a.getD 0 0).toNat (a.getD 1 0).toNat (a.getD 2 0).toNat)) = true →
        s.svcBytes (a.getD 3 0) (a.getD 2 0).toNat = some l → s.launches = [] →
        answered .wsLoad 0 (a.getD 2 0) (fun u => u.mem = writeList s.mem (physWeight (a.getD 0 0).toNat (a.getD 1 0).toNat) l)) ∧
      (∀ w, s.svcWords (a.getD 1 0) 8 = some w →
        ((a.getD 0 0).toNat < 128 → bits (cw w 0) 0 8 = 0 → 4 ≤ bits (cw w 1) 0 5 → bits (cw w 1) 0 5 ≤ 16 → bits (cw w 1) 22 42 = 0 →
          (∀ i, i < 5 → cw w (3 + i) = 0) → answered .queueSet 0 0 (fun u => (u.queue (a.getD 0 0).toNat).base = cw w 0 ∧
            (u.queue (a.getD 0 0).toNat).log2cap = bits (cw w 1) 0 5 ∧ (u.queue (a.getD 0 0).toNat).cidxA = cw w 2)) ∧
        (128 ≤ (a.getD 0 0).toNat → answered .queueSet 1 0 (fun u => u.mem = s.mem))) ∧
      (64 ≤ (a.getD 0 0).toNat → (a.getD 0 0).toNat < 128 → (s.ctx? (s.queue (a.getD 0 0).toNat).ctx).isSome = true →
        answered .queueKick 0 0 (fun u => RegsKept s u ∧ ∀ v : BitVec 32, (a.getD 1 0).toNat = v.toNat →
          (let q := s.queue (a.getD 0 0).toNat
           10 ≤ s.bring → q.en = true → 0 < (v - q.pidx).toNat → (v - q.pidx).toNat < 2 ^ 31 → (v - q.cidx).toNat ≤ 2 ^ q.log2cap →
             (u.queue (a.getD 0 0).toNat).pidx = v))) ∧
      ((a.getD 0 0).toNat < 64 → answered .queueKick 1 0 (fun u => u.mem = s.mem))) ∧
    (s.input.who = .mailbox p → s.input.code = 1 →
      (∀ v, s.tearReady s.input.unit = some v → v.spillsLeft (v.coresOf s.input.unit) = false →
        answered .ctxDestroy 0 (BitVec.ofNat 64 ((s.input.pairs.headD (0, 0)).1)) (fun u => u.ctx? s.input.unit = none)) ∧
      (∀ w, windowOf s.input.word 0 = some w → s.usesGrant s.input.unit w = false → answered .winRevoke 0 0 (fun u => u.mem = s.mem))) ∧
    (∀ k t c r e n, s.input.who = .thread k t → s.input.code = 0 → (s.thread k t).fwreq = some r →
      (s.cdie (dieOfCore k)).fwq.find? (fun x => (s.thread x.1 x.2).fwreq.isSome) = some (k, t % 8) →
      s.ctx? (s.core k).owner = some c → isContextVa (r.args.getD 0 0) = true → bits (r.args.getD 0 0) 0 5 = 0 →
      s.leafOf c (r.args.getD 0 0) = .leaf e n → bit e 7 = true → (∀ i, i < 2048 → (s.svcPlace .store (r.args.getD 1 0 + BitVec.ofNat 64 i)).isSome = true) →
      Happens (exec .sectorRead s) (fun u => ∃ x, (u.thread k t).grant = some [0, x] ∧ (u.thread k t).fwreq = none))

/-- 13 R370, R371; 15 R428: the responder answers every request of SPDM and PLDM on the port it came on: its version, its capabilities,
the algorithms when both are offered, digests, certificates, challenges and measurements, and an error for what it has not. -/
def Obligations.AttestationRequests : Prop :=
  ∀ (s : State), let p := s.input.port % 5
    let tells := fun (i : Instr) (r : SpdmRsp) (d : List Byte) => Happens (exec i s) (fun u => u.out = s.out ++ [.spdm p r d] ∧ u.mem = s.mem ∧ RegsKept s u)
    Happens (exec .getVersion s) (fun u => u.out = s.out ++ [.spdm p .version [0x13]] ∧ u.transcript p = s.input.bytes ++ [0x13] ∧ u.mem = s.mem) ∧
    tells .getCapabilities .capabilities [0x16] ∧
    (s.input.pairs.contains extAsym = true → s.input.pairs2.contains extHash = true →
      ∃ d, tells .negotiateAlgorithms .algorithms d) ∧
    (s.input.pairs.contains extAsym = false → tells .negotiateAlgorithms .negotiationFailed []) ∧
    tells .getDigests .digests (if s.chain 0 = [] then [] else leBytes 64 (Config.shake256 (s.chain 0)).toNat) ∧
    tells .getCertificate (if s.input.code < (s.chain s.input.unit).length then .certificate else .invalidRequest)
      (((s.chain s.input.unit).drop s.input.code).take s.input.word.toNat) ∧
    (∃ d, tells .challenge (if s.chain s.input.unit = [] then .invalidRequest else .challengeAuth) d) ∧
    (s.input.unit ≠ 0 → tells .getCertificate .invalidRequest [] ∧ tells .challenge .invalidRequest []) ∧
    (s.input.unit = 0 → tells .getMeasurements .invalidRequest []) ∧
    (1 ≤ s.input.unit → s.input.unit ≤ 141 → s.input.ok = false →
      tells .getMeasurements .measurements (s.blockBytes s.input.code s.input.unit)) ∧
    tells .unsupportedRequest .unsupportedRequest [] ∧
    Happens (exec .pldmPlatformMonitoring s) (fun u => u.mem = s.mem ∧
      u.out = s.out ++ [.pldm s.input.code (s.sensorValue s.input.code s.input.unit s.input.word.toNat)]) ∧
    (s.input.code = 0x11 → Happens (exec .pldmFirmwareUpdate s) (fun u => u.awaits .firmwareUpdate ∧ u.mem = s.mem)) ∧
    (s.input.code = 0x20 → Happens (exec .pldmFirmwareUpdate s) (fun u => u.mem = s.mem ∧
      AMap.get? u.images 0x20 = some { bytes := s.input.bytes, sig := s.input.more, version := s.input.word.toNat }))

/-! ### Encoding, the step and its invariant (02, 03) -/

/-- 02 R30; 03 R74; 04 R90, R92 to R96, R104, R108: words written out from the encoding tables decode to the instructions they stand
for. -/
def Obligations.WordsOfTheTablesDecode : Prop :=
  decodeBundle 0x000000000220A317 = .ok (.pair (.sraw 4 5 6) .nop) ∧
  decodeBundle 0x0000000004182105 = .ok (.pair (.div 3 1 2) .nop) ∧
  decodeBundle 0x000000000639048C = .ok (.pair (.lea3 7 8 9) .nop) ∧
  decodeBundle 0x000000001A189FFF = .ok (.pair (.sltiu 3 4 0x1FFF) .nop) ∧
  decodeBundle 0x0000000024280012 = .ok (.pair (.lui 5 0x12) .nop) ∧
  decodeBundle 0x8027FFFFFFFFFFFE = .ok (.long (.movl 9 0x3FFFFFFFFFFFE)) ∧
  decodeBundle 0x0000000038084003 = .ok (.pair (.bltu 1 2 3) .nop) ∧
  decodeBundle 0x000000004400012C = .ok (.pair (.svc 300) .nop) ∧
  decodeBundle 0x0000000042000000 = .ok (.pair .endThread .nop)

/-- 02 R30, R44, R45; 03 R74, R84, R86: a bundle of well-formed instructions decodes from its words to itself, every operand at every
value its encoding admits; and a 64-bit word that decodes is the encoding of what it decodes to, well formed: no bit of it is
ignored. -/
def Obligations.DecodeAndEncodeAgree : Prop :=
  (∀ (b : Bundle) (w : Nat), b.parts.all wellFormed = true → encodeBundle b = some w → w < 2 ^ 64 ∧ decodeBundle w = .ok b) ∧
  (∀ (b : Bundle) (w : Nat), w < 2 ^ 64 → decodeBundle w = .ok b → encodeBundle b = some w ∧ b.parts.all wellFormed = true)

/-- 01 R22; 02 R35, R36; 12 R332, R333: when the slot of a cycle is offered and the bundle at the thread's program counter decodes, the
step is the bundle's instruction (of a pair the one that is no NOP, or both as 02 R36 runs them), a reserved encoding taken as the
trap form, with the boundary after it, the bundles whose waits it has ended retire with it, and the slot moves on; a bundle whose accesses lose a bank changes nothing, and its slot is
forfeited. A waiting event is tried when its turn in the cycle comes. -/
def Obligations.StepRunsTheDecodedInstruction : Prop :=
  ∀ (s : State),
    (∀ k, turnCore? s = some k → let t := s.clock % 8
      let th := s.thread k t
      s.budget = 0 → s.pairTraps k t = false → s.offers k t = true → th.classA = [] → s.buffering = false → ∀ w, s.fetch k t = .ok w → s.fetchWaits k t = false →
      let u := ({ s with
        cur := { Cur.idle with core := k, thr := t, bundle := w, pre := some th },
        input := { Input.none with blocked := s.blockedNow } }).fetched k t
      let runs := fun (v : State) =>
        (issueReq k t s v = none → step s = .next (nextTurn k (retireGranted s v))) ∧
        (∀ r, issueReq k t s v = some r →
          (s.bankTaken r = false → step s = .next (nextTurn k (retireGranted s { v with banks := v.banks ++ r.wants }))) ∧
          (s.bankTaken r = true → step s = .next (nextTurn k s)))
      (∀ i v, decodeBundle w.toNat = .ok (.pair i .nop) ∨ decodeBundle w.toNat = .ok (.long i) → boundary (exec i u) = .next v → runs v) ∧
      (∀ i v, i ≠ .nop → decodeBundle w.toNat = .ok (.pair .nop i) → boundary (exec i u) = .next v → runs v) ∧
      (∀ i j v, i ≠ .nop → j ≠ .nop → decodeBundle w.toNat = .ok (.pair i j) → boundary (runBoth i j u) = .next v → runs v) ∧
      (∀ e v, decodeBundle w.toNat = .error e → boundary (exec .reservedEncoding u) = .next v → runs v)) ∧
    (∀ e l, 0 < s.budget → s.picks = [] → s.agenda = e :: l →
      step s = tryEvent e { s with budget := s.budget - 1, agenda := l })

/-- Every step answers a next state: no state stops the panel (02 R35; 14 R380). -/
def Obligations.EveryStepGoesOn : Prop := ∀ (s : State), s.goesOn

/-- 02 R46 to R48, 14 R375: s0 reads zero and q0 all ones, writes of them change nothing; any other register reads what was last
written, and no other register changes with it; s60 to s63 have a bank for each mode. -/
def Obligations.RegistersReadWhatWasWritten : Prop :=
  ∀ (th : Thread) (n m : BitVec 6) (x : Word) (i j : BitVec 3) (y : Mask),
    th.readS 0 = 0 ∧ th.writeS 0 x = th ∧ th.readQ 0 = BitVec.allOnes 128 ∧ th.writeQ 0 y = th ∧
    (n ≠ 0 → (th.writeS n x).readS n = x) ∧ (m ≠ n → (th.writeS n x).readS m = th.readS m) ∧
    (i ≠ 0 → (th.writeQ i y).readQ i = y) ∧ (j ≠ i → (th.writeQ i y).readQ j = th.readQ j) ∧
    (60 ≤ n.toNat → ∀ a b : Mode, a ≠ b → { ({ th with mode := a }.writeS n x) with mode := b }.readS n = { th with mode := b }.readS n)

/-- 01 R17; 02 R46; 10 R279; 15 R408: after reset no thread runs, no context exists and memory lists nothing, in its canonical form. -/
def Obligations.ResetState : Prop :=
  State.reset.memInv ∧ State.reset.mem = [] ∧ State.reset.ctxs = [] ∧ State.reset.agenda = [] ∧
  State.reset.wmlag = 80000 ∧ State.reset.rto = 4000000 ∧ State.reset.bring = 0 ∧
  ∀ k t, (State.reset.thread k t).st = .free ∧ (State.reset.thread k t).mode = .user ∧ (State.reset.thread k t).intrap = false

/-- The list form of memory (log 2) is kept by every step: addresses strictly rise, and no cell reads as an unlisted one. -/
def Obligations.StepKeepsMemoryCanonical : Prop := ∀ (s t : State), s.memInv → step s = .next t → t.memInv
end

