-- ==== Sys2Proof/Laws/Maps.lean ====
section
/-! SUPPORT. Laws of the sparse maps and of byte memory: reads after writes, and the canonical form that every write keeps. -/

namespace Sys2Proof

variable {α : Type}

/-- Erasing a key leaves no pair with it. -/
@[simp] theorem AMap.get?_erase_same (m : AMap α) (k : Nat) : AMap.get? (AMap.erase m k) k = none := by
  induction m with
  | nil => rfl
  | cons p r ih => obtain ⟨j, v⟩ := p; by_cases h : j = k <;> simp [AMap.erase, AMap.get?, h, ih]

/-- Erasing a key leaves the others. -/
theorem AMap.get?_erase_of_ne (m : AMap α) {j k : Nat} (h : j ≠ k) : AMap.get? (AMap.erase m k) j = AMap.get? m j := by
  induction m with
  | nil => rfl
  | cons p r ih =>
    obtain ⟨i, v⟩ := p
    by_cases hi : i = k
    · subst hi; simp [AMap.erase, AMap.get?, ih, Ne.symm h]
    · simp [AMap.erase, AMap.get?, hi, ih]

/-- Inserting a key that is absent maps it. -/
theorem AMap.get?_insert_same (m : AMap α) (k : Nat) (x : α) (h : AMap.get? m k = none) :
    AMap.get? (AMap.insert m k x) k = some x := by
  induction m with
  | nil => simp [AMap.insert, AMap.get?]
  | cons p r ih =>
    obtain ⟨j, v⟩ := p
    by_cases hj : j = k
    · simp [AMap.get?, hj] at h
    · rw [AMap.get?, if_neg hj] at h
      by_cases hk : k < j <;> simp [AMap.insert, AMap.get?, hk, hj, ih h]

/-- Inserting a key leaves the others. -/
theorem AMap.get?_insert_of_ne (m : AMap α) {j k : Nat} (x : α) (h : j ≠ k) :
    AMap.get? (AMap.insert m k x) j = AMap.get? m j := by
  induction m with
  | nil => simp [AMap.insert, AMap.get?, Ne.symm h]
  | cons p r ih =>
    obtain ⟨i, v⟩ := p
    by_cases hk : k < i
    · simp [AMap.insert, AMap.get?, hk, Ne.symm h]
    · simp [AMap.insert, AMap.get?, hk, ih]

/-- A key written reads back. -/
@[simp] theorem AMap.get?_set_same (m : AMap α) (k : Nat) (x : α) : AMap.get? (AMap.set m k x) k = some x :=
  AMap.get?_insert_same _ _ _ (AMap.get?_erase_same m k)

/-- A write leaves the other keys. -/
theorem AMap.get?_set_of_ne (m : AMap α) {j k : Nat} (x : α) (h : j ≠ k) :
    AMap.get? (AMap.set m k x) j = AMap.get? m j := by
  rw [AMap.set, AMap.get?_insert_of_ne _ _ h, AMap.get?_erase_of_ne _ h]

/-- A key written reads back, with a default. -/
@[simp] theorem AMap.getD_set_same (d : α) (m : AMap α) (k : Nat) (x : α) : AMap.getD d (AMap.set m k x) k = x := by
  simp [AMap.getD]

/-- A write leaves the other keys, with a default. -/
theorem AMap.getD_set_of_ne (d : α) (m : AMap α) {j k : Nat} (x : α) (h : j ≠ k) :
    AMap.getD d (AMap.set m k x) j = AMap.getD d m j := by
  simp [AMap.getD, AMap.get?_set_of_ne m x h]

/-- A read of one byte after a write of one (08 R208): the byte written at its address, and elsewhere what stood there. -/
theorem Memory.get_set (m : Memory) (a b : Nat) (x : Byte) :
    Memory.get (Memory.set m a x) b = if b = a then x else Memory.get m b := by
  unfold Memory.get Memory.set
  by_cases hx : x = Memory.unlisted
  · by_cases h : b = a
    · subst h; simp [hx, AMap.getD]
    · simp [hx, h, AMap.getD, AMap.get?_erase_of_ne m h]
  · by_cases h : b = a
    · subst h; simp [hx]
    · simp [hx, h, AMap.getD_set_of_ne _ m x h]

/-- Erasing what was inserted. -/
theorem AMap.erase_insert (m : AMap α) (k : Nat) (x : α) : AMap.erase (AMap.insert m k x) k = AMap.erase m k := by
  induction m with
  | nil => simp [AMap.insert, AMap.erase]
  | cons p r ih =>
    obtain ⟨j, v⟩ := p
    by_cases hk : k < j
    · simp [AMap.insert, AMap.erase, hk]
    · simp [AMap.insert, AMap.erase, hk, ih]

/-- Erasing twice. -/
theorem AMap.erase_erase (m : AMap α) (k : Nat) : AMap.erase (AMap.erase m k) k = AMap.erase m k := by
  induction m with
  | nil => rfl
  | cons p r ih =>
    obtain ⟨j, v⟩ := p
    by_cases h : j = k <;> simp [AMap.erase, h, ih]

/-- The later of two writes of a key stands. -/
@[simp] theorem AMap.set_set (m : AMap α) (k : Nat) (x y : α) : AMap.set (AMap.set m k x) k y = AMap.set m k y := by
  simp [AMap.set, AMap.erase_insert, AMap.erase_erase]

/-- A larger lower bound is a stronger claim. -/
theorem AMap.risingFrom_mono (m : AMap α) {lo hi : Nat} (h : lo ≤ hi) (hm : AMap.risingFrom hi m = true) :
    AMap.risingFrom lo m = true := by
  cases m with
  | nil => rfl
  | cons p r => simp only [AMap.risingFrom, Bool.and_eq_true, decide_eq_true_eq] at hm ⊢; exact ⟨by omega, hm.2⟩

/-- Erasing keeps the keys rising. -/
theorem AMap.risingFrom_erase (m : AMap α) (k lo : Nat) (hm : AMap.risingFrom lo m = true) :
    AMap.risingFrom lo (AMap.erase m k) = true := by
  induction m generalizing lo with
  | nil => rfl
  | cons p r ih =>
    obtain ⟨j, v⟩ := p
    simp only [AMap.risingFrom, Bool.and_eq_true, decide_eq_true_eq] at hm
    by_cases h : j = k
    · simp only [AMap.erase, h, if_true]; exact AMap.risingFrom_mono _ (by omega) (ih (j + 1) hm.2)
    · simp only [AMap.erase, h, if_false, AMap.risingFrom, Bool.and_eq_true, decide_eq_true_eq]
      exact ⟨hm.1, ih _ hm.2⟩

/-- Erasing leaves no pair of the key. -/
theorem AMap.erase_ne (m : AMap α) (k : Nat) : ∀ p ∈ AMap.erase m k, p.1 ≠ k := by
  induction m with
  | nil => simp [AMap.erase]
  | cons p r ih =>
    obtain ⟨j, v⟩ := p
    by_cases h : j = k
    · simpa [AMap.erase, h] using ih
    · simp only [AMap.erase, h, if_false, List.mem_cons]
      rintro q (rfl | hq)
      · exact h
      · exact ih q hq

/-- Inserting an absent key keeps the keys rising. -/
theorem AMap.risingFrom_insert (m : AMap α) (k lo : Nat) (x : α) (hk : lo ≤ k) (hn : ∀ p ∈ m, p.1 ≠ k)
    (hm : AMap.risingFrom lo m = true) : AMap.risingFrom lo (AMap.insert m k x) = true := by
  induction m generalizing lo with
  | nil => simp [AMap.insert, AMap.risingFrom, hk]
  | cons p r ih =>
    obtain ⟨j, v⟩ := p
    simp only [AMap.risingFrom, Bool.and_eq_true, decide_eq_true_eq] at hm
    have hj : j ≠ k := hn (j, v) (by simp)
    by_cases h : k < j
    · simp only [AMap.insert, h, if_true, AMap.risingFrom, Bool.and_eq_true, decide_eq_true_eq]
      exact ⟨hk, by omega, hm.2⟩
    · simp only [AMap.insert, h, if_false, AMap.risingFrom, Bool.and_eq_true, decide_eq_true_eq]
      exact ⟨hm.1, ih (j + 1) (by omega) (fun q hq => hn q (by simp [hq])) hm.2⟩

/-- A write keeps the keys rising. -/
theorem AMap.risingFrom_set (m : AMap α) (k lo : Nat) (x : α) (hk : lo ≤ k) (hm : AMap.risingFrom lo m = true) :
    AMap.risingFrom lo (AMap.set m k x) = true :=
  AMap.risingFrom_insert _ _ _ _ hk (AMap.erase_ne m k) (AMap.risingFrom_erase m k lo hm)

/-- Erasing lists nothing new. -/
theorem Memory.noUnlisted_erase (m : Memory) (k : Nat) (hm : Memory.noUnlisted m = true) :
    Memory.noUnlisted (AMap.erase m k) = true := by
  induction m with
  | nil => rfl
  | cons p r ih =>
    obtain ⟨j, v⟩ := p
    simp only [Memory.noUnlisted, Bool.and_eq_true] at hm
    by_cases h : j = k
    · simpa [AMap.erase, h] using ih hm.2
    · simp only [AMap.erase, h, if_false, Memory.noUnlisted, Bool.and_eq_true]; exact ⟨hm.1, ih hm.2⟩

/-- Inserting a byte that an unlisted address does not read as. -/
theorem Memory.noUnlisted_insert (m : Memory) (k : Nat) (x : Byte) (hx : x ≠ Memory.unlisted)
    (hm : Memory.noUnlisted m = true) : Memory.noUnlisted (AMap.insert m k x) = true := by
  induction m with
  | nil => simp [AMap.insert, Memory.noUnlisted, hx]
  | cons p r ih =>
    obtain ⟨j, v⟩ := p
    simp only [Memory.noUnlisted, Bool.and_eq_true] at hm
    by_cases h : k < j
    · simp [AMap.insert, h, Memory.noUnlisted, hx, hm]
    · simp only [AMap.insert, h, if_false, Memory.noUnlisted, Bool.and_eq_true]; exact ⟨hm.1, ih hm.2⟩

/-- Writing one byte keeps the canonical form. -/
theorem Memory.wf_set (m : Memory) (a : Nat) (x : Byte) (hm : Memory.wf m = true) : Memory.wf (Memory.set m a x) = true := by
  simp only [Memory.wf, Bool.and_eq_true] at hm ⊢
  unfold Memory.set
  by_cases hx : x = Memory.unlisted
  · simp only [hx, if_true]
    exact ⟨AMap.risingFrom_erase m a 0 hm.1, Memory.noUnlisted_erase m a hm.2⟩
  · simp only [hx, if_false]
    exact ⟨AMap.risingFrom_set m a 0 x (Nat.zero_le _) hm.1, Memory.noUnlisted_insert _ _ _ hx (Memory.noUnlisted_erase m a hm.2)⟩

/-- Leaving cells out keeps the keys rising. -/
theorem AMap.risingFrom_filter (m : AMap α) (p : Nat × α → Bool) (lo : Nat) (hm : AMap.risingFrom lo m = true) :
    AMap.risingFrom lo (m.filter p) = true := by
  induction m generalizing lo with
  | nil => rfl
  | cons c r ih =>
    obtain ⟨j, v⟩ := c
    simp only [AMap.risingFrom, Bool.and_eq_true, decide_eq_true_eq] at hm
    by_cases h : p (j, v) = true
    · rw [List.filter_cons_of_pos h]
      simp only [AMap.risingFrom, Bool.and_eq_true, decide_eq_true_eq]
      exact ⟨hm.1, ih (j + 1) hm.2⟩
    · rw [List.filter_cons_of_neg (by simpa using h)]
      exact AMap.risingFrom_mono _ (by omega) (ih (j + 1) hm.2)

/-- Leaving cells out keeps the canonical form. -/
theorem Memory.wf_filter (m : Memory) (p : Host.Cell → Bool) (hm : Memory.wf m = true) : Memory.wf (m.filter p) = true := by
  simp only [Memory.wf, Bool.and_eq_true] at hm ⊢
  refine ⟨AMap.risingFrom_filter m p 0 hm.1, ?_⟩
  have h := hm.2
  clear hm
  induction m with
  | nil => rfl
  | cons c r ih =>
    obtain ⟨j, v⟩ := c
    simp only [Memory.noUnlisted, Bool.and_eq_true] at h
    by_cases hp : p (j, v) = true
    · rw [List.filter_cons_of_pos hp]; simp only [Memory.noUnlisted, Bool.and_eq_true]; exact ⟨h.1, ih h.2⟩
    · rw [List.filter_cons_of_neg (by simpa using hp)]; exact ih h.2

end Sys2Proof
end

