-- ==== Sys2Proof/Laws/State.lean ====
section
/-! SUPPORT. Laws of the state: what each update leaves as it was, and what the reads of cores, threads and registers give
after a write of one. -/

namespace Sys2Proof.Machine

/-! ### Cores -/

@[simp] theorem State.core_setCore_same (s : State) (k : Nat) (c : Core) : (s.setCore k c).core k = c := by
  simp [State.core, State.setCore]

theorem State.core_setCore_of_ne (s : State) {j k : Nat} (c : Core) (h : j ≠ k) : (s.setCore k c).core j = s.core j := by
  simp [State.core, State.setCore, AMap.getD_set_of_ne _ _ _ h]

@[simp] theorem State.core_modCore_same (s : State) (k : Nat) (f : Core → Core) : (s.modCore k f).core k = f (s.core k) := by
  simp [State.modCore]

theorem State.core_modCore_of_ne (s : State) {j k : Nat} (f : Core → Core) (h : j ≠ k) : (s.modCore k f).core j = s.core j := by
  simp [State.modCore, State.core_setCore_of_ne _ _ h]

@[simp] theorem State.core_verdict (s : State) (v : Verdict) (k : Nat) : (s.verdict v).core k = s.core k := rfl

@[simp] theorem State.core_post (s : State) (i : Instr) (k : Nat) : (s.post i).core k = s.core k := rfl

@[simp] theorem State.core_postIn (s : State) (i : Instr) (x : Input) (k : Nat) : (s.postIn i x).core k = s.core k := rfl

/-! ### Threads -/

@[simp] theorem Core.thread_setThread_same (c : Core) (t : Nat) (th : Thread) : (c.setThread t th).thread t = th := by
  simp [Core.thread, Core.setThread]

theorem Core.thread_setThread_of_ne (c : Core) {j t : Nat} (th : Thread) (h : j % 8 ≠ t % 8) :
    (c.setThread t th).thread j = c.thread j := by
  simp [Core.thread, Core.setThread, Ne.symm h]

@[simp] theorem Core.setThread_poison (c : Core) (t : Nat) (th : Thread) : (c.setThread t th).poison = c.poison := rfl

@[simp] theorem State.thread_setThread_same (s : State) (k t : Nat) (th : Thread) : (s.setThread k t th).thread k t = th := by
  simp [State.thread, State.setThread]

@[simp] theorem State.thread_modThread_same (s : State) (k t : Nat) (f : Thread → Thread) :
    (s.modThread k t f).thread k t = f (s.thread k t) := by
  simp [State.modThread]

theorem State.thread_modThread_of_ne (s : State) {k t j i : Nat} (f : Thread → Thread) (h : j ≠ k ∨ i % 8 ≠ t % 8) :
    (s.modThread k t f).thread j i = s.thread j i := by
  by_cases hk : j = k
  · subst hk
    have hi : i % 8 ≠ t % 8 := h.resolve_left (fun h => h rfl)
    simp [State.modThread, State.setThread, State.thread, Core.thread_setThread_of_ne _ _ hi]
  · simp [State.modThread, State.setThread, State.thread, State.core_modCore_of_ne _ _ hk]

@[simp] theorem State.th_modTh (s : State) (f : Thread → Thread) : (s.modTh f).th = f s.th :=
  State.thread_modThread_same s s.cur.core s.cur.thr f

@[simp] theorem State.th_verdict (s : State) (v : Verdict) : (s.verdict v).th = s.th := rfl

@[simp] theorem State.own_verdict (s : State) (v : Verdict) : (s.verdict v).own = s.own := rfl

@[simp] theorem State.own_modTh (s : State) (f : Thread → Thread) : (s.modTh f).own = s.own.setThread s.cur.thr (f s.th) :=
  State.core_modCore_same s s.cur.core _

@[simp] theorem State.own_modOwn (s : State) (f : Core → Core) : (s.modOwn f).own = f s.own :=
  State.core_modCore_same s s.cur.core f

theorem State.setCore_setCore (s : State) (k : Nat) (c d : Core) : (s.setCore k c).setCore k d = s.setCore k d := by
  simp [State.setCore]

theorem Core.setThread_setThread (c : Core) (t : Nat) (x y : Thread) : (c.setThread t x).setThread t y = c.setThread t y := by
  simp [Core.setThread]

/-- Two changes of the issuing thread are one. -/
theorem State.modTh_modTh (s : State) (f g : Thread → Thread) : (s.modTh f).modTh g = s.modTh (fun th => g (f th)) := by
  have h : (s.modTh f).thread s.cur.core s.cur.thr = f s.th := State.th_modTh s f
  show ((s.modTh f).setCore s.cur.core (((s.modTh f).core s.cur.core).setThread s.cur.thr (g ((s.modTh f).thread s.cur.core s.cur.thr)))) = _
  rw [h]
  have h2 : (s.modTh f).core s.cur.core = s.own.setThread s.cur.thr (f s.th) := State.own_modTh s f
  rw [h2, Core.setThread_setThread]
  exact State.setCore_setCore s _ _ _

/-! ### Registers (02 R46 to R48, 14 R375) -/

@[simp] theorem Thread.readS_zero (th : Thread) : th.readS 0 = 0 := rfl

@[simp] theorem Thread.writeS_zero (th : Thread) (x : Word) : th.writeS 0 x = th := rfl

theorem Thread.writeS_mode (th : Thread) (n : BitVec 6) (x : Word) : (th.writeS n x).mode = th.mode := by
  unfold Thread.writeS; repeat' split
  all_goals rfl

theorem Thread.readS_writeS_same (th : Thread) (n : BitVec 6) (x : Word) (h : n ≠ 0) : (th.writeS n x).readS n = x := by
  unfold Thread.writeS Thread.readS
  by_cases h6 : n.toNat < 60
  · rw [if_neg h, if_neg h, if_pos h6, if_pos h6]; simp
  · rw [if_neg h, if_neg h, if_neg h6, if_neg h6]; cases hm : th.mode <;> simp

theorem Thread.readS_writeS_of_ne (th : Thread) {n m : BitVec 6} (x : Word) (h : m ≠ n) :
    (th.writeS n x).readS m = th.readS m := by
  have hv : n.toNat ≠ m.toNat := fun e => h (BitVec.eq_of_toNat_eq e.symm)
  unfold Thread.writeS Thread.readS
  by_cases hn : n = 0
  · simp [hn]
  by_cases hm : m = 0
  · simp [hm]
  have h1 := n.isLt; have h2 := m.isLt
  by_cases h6 : n.toNat < 60 <;> by_cases h7 : m.toNat < 60 <;>
    simp only [hn, hm, h6, h7, if_true, if_false] <;> cases hmode : th.mode <;>
    simp [Vector.getElem_set, hv]
  all_goals (intro e; omega)

@[simp] theorem Thread.readV_writeV_same (th : Thread) (n : BitVec 5) (x : Vec) : (th.writeV n x).readV n = x := by
  simp [Thread.readV, Thread.writeV]

theorem Thread.readV_writeV_of_ne (th : Thread) {n m : BitVec 5} (x : Vec) (h : m ≠ n) :
    (th.writeV n x).readV m = th.readV m := by
  have hv : n.toNat ≠ m.toNat := fun e => h (BitVec.eq_of_toNat_eq e.symm)
  simp [Thread.readV, Thread.writeV, hv]

@[simp] theorem Thread.readQ_zero (th : Thread) : th.readQ 0 = BitVec.allOnes 128 := rfl

@[simp] theorem Thread.writeQ_zero (th : Thread) (x : Mask) : th.writeQ 0 x = th := rfl

theorem Thread.readQ_writeQ_same (th : Thread) (n : BitVec 3) (x : Mask) (h : n ≠ 0) : (th.writeQ n x).readQ n = x := by
  unfold Thread.readQ Thread.writeQ
  rw [if_neg h, if_neg h]; simp

theorem Thread.readQ_writeQ_of_ne (th : Thread) {n m : BitVec 3} (x : Mask) (h : m ≠ n) :
    (th.writeQ n x).readQ m = th.readQ m := by
  have hv : n.toNat ≠ m.toNat := fun e => h (BitVec.eq_of_toNat_eq e.symm)
  by_cases hn : n = 0
  · subst hn; rfl
  · unfold Thread.readQ Thread.writeQ
    rw [if_neg hn]; simp [hv]

/-! ### What each update of the state leaves -/

@[simp] theorem State.setCore_clusters (s : State) (k : Nat) (c : Core) : (s.setCore k c).clusters = s.clusters := rfl
@[simp] theorem State.setCore_cdies (s : State) (k : Nat) (c : Core) : (s.setCore k c).cdies = s.cdies := rfl
@[simp] theorem State.setCore_mdies (s : State) (k : Nat) (c : Core) : (s.setCore k c).mdies = s.mdies := rfl
@[simp] theorem State.setCore_ctxs (s : State) (k : Nat) (c : Core) : (s.setCore k c).ctxs = s.ctxs := rfl
@[simp] theorem State.setCore_queues (s : State) (k : Nat) (c : Core) : (s.setCore k c).queues = s.queues := rfl
@[simp] theorem State.setCore_launches (s : State) (k : Nat) (c : Core) : (s.setCore k c).launches = s.launches := rfl
@[simp] theorem State.setCore_nextLaunch (s : State) (k : Nat) (c : Core) : (s.setCore k c).nextLaunch = s.nextLaunch := rfl
@[simp] theorem State.setCore_mem (s : State) (k : Nat) (c : Core) : (s.setCore k c).mem = s.mem := rfl
@[simp] theorem State.setCore_poison (s : State) (k : Nat) (c : Core) : (s.setCore k c).poison = s.poison := rfl
@[simp] theorem State.setCore_poisonWeight (s : State) (k : Nat) (c : Core) : (s.setCore k c).poisonWeight = s.poisonWeight := rfl
@[simp] theorem State.setCore_timeBase (s : State) (k : Nat) (c : Core) : (s.setCore k c).timeBase = s.timeBase := rfl
@[simp] theorem State.setCore_timeFloor (s : State) (k : Nat) (c : Core) : (s.setCore k c).timeFloor = s.timeFloor := rfl
@[simp] theorem State.setCore_wref (s : State) (k : Nat) (c : Core) : (s.setCore k c).wref = s.wref := rfl
@[simp] theorem State.setCore_capb (s : State) (k : Nat) (c : Core) : (s.setCore k c).capb = s.capb := rfl
@[simp] theorem State.setCore_smap (s : State) (k : Nat) (c : Core) : (s.setCore k c).smap = s.smap := rfl
@[simp] theorem State.setCore_rto (s : State) (k : Nat) (c : Core) : (s.setCore k c).rto = s.rto := rfl
@[simp] theorem State.setCore_wmlag (s : State) (k : Nat) (c : Core) : (s.setCore k c).wmlag = s.wmlag := rfl
@[simp] theorem State.setCore_panel (s : State) (k : Nat) (c : Core) : (s.setCore k c).panel = s.panel := rfl
@[simp] theorem State.setCore_sites (s : State) (k : Nat) (c : Core) : (s.setCore k c).sites = s.sites := rfl
@[simp] theorem State.setCore_sitesOut (s : State) (k : Nat) (c : Core) : (s.setCore k c).sitesOut = s.sitesOut := rfl
@[simp] theorem State.setCore_mailbox (s : State) (k : Nat) (c : Core) : (s.setCore k c).mailbox = s.mailbox := rfl
@[simp] theorem State.setCore_boxq (s : State) (k : Nat) (c : Core) : (s.setCore k c).boxq = s.boxq := rfl
@[simp] theorem State.setCore_winReqs (s : State) (k : Nat) (c : Core) : (s.setCore k c).winReqs = s.winReqs := rfl
@[simp] theorem State.setCore_rails (s : State) (k : Nat) (c : Core) : (s.setCore k c).rails = s.rails := rfl
@[simp] theorem State.setCore_bring (s : State) (k : Nat) (c : Core) : (s.setCore k c).bring = s.bring := rfl
@[simp] theorem State.setCore_ports (s : State) (k : Nat) (c : Core) : (s.setCore k c).ports = s.ports := rfl
@[simp] theorem State.setCore_derene (s : State) (k : Nat) (c : Core) : (s.setCore k c).derene = s.derene := rfl
@[simp] theorem State.setCore_ordered (s : State) (k : Nat) (c : Core) : (s.setCore k c).ordered = s.ordered := rfl
@[simp] theorem State.setCore_links (s : State) (k : Nat) (c : Core) : (s.setCore k c).links = s.links := rfl
@[simp] theorem State.setCore_mr68 (s : State) (k : Nat) (c : Core) : (s.setCore k c).mr68 = s.mr68 := rfl
@[simp] theorem State.setCore_tsrc (s : State) (k : Nat) (c : Core) : (s.setCore k c).tsrc = s.tsrc := rfl
@[simp] theorem State.setCore_spdm (s : State) (k : Nat) (c : Core) : (s.setCore k c).spdm = s.spdm := rfl
@[simp] theorem State.setCore_images (s : State) (k : Nat) (c : Core) : (s.setCore k c).images = s.images := rfl
@[simp] theorem State.setCore_out (s : State) (k : Nat) (c : Core) : (s.setCore k c).out = s.out := rfl
@[simp] theorem State.setCore_quarantined (s : State) (k : Nat) (c : Core) : (s.setCore k c).quarantined = s.quarantined := rfl
@[simp] theorem State.setCore_calib (s : State) (k : Nat) (c : Core) : (s.setCore k c).calib = s.calib := rfl
@[simp] theorem State.setCore_retries (s : State) (k : Nat) (c : Core) : (s.setCore k c).retries = s.retries := rfl
@[simp] theorem State.setCore_refresh (s : State) (k : Nat) (c : Core) : (s.setCore k c).refresh = s.refresh := rfl
@[simp] theorem State.setCore_refreshOpen (s : State) (k : Nat) (c : Core) : (s.setCore k c).refreshOpen = s.refreshOpen := rfl
@[simp] theorem State.setCore_rlcMiB (s : State) (k : Nat) (c : Core) : (s.setCore k c).rlcMiB = s.rlcMiB := rfl
@[simp] theorem State.setCore_rotation (s : State) (k : Nat) (c : Core) : (s.setCore k c).rotation = s.rotation := rfl
@[simp] theorem State.setCore_replacing (s : State) (k : Nat) (c : Core) : (s.setCore k c).replacing = s.replacing := rfl
@[simp] theorem State.setCore_free (s : State) (k : Nat) (c : Core) : (s.setCore k c).free = s.free := rfl
@[simp] theorem State.setCore_agenda (s : State) (k : Nat) (c : Core) : (s.setCore k c).agenda = s.agenda := rfl
@[simp] theorem State.setCore_input (s : State) (k : Nat) (c : Core) : (s.setCore k c).input = s.input := rfl
@[simp] theorem State.setCore_budget (s : State) (k : Nat) (c : Core) : (s.setCore k c).budget = s.budget := rfl
@[simp] theorem State.setCore_picks (s : State) (k : Nat) (c : Core) : (s.setCore k c).picks = s.picks := rfl
@[simp] theorem State.setCore_piecewise (s : State) (k : Nat) (c : Core) : (s.setCore k c).piecewise = s.piecewise := rfl
@[simp] theorem State.setCore_buffering (s : State) (k : Nat) (c : Core) : (s.setCore k c).buffering = s.buffering := rfl
@[simp] theorem State.setCore_clock (s : State) (k : Nat) (c : Core) : (s.setCore k c).clock = s.clock := rfl
@[simp] theorem State.setCore_turn (s : State) (k : Nat) (c : Core) : (s.setCore k c).turn = s.turn := rfl
@[simp] theorem State.setCore_lag (s : State) (k : Nat) (c : Core) : (s.setCore k c).lag = s.lag := rfl
@[simp] theorem State.setCore_late (s : State) (k : Nat) (c : Core) : (s.setCore k c).late = s.late := rfl
@[simp] theorem State.setCore_banks (s : State) (k : Nat) (c : Core) : (s.setCore k c).banks = s.banks := rfl
@[simp] theorem State.setCore_bankq (s : State) (k : Nat) (c : Core) : (s.setCore k c).bankq = s.bankq := rfl
@[simp] theorem State.setCore_cur (s : State) (k : Nat) (c : Core) : (s.setCore k c).cur = s.cur := rfl

@[simp] theorem State.modCluster_cores (s : State) (k : Nat) (f : Cluster → Cluster) : (s.modCluster k f).cores = s.cores := rfl
@[simp] theorem State.modCluster_cdies (s : State) (k : Nat) (f : Cluster → Cluster) : (s.modCluster k f).cdies = s.cdies := rfl
@[simp] theorem State.modCluster_mdies (s : State) (k : Nat) (f : Cluster → Cluster) : (s.modCluster k f).mdies = s.mdies := rfl
@[simp] theorem State.modCluster_ctxs (s : State) (k : Nat) (f : Cluster → Cluster) : (s.modCluster k f).ctxs = s.ctxs := rfl
@[simp] theorem State.modCluster_queues (s : State) (k : Nat) (f : Cluster → Cluster) : (s.modCluster k f).queues = s.queues := rfl
@[simp] theorem State.modCluster_launches (s : State) (k : Nat) (f : Cluster → Cluster) : (s.modCluster k f).launches = s.launches := rfl
@[simp] theorem State.modCluster_nextLaunch (s : State) (k : Nat) (f : Cluster → Cluster) : (s.modCluster k f).nextLaunch = s.nextLaunch := rfl
@[simp] theorem State.modCluster_mem (s : State) (k : Nat) (f : Cluster → Cluster) : (s.modCluster k f).mem = s.mem := rfl
@[simp] theorem State.modCluster_poison (s : State) (k : Nat) (f : Cluster → Cluster) : (s.modCluster k f).poison = s.poison := rfl
@[simp] theorem State.modCluster_poisonWeight (s : State) (k : Nat) (f : Cluster → Cluster) : (s.modCluster k f).poisonWeight = s.poisonWeight := rfl
@[simp] theorem State.modCluster_timeBase (s : State) (k : Nat) (f : Cluster → Cluster) : (s.modCluster k f).timeBase = s.timeBase := rfl
@[simp] theorem State.modCluster_timeFloor (s : State) (k : Nat) (f : Cluster → Cluster) : (s.modCluster k f).timeFloor = s.timeFloor := rfl
@[simp] theorem State.modCluster_wref (s : State) (k : Nat) (f : Cluster → Cluster) : (s.modCluster k f).wref = s.wref := rfl
@[simp] theorem State.modCluster_capb (s : State) (k : Nat) (f : Cluster → Cluster) : (s.modCluster k f).capb = s.capb := rfl
@[simp] theorem State.modCluster_smap (s : State) (k : Nat) (f : Cluster → Cluster) : (s.modCluster k f).smap = s.smap := rfl
@[simp] theorem State.modCluster_rto (s : State) (k : Nat) (f : Cluster → Cluster) : (s.modCluster k f).rto = s.rto := rfl
@[simp] theorem State.modCluster_wmlag (s : State) (k : Nat) (f : Cluster → Cluster) : (s.modCluster k f).wmlag = s.wmlag := rfl
@[simp] theorem State.modCluster_panel (s : State) (k : Nat) (f : Cluster → Cluster) : (s.modCluster k f).panel = s.panel := rfl
@[simp] theorem State.modCluster_sites (s : State) (k : Nat) (f : Cluster → Cluster) : (s.modCluster k f).sites = s.sites := rfl
@[simp] theorem State.modCluster_sitesOut (s : State) (k : Nat) (f : Cluster → Cluster) : (s.modCluster k f).sitesOut = s.sitesOut := rfl
@[simp] theorem State.modCluster_mailbox (s : State) (k : Nat) (f : Cluster → Cluster) : (s.modCluster k f).mailbox = s.mailbox := rfl
@[simp] theorem State.modCluster_boxq (s : State) (k : Nat) (f : Cluster → Cluster) : (s.modCluster k f).boxq = s.boxq := rfl
@[simp] theorem State.modCluster_winReqs (s : State) (k : Nat) (f : Cluster → Cluster) : (s.modCluster k f).winReqs = s.winReqs := rfl
@[simp] theorem State.modCluster_rails (s : State) (k : Nat) (f : Cluster → Cluster) : (s.modCluster k f).rails = s.rails := rfl
@[simp] theorem State.modCluster_bring (s : State) (k : Nat) (f : Cluster → Cluster) : (s.modCluster k f).bring = s.bring := rfl
@[simp] theorem State.modCluster_ports (s : State) (k : Nat) (f : Cluster → Cluster) : (s.modCluster k f).ports = s.ports := rfl
@[simp] theorem State.modCluster_derene (s : State) (k : Nat) (f : Cluster → Cluster) : (s.modCluster k f).derene = s.derene := rfl
@[simp] theorem State.modCluster_ordered (s : State) (k : Nat) (f : Cluster → Cluster) : (s.modCluster k f).ordered = s.ordered := rfl
@[simp] theorem State.modCluster_links (s : State) (k : Nat) (f : Cluster → Cluster) : (s.modCluster k f).links = s.links := rfl
@[simp] theorem State.modCluster_mr68 (s : State) (k : Nat) (f : Cluster → Cluster) : (s.modCluster k f).mr68 = s.mr68 := rfl
@[simp] theorem State.modCluster_tsrc (s : State) (k : Nat) (f : Cluster → Cluster) : (s.modCluster k f).tsrc = s.tsrc := rfl
@[simp] theorem State.modCluster_spdm (s : State) (k : Nat) (f : Cluster → Cluster) : (s.modCluster k f).spdm = s.spdm := rfl
@[simp] theorem State.modCluster_images (s : State) (k : Nat) (f : Cluster → Cluster) : (s.modCluster k f).images = s.images := rfl
@[simp] theorem State.modCluster_out (s : State) (k : Nat) (f : Cluster → Cluster) : (s.modCluster k f).out = s.out := rfl
@[simp] theorem State.modCluster_quarantined (s : State) (k : Nat) (f : Cluster → Cluster) : (s.modCluster k f).quarantined = s.quarantined := rfl
@[simp] theorem State.modCluster_calib (s : State) (k : Nat) (f : Cluster → Cluster) : (s.modCluster k f).calib = s.calib := rfl
@[simp] theorem State.modCluster_retries (s : State) (k : Nat) (f : Cluster → Cluster) : (s.modCluster k f).retries = s.retries := rfl
@[simp] theorem State.modCluster_refresh (s : State) (k : Nat) (f : Cluster → Cluster) : (s.modCluster k f).refresh = s.refresh := rfl
@[simp] theorem State.modCluster_refreshOpen (s : State) (k : Nat) (f : Cluster → Cluster) : (s.modCluster k f).refreshOpen = s.refreshOpen := rfl
@[simp] theorem State.modCluster_rlcMiB (s : State) (k : Nat) (f : Cluster → Cluster) : (s.modCluster k f).rlcMiB = s.rlcMiB := rfl
@[simp] theorem State.modCluster_rotation (s : State) (k : Nat) (f : Cluster → Cluster) : (s.modCluster k f).rotation = s.rotation := rfl
@[simp] theorem State.modCluster_replacing (s : State) (k : Nat) (f : Cluster → Cluster) : (s.modCluster k f).replacing = s.replacing := rfl
@[simp] theorem State.modCluster_free (s : State) (k : Nat) (f : Cluster → Cluster) : (s.modCluster k f).free = s.free := rfl
@[simp] theorem State.modCluster_agenda (s : State) (k : Nat) (f : Cluster → Cluster) : (s.modCluster k f).agenda = s.agenda := rfl
@[simp] theorem State.modCluster_input (s : State) (k : Nat) (f : Cluster → Cluster) : (s.modCluster k f).input = s.input := rfl
@[simp] theorem State.modCluster_budget (s : State) (k : Nat) (f : Cluster → Cluster) : (s.modCluster k f).budget = s.budget := rfl
@[simp] theorem State.modCluster_picks (s : State) (k : Nat) (f : Cluster → Cluster) : (s.modCluster k f).picks = s.picks := rfl
@[simp] theorem State.modCluster_piecewise (s : State) (k : Nat) (f : Cluster → Cluster) : (s.modCluster k f).piecewise = s.piecewise := rfl
@[simp] theorem State.modCluster_buffering (s : State) (k : Nat) (f : Cluster → Cluster) : (s.modCluster k f).buffering = s.buffering := rfl
@[simp] theorem State.modCluster_clock (s : State) (k : Nat) (f : Cluster → Cluster) : (s.modCluster k f).clock = s.clock := rfl
@[simp] theorem State.modCluster_turn (s : State) (k : Nat) (f : Cluster → Cluster) : (s.modCluster k f).turn = s.turn := rfl
@[simp] theorem State.modCluster_lag (s : State) (k : Nat) (f : Cluster → Cluster) : (s.modCluster k f).lag = s.lag := rfl
@[simp] theorem State.modCluster_late (s : State) (k : Nat) (f : Cluster → Cluster) : (s.modCluster k f).late = s.late := rfl
@[simp] theorem State.modCluster_banks (s : State) (k : Nat) (f : Cluster → Cluster) : (s.modCluster k f).banks = s.banks := rfl
@[simp] theorem State.modCluster_bankq (s : State) (k : Nat) (f : Cluster → Cluster) : (s.modCluster k f).bankq = s.bankq := rfl
@[simp] theorem State.modCluster_cur (s : State) (k : Nat) (f : Cluster → Cluster) : (s.modCluster k f).cur = s.cur := rfl

@[simp] theorem State.modCDie_cores (s : State) (k : Nat) (f : CDie → CDie) : (s.modCDie k f).cores = s.cores := rfl
@[simp] theorem State.modCDie_clusters (s : State) (k : Nat) (f : CDie → CDie) : (s.modCDie k f).clusters = s.clusters := rfl
@[simp] theorem State.modCDie_mdies (s : State) (k : Nat) (f : CDie → CDie) : (s.modCDie k f).mdies = s.mdies := rfl
@[simp] theorem State.modCDie_ctxs (s : State) (k : Nat) (f : CDie → CDie) : (s.modCDie k f).ctxs = s.ctxs := rfl
@[simp] theorem State.modCDie_queues (s : State) (k : Nat) (f : CDie → CDie) : (s.modCDie k f).queues = s.queues := rfl
@[simp] theorem State.modCDie_launches (s : State) (k : Nat) (f : CDie → CDie) : (s.modCDie k f).launches = s.launches := rfl
@[simp] theorem State.modCDie_nextLaunch (s : State) (k : Nat) (f : CDie → CDie) : (s.modCDie k f).nextLaunch = s.nextLaunch := rfl
@[simp] theorem State.modCDie_mem (s : State) (k : Nat) (f : CDie → CDie) : (s.modCDie k f).mem = s.mem := rfl
@[simp] theorem State.modCDie_poison (s : State) (k : Nat) (f : CDie → CDie) : (s.modCDie k f).poison = s.poison := rfl
@[simp] theorem State.modCDie_poisonWeight (s : State) (k : Nat) (f : CDie → CDie) : (s.modCDie k f).poisonWeight = s.poisonWeight := rfl
@[simp] theorem State.modCDie_timeBase (s : State) (k : Nat) (f : CDie → CDie) : (s.modCDie k f).timeBase = s.timeBase := rfl
@[simp] theorem State.modCDie_timeFloor (s : State) (k : Nat) (f : CDie → CDie) : (s.modCDie k f).timeFloor = s.timeFloor := rfl
@[simp] theorem State.modCDie_wref (s : State) (k : Nat) (f : CDie → CDie) : (s.modCDie k f).wref = s.wref := rfl
@[simp] theorem State.modCDie_capb (s : State) (k : Nat) (f : CDie → CDie) : (s.modCDie k f).capb = s.capb := rfl
@[simp] theorem State.modCDie_smap (s : State) (k : Nat) (f : CDie → CDie) : (s.modCDie k f).smap = s.smap := rfl
@[simp] theorem State.modCDie_rto (s : State) (k : Nat) (f : CDie → CDie) : (s.modCDie k f).rto = s.rto := rfl
@[simp] theorem State.modCDie_wmlag (s : State) (k : Nat) (f : CDie → CDie) : (s.modCDie k f).wmlag = s.wmlag := rfl
@[simp] theorem State.modCDie_panel (s : State) (k : Nat) (f : CDie → CDie) : (s.modCDie k f).panel = s.panel := rfl
@[simp] theorem State.modCDie_sites (s : State) (k : Nat) (f : CDie → CDie) : (s.modCDie k f).sites = s.sites := rfl
@[simp] theorem State.modCDie_sitesOut (s : State) (k : Nat) (f : CDie → CDie) : (s.modCDie k f).sitesOut = s.sitesOut := rfl
@[simp] theorem State.modCDie_mailbox (s : State) (k : Nat) (f : CDie → CDie) : (s.modCDie k f).mailbox = s.mailbox := rfl
@[simp] theorem State.modCDie_boxq (s : State) (k : Nat) (f : CDie → CDie) : (s.modCDie k f).boxq = s.boxq := rfl
@[simp] theorem State.modCDie_winReqs (s : State) (k : Nat) (f : CDie → CDie) : (s.modCDie k f).winReqs = s.winReqs := rfl
@[simp] theorem State.modCDie_rails (s : State) (k : Nat) (f : CDie → CDie) : (s.modCDie k f).rails = s.rails := rfl
@[simp] theorem State.modCDie_bring (s : State) (k : Nat) (f : CDie → CDie) : (s.modCDie k f).bring = s.bring := rfl
@[simp] theorem State.modCDie_ports (s : State) (k : Nat) (f : CDie → CDie) : (s.modCDie k f).ports = s.ports := rfl
@[simp] theorem State.modCDie_derene (s : State) (k : Nat) (f : CDie → CDie) : (s.modCDie k f).derene = s.derene := rfl
@[simp] theorem State.modCDie_ordered (s : State) (k : Nat) (f : CDie → CDie) : (s.modCDie k f).ordered = s.ordered := rfl
@[simp] theorem State.modCDie_links (s : State) (k : Nat) (f : CDie → CDie) : (s.modCDie k f).links = s.links := rfl
@[simp] theorem State.modCDie_mr68 (s : State) (k : Nat) (f : CDie → CDie) : (s.modCDie k f).mr68 = s.mr68 := rfl
@[simp] theorem State.modCDie_tsrc (s : State) (k : Nat) (f : CDie → CDie) : (s.modCDie k f).tsrc = s.tsrc := rfl
@[simp] theorem State.modCDie_spdm (s : State) (k : Nat) (f : CDie → CDie) : (s.modCDie k f).spdm = s.spdm := rfl
@[simp] theorem State.modCDie_images (s : State) (k : Nat) (f : CDie → CDie) : (s.modCDie k f).images = s.images := rfl
@[simp] theorem State.modCDie_out (s : State) (k : Nat) (f : CDie → CDie) : (s.modCDie k f).out = s.out := rfl
@[simp] theorem State.modCDie_quarantined (s : State) (k : Nat) (f : CDie → CDie) : (s.modCDie k f).quarantined = s.quarantined := rfl
@[simp] theorem State.modCDie_calib (s : State) (k : Nat) (f : CDie → CDie) : (s.modCDie k f).calib = s.calib := rfl
@[simp] theorem State.modCDie_retries (s : State) (k : Nat) (f : CDie → CDie) : (s.modCDie k f).retries = s.retries := rfl
@[simp] theorem State.modCDie_refresh (s : State) (k : Nat) (f : CDie → CDie) : (s.modCDie k f).refresh = s.refresh := rfl
@[simp] theorem State.modCDie_refreshOpen (s : State) (k : Nat) (f : CDie → CDie) : (s.modCDie k f).refreshOpen = s.refreshOpen := rfl
@[simp] theorem State.modCDie_rlcMiB (s : State) (k : Nat) (f : CDie → CDie) : (s.modCDie k f).rlcMiB = s.rlcMiB := rfl
@[simp] theorem State.modCDie_rotation (s : State) (k : Nat) (f : CDie → CDie) : (s.modCDie k f).rotation = s.rotation := rfl
@[simp] theorem State.modCDie_replacing (s : State) (k : Nat) (f : CDie → CDie) : (s.modCDie k f).replacing = s.replacing := rfl
@[simp] theorem State.modCDie_free (s : State) (k : Nat) (f : CDie → CDie) : (s.modCDie k f).free = s.free := rfl
@[simp] theorem State.modCDie_agenda (s : State) (k : Nat) (f : CDie → CDie) : (s.modCDie k f).agenda = s.agenda := rfl
@[simp] theorem State.modCDie_input (s : State) (k : Nat) (f : CDie → CDie) : (s.modCDie k f).input = s.input := rfl
@[simp] theorem State.modCDie_budget (s : State) (k : Nat) (f : CDie → CDie) : (s.modCDie k f).budget = s.budget := rfl
@[simp] theorem State.modCDie_picks (s : State) (k : Nat) (f : CDie → CDie) : (s.modCDie k f).picks = s.picks := rfl
@[simp] theorem State.modCDie_piecewise (s : State) (k : Nat) (f : CDie → CDie) : (s.modCDie k f).piecewise = s.piecewise := rfl
@[simp] theorem State.modCDie_buffering (s : State) (k : Nat) (f : CDie → CDie) : (s.modCDie k f).buffering = s.buffering := rfl
@[simp] theorem State.modCDie_clock (s : State) (k : Nat) (f : CDie → CDie) : (s.modCDie k f).clock = s.clock := rfl
@[simp] theorem State.modCDie_turn (s : State) (k : Nat) (f : CDie → CDie) : (s.modCDie k f).turn = s.turn := rfl
@[simp] theorem State.modCDie_lag (s : State) (k : Nat) (f : CDie → CDie) : (s.modCDie k f).lag = s.lag := rfl
@[simp] theorem State.modCDie_late (s : State) (k : Nat) (f : CDie → CDie) : (s.modCDie k f).late = s.late := rfl
@[simp] theorem State.modCDie_banks (s : State) (k : Nat) (f : CDie → CDie) : (s.modCDie k f).banks = s.banks := rfl
@[simp] theorem State.modCDie_bankq (s : State) (k : Nat) (f : CDie → CDie) : (s.modCDie k f).bankq = s.bankq := rfl
@[simp] theorem State.modCDie_cur (s : State) (k : Nat) (f : CDie → CDie) : (s.modCDie k f).cur = s.cur := rfl

@[simp] theorem State.modMDie_cores (s : State) (k : Nat) (f : MDie → MDie) : (s.modMDie k f).cores = s.cores := rfl
@[simp] theorem State.modMDie_clusters (s : State) (k : Nat) (f : MDie → MDie) : (s.modMDie k f).clusters = s.clusters := rfl
@[simp] theorem State.modMDie_cdies (s : State) (k : Nat) (f : MDie → MDie) : (s.modMDie k f).cdies = s.cdies := rfl
@[simp] theorem State.modMDie_ctxs (s : State) (k : Nat) (f : MDie → MDie) : (s.modMDie k f).ctxs = s.ctxs := rfl
@[simp] theorem State.modMDie_queues (s : State) (k : Nat) (f : MDie → MDie) : (s.modMDie k f).queues = s.queues := rfl
@[simp] theorem State.modMDie_launches (s : State) (k : Nat) (f : MDie → MDie) : (s.modMDie k f).launches = s.launches := rfl
@[simp] theorem State.modMDie_nextLaunch (s : State) (k : Nat) (f : MDie → MDie) : (s.modMDie k f).nextLaunch = s.nextLaunch := rfl
@[simp] theorem State.modMDie_mem (s : State) (k : Nat) (f : MDie → MDie) : (s.modMDie k f).mem = s.mem := rfl
@[simp] theorem State.modMDie_poison (s : State) (k : Nat) (f : MDie → MDie) : (s.modMDie k f).poison = s.poison := rfl
@[simp] theorem State.modMDie_poisonWeight (s : State) (k : Nat) (f : MDie → MDie) : (s.modMDie k f).poisonWeight = s.poisonWeight := rfl
@[simp] theorem State.modMDie_timeBase (s : State) (k : Nat) (f : MDie → MDie) : (s.modMDie k f).timeBase = s.timeBase := rfl
@[simp] theorem State.modMDie_timeFloor (s : State) (k : Nat) (f : MDie → MDie) : (s.modMDie k f).timeFloor = s.timeFloor := rfl
@[simp] theorem State.modMDie_wref (s : State) (k : Nat) (f : MDie → MDie) : (s.modMDie k f).wref = s.wref := rfl
@[simp] theorem State.modMDie_capb (s : State) (k : Nat) (f : MDie → MDie) : (s.modMDie k f).capb = s.capb := rfl
@[simp] theorem State.modMDie_smap (s : State) (k : Nat) (f : MDie → MDie) : (s.modMDie k f).smap = s.smap := rfl
@[simp] theorem State.modMDie_rto (s : State) (k : Nat) (f : MDie → MDie) : (s.modMDie k f).rto = s.rto := rfl
@[simp] theorem State.modMDie_wmlag (s : State) (k : Nat) (f : MDie → MDie) : (s.modMDie k f).wmlag = s.wmlag := rfl
@[simp] theorem State.modMDie_panel (s : State) (k : Nat) (f : MDie → MDie) : (s.modMDie k f).panel = s.panel := rfl
@[simp] theorem State.modMDie_sites (s : State) (k : Nat) (f : MDie → MDie) : (s.modMDie k f).sites = s.sites := rfl
@[simp] theorem State.modMDie_sitesOut (s : State) (k : Nat) (f : MDie → MDie) : (s.modMDie k f).sitesOut = s.sitesOut := rfl
@[simp] theorem State.modMDie_mailbox (s : State) (k : Nat) (f : MDie → MDie) : (s.modMDie k f).mailbox = s.mailbox := rfl
@[simp] theorem State.modMDie_boxq (s : State) (k : Nat) (f : MDie → MDie) : (s.modMDie k f).boxq = s.boxq := rfl
@[simp] theorem State.modMDie_winReqs (s : State) (k : Nat) (f : MDie → MDie) : (s.modMDie k f).winReqs = s.winReqs := rfl
@[simp] theorem State.modMDie_rails (s : State) (k : Nat) (f : MDie → MDie) : (s.modMDie k f).rails = s.rails := rfl
@[simp] theorem State.modMDie_bring (s : State) (k : Nat) (f : MDie → MDie) : (s.modMDie k f).bring = s.bring := rfl
@[simp] theorem State.modMDie_ports (s : State) (k : Nat) (f : MDie → MDie) : (s.modMDie k f).ports = s.ports := rfl
@[simp] theorem State.modMDie_derene (s : State) (k : Nat) (f : MDie → MDie) : (s.modMDie k f).derene = s.derene := rfl
@[simp] theorem State.modMDie_ordered (s : State) (k : Nat) (f : MDie → MDie) : (s.modMDie k f).ordered = s.ordered := rfl
@[simp] theorem State.modMDie_links (s : State) (k : Nat) (f : MDie → MDie) : (s.modMDie k f).links = s.links := rfl
@[simp] theorem State.modMDie_mr68 (s : State) (k : Nat) (f : MDie → MDie) : (s.modMDie k f).mr68 = s.mr68 := rfl
@[simp] theorem State.modMDie_tsrc (s : State) (k : Nat) (f : MDie → MDie) : (s.modMDie k f).tsrc = s.tsrc := rfl
@[simp] theorem State.modMDie_spdm (s : State) (k : Nat) (f : MDie → MDie) : (s.modMDie k f).spdm = s.spdm := rfl
@[simp] theorem State.modMDie_images (s : State) (k : Nat) (f : MDie → MDie) : (s.modMDie k f).images = s.images := rfl
@[simp] theorem State.modMDie_out (s : State) (k : Nat) (f : MDie → MDie) : (s.modMDie k f).out = s.out := rfl
@[simp] theorem State.modMDie_quarantined (s : State) (k : Nat) (f : MDie → MDie) : (s.modMDie k f).quarantined = s.quarantined := rfl
@[simp] theorem State.modMDie_calib (s : State) (k : Nat) (f : MDie → MDie) : (s.modMDie k f).calib = s.calib := rfl
@[simp] theorem State.modMDie_retries (s : State) (k : Nat) (f : MDie → MDie) : (s.modMDie k f).retries = s.retries := rfl
@[simp] theorem State.modMDie_refresh (s : State) (k : Nat) (f : MDie → MDie) : (s.modMDie k f).refresh = s.refresh := rfl
@[simp] theorem State.modMDie_refreshOpen (s : State) (k : Nat) (f : MDie → MDie) : (s.modMDie k f).refreshOpen = s.refreshOpen := rfl
@[simp] theorem State.modMDie_rlcMiB (s : State) (k : Nat) (f : MDie → MDie) : (s.modMDie k f).rlcMiB = s.rlcMiB := rfl
@[simp] theorem State.modMDie_rotation (s : State) (k : Nat) (f : MDie → MDie) : (s.modMDie k f).rotation = s.rotation := rfl
@[simp] theorem State.modMDie_replacing (s : State) (k : Nat) (f : MDie → MDie) : (s.modMDie k f).replacing = s.replacing := rfl
@[simp] theorem State.modMDie_free (s : State) (k : Nat) (f : MDie → MDie) : (s.modMDie k f).free = s.free := rfl
@[simp] theorem State.modMDie_agenda (s : State) (k : Nat) (f : MDie → MDie) : (s.modMDie k f).agenda = s.agenda := rfl
@[simp] theorem State.modMDie_input (s : State) (k : Nat) (f : MDie → MDie) : (s.modMDie k f).input = s.input := rfl
@[simp] theorem State.modMDie_budget (s : State) (k : Nat) (f : MDie → MDie) : (s.modMDie k f).budget = s.budget := rfl
@[simp] theorem State.modMDie_picks (s : State) (k : Nat) (f : MDie → MDie) : (s.modMDie k f).picks = s.picks := rfl
@[simp] theorem State.modMDie_piecewise (s : State) (k : Nat) (f : MDie → MDie) : (s.modMDie k f).piecewise = s.piecewise := rfl
@[simp] theorem State.modMDie_buffering (s : State) (k : Nat) (f : MDie → MDie) : (s.modMDie k f).buffering = s.buffering := rfl
@[simp] theorem State.modMDie_clock (s : State) (k : Nat) (f : MDie → MDie) : (s.modMDie k f).clock = s.clock := rfl
@[simp] theorem State.modMDie_turn (s : State) (k : Nat) (f : MDie → MDie) : (s.modMDie k f).turn = s.turn := rfl
@[simp] theorem State.modMDie_lag (s : State) (k : Nat) (f : MDie → MDie) : (s.modMDie k f).lag = s.lag := rfl
@[simp] theorem State.modMDie_late (s : State) (k : Nat) (f : MDie → MDie) : (s.modMDie k f).late = s.late := rfl
@[simp] theorem State.modMDie_banks (s : State) (k : Nat) (f : MDie → MDie) : (s.modMDie k f).banks = s.banks := rfl
@[simp] theorem State.modMDie_bankq (s : State) (k : Nat) (f : MDie → MDie) : (s.modMDie k f).bankq = s.bankq := rfl
@[simp] theorem State.modMDie_cur (s : State) (k : Nat) (f : MDie → MDie) : (s.modMDie k f).cur = s.cur := rfl

@[simp] theorem State.modQueue_cores (s : State) (k : Nat) (f : Queue → Queue) : (s.modQueue k f).cores = s.cores := rfl
@[simp] theorem State.modQueue_clusters (s : State) (k : Nat) (f : Queue → Queue) : (s.modQueue k f).clusters = s.clusters := rfl
@[simp] theorem State.modQueue_cdies (s : State) (k : Nat) (f : Queue → Queue) : (s.modQueue k f).cdies = s.cdies := rfl
@[simp] theorem State.modQueue_mdies (s : State) (k : Nat) (f : Queue → Queue) : (s.modQueue k f).mdies = s.mdies := rfl
@[simp] theorem State.modQueue_ctxs (s : State) (k : Nat) (f : Queue → Queue) : (s.modQueue k f).ctxs = s.ctxs := rfl
@[simp] theorem State.modQueue_launches (s : State) (k : Nat) (f : Queue → Queue) : (s.modQueue k f).launches = s.launches := rfl
@[simp] theorem State.modQueue_nextLaunch (s : State) (k : Nat) (f : Queue → Queue) : (s.modQueue k f).nextLaunch = s.nextLaunch := rfl
@[simp] theorem State.modQueue_mem (s : State) (k : Nat) (f : Queue → Queue) : (s.modQueue k f).mem = s.mem := rfl
@[simp] theorem State.modQueue_poison (s : State) (k : Nat) (f : Queue → Queue) : (s.modQueue k f).poison = s.poison := rfl
@[simp] theorem State.modQueue_poisonWeight (s : State) (k : Nat) (f : Queue → Queue) : (s.modQueue k f).poisonWeight = s.poisonWeight := rfl
@[simp] theorem State.modQueue_timeBase (s : State) (k : Nat) (f : Queue → Queue) : (s.modQueue k f).timeBase = s.timeBase := rfl
@[simp] theorem State.modQueue_timeFloor (s : State) (k : Nat) (f : Queue → Queue) : (s.modQueue k f).timeFloor = s.timeFloor := rfl
@[simp] theorem State.modQueue_wref (s : State) (k : Nat) (f : Queue → Queue) : (s.modQueue k f).wref = s.wref := rfl
@[simp] theorem State.modQueue_capb (s : State) (k : Nat) (f : Queue → Queue) : (s.modQueue k f).capb = s.capb := rfl
@[simp] theorem State.modQueue_smap (s : State) (k : Nat) (f : Queue → Queue) : (s.modQueue k f).smap = s.smap := rfl
@[simp] theorem State.modQueue_rto (s : State) (k : Nat) (f : Queue → Queue) : (s.modQueue k f).rto = s.rto := rfl
@[simp] theorem State.modQueue_wmlag (s : State) (k : Nat) (f : Queue → Queue) : (s.modQueue k f).wmlag = s.wmlag := rfl
@[simp] theorem State.modQueue_panel (s : State) (k : Nat) (f : Queue → Queue) : (s.modQueue k f).panel = s.panel := rfl
@[simp] theorem State.modQueue_sites (s : State) (k : Nat) (f : Queue → Queue) : (s.modQueue k f).sites = s.sites := rfl
@[simp] theorem State.modQueue_sitesOut (s : State) (k : Nat) (f : Queue → Queue) : (s.modQueue k f).sitesOut = s.sitesOut := rfl
@[simp] theorem State.modQueue_mailbox (s : State) (k : Nat) (f : Queue → Queue) : (s.modQueue k f).mailbox = s.mailbox := rfl
@[simp] theorem State.modQueue_boxq (s : State) (k : Nat) (f : Queue → Queue) : (s.modQueue k f).boxq = s.boxq := rfl
@[simp] theorem State.modQueue_winReqs (s : State) (k : Nat) (f : Queue → Queue) : (s.modQueue k f).winReqs = s.winReqs := rfl
@[simp] theorem State.modQueue_rails (s : State) (k : Nat) (f : Queue → Queue) : (s.modQueue k f).rails = s.rails := rfl
@[simp] theorem State.modQueue_bring (s : State) (k : Nat) (f : Queue → Queue) : (s.modQueue k f).bring = s.bring := rfl
@[simp] theorem State.modQueue_ports (s : State) (k : Nat) (f : Queue → Queue) : (s.modQueue k f).ports = s.ports := rfl
@[simp] theorem State.modQueue_derene (s : State) (k : Nat) (f : Queue → Queue) : (s.modQueue k f).derene = s.derene := rfl
@[simp] theorem State.modQueue_ordered (s : State) (k : Nat) (f : Queue → Queue) : (s.modQueue k f).ordered = s.ordered := rfl
@[simp] theorem State.modQueue_links (s : State) (k : Nat) (f : Queue → Queue) : (s.modQueue k f).links = s.links := rfl
@[simp] theorem State.modQueue_mr68 (s : State) (k : Nat) (f : Queue → Queue) : (s.modQueue k f).mr68 = s.mr68 := rfl
@[simp] theorem State.modQueue_tsrc (s : State) (k : Nat) (f : Queue → Queue) : (s.modQueue k f).tsrc = s.tsrc := rfl
@[simp] theorem State.modQueue_spdm (s : State) (k : Nat) (f : Queue → Queue) : (s.modQueue k f).spdm = s.spdm := rfl
@[simp] theorem State.modQueue_images (s : State) (k : Nat) (f : Queue → Queue) : (s.modQueue k f).images = s.images := rfl
@[simp] theorem State.modQueue_out (s : State) (k : Nat) (f : Queue → Queue) : (s.modQueue k f).out = s.out := rfl
@[simp] theorem State.modQueue_quarantined (s : State) (k : Nat) (f : Queue → Queue) : (s.modQueue k f).quarantined = s.quarantined := rfl
@[simp] theorem State.modQueue_calib (s : State) (k : Nat) (f : Queue → Queue) : (s.modQueue k f).calib = s.calib := rfl
@[simp] theorem State.modQueue_retries (s : State) (k : Nat) (f : Queue → Queue) : (s.modQueue k f).retries = s.retries := rfl
@[simp] theorem State.modQueue_refresh (s : State) (k : Nat) (f : Queue → Queue) : (s.modQueue k f).refresh = s.refresh := rfl
@[simp] theorem State.modQueue_refreshOpen (s : State) (k : Nat) (f : Queue → Queue) : (s.modQueue k f).refreshOpen = s.refreshOpen := rfl
@[simp] theorem State.modQueue_rlcMiB (s : State) (k : Nat) (f : Queue → Queue) : (s.modQueue k f).rlcMiB = s.rlcMiB := rfl
@[simp] theorem State.modQueue_rotation (s : State) (k : Nat) (f : Queue → Queue) : (s.modQueue k f).rotation = s.rotation := rfl
@[simp] theorem State.modQueue_replacing (s : State) (k : Nat) (f : Queue → Queue) : (s.modQueue k f).replacing = s.replacing := rfl
@[simp] theorem State.modQueue_free (s : State) (k : Nat) (f : Queue → Queue) : (s.modQueue k f).free = s.free := rfl
@[simp] theorem State.modQueue_agenda (s : State) (k : Nat) (f : Queue → Queue) : (s.modQueue k f).agenda = s.agenda := rfl
@[simp] theorem State.modQueue_input (s : State) (k : Nat) (f : Queue → Queue) : (s.modQueue k f).input = s.input := rfl
@[simp] theorem State.modQueue_budget (s : State) (k : Nat) (f : Queue → Queue) : (s.modQueue k f).budget = s.budget := rfl
@[simp] theorem State.modQueue_picks (s : State) (k : Nat) (f : Queue → Queue) : (s.modQueue k f).picks = s.picks := rfl
@[simp] theorem State.modQueue_piecewise (s : State) (k : Nat) (f : Queue → Queue) : (s.modQueue k f).piecewise = s.piecewise := rfl
@[simp] theorem State.modQueue_buffering (s : State) (k : Nat) (f : Queue → Queue) : (s.modQueue k f).buffering = s.buffering := rfl
@[simp] theorem State.modQueue_clock (s : State) (k : Nat) (f : Queue → Queue) : (s.modQueue k f).clock = s.clock := rfl
@[simp] theorem State.modQueue_turn (s : State) (k : Nat) (f : Queue → Queue) : (s.modQueue k f).turn = s.turn := rfl
@[simp] theorem State.modQueue_lag (s : State) (k : Nat) (f : Queue → Queue) : (s.modQueue k f).lag = s.lag := rfl
@[simp] theorem State.modQueue_late (s : State) (k : Nat) (f : Queue → Queue) : (s.modQueue k f).late = s.late := rfl
@[simp] theorem State.modQueue_banks (s : State) (k : Nat) (f : Queue → Queue) : (s.modQueue k f).banks = s.banks := rfl
@[simp] theorem State.modQueue_bankq (s : State) (k : Nat) (f : Queue → Queue) : (s.modQueue k f).bankq = s.bankq := rfl
@[simp] theorem State.modQueue_cur (s : State) (k : Nat) (f : Queue → Queue) : (s.modQueue k f).cur = s.cur := rfl

@[simp] theorem State.verdict_cores (s : State) (v : Verdict) : (s.verdict v).cores = s.cores := rfl
@[simp] theorem State.verdict_clusters (s : State) (v : Verdict) : (s.verdict v).clusters = s.clusters := rfl
@[simp] theorem State.verdict_cdies (s : State) (v : Verdict) : (s.verdict v).cdies = s.cdies := rfl
@[simp] theorem State.verdict_mdies (s : State) (v : Verdict) : (s.verdict v).mdies = s.mdies := rfl
@[simp] theorem State.verdict_ctxs (s : State) (v : Verdict) : (s.verdict v).ctxs = s.ctxs := rfl
@[simp] theorem State.verdict_queues (s : State) (v : Verdict) : (s.verdict v).queues = s.queues := rfl
@[simp] theorem State.verdict_launches (s : State) (v : Verdict) : (s.verdict v).launches = s.launches := rfl
@[simp] theorem State.verdict_nextLaunch (s : State) (v : Verdict) : (s.verdict v).nextLaunch = s.nextLaunch := rfl
@[simp] theorem State.verdict_mem (s : State) (v : Verdict) : (s.verdict v).mem = s.mem := rfl
@[simp] theorem State.verdict_poison (s : State) (v : Verdict) : (s.verdict v).poison = s.poison := rfl
@[simp] theorem State.verdict_poisonWeight (s : State) (v : Verdict) : (s.verdict v).poisonWeight = s.poisonWeight := rfl
@[simp] theorem State.verdict_timeBase (s : State) (v : Verdict) : (s.verdict v).timeBase = s.timeBase := rfl
@[simp] theorem State.verdict_timeFloor (s : State) (v : Verdict) : (s.verdict v).timeFloor = s.timeFloor := rfl
@[simp] theorem State.verdict_wref (s : State) (v : Verdict) : (s.verdict v).wref = s.wref := rfl
@[simp] theorem State.verdict_capb (s : State) (v : Verdict) : (s.verdict v).capb = s.capb := rfl
@[simp] theorem State.verdict_smap (s : State) (v : Verdict) : (s.verdict v).smap = s.smap := rfl
@[simp] theorem State.verdict_rto (s : State) (v : Verdict) : (s.verdict v).rto = s.rto := rfl
@[simp] theorem State.verdict_wmlag (s : State) (v : Verdict) : (s.verdict v).wmlag = s.wmlag := rfl
@[simp] theorem State.verdict_panel (s : State) (v : Verdict) : (s.verdict v).panel = s.panel := rfl
@[simp] theorem State.verdict_sites (s : State) (v : Verdict) : (s.verdict v).sites = s.sites := rfl
@[simp] theorem State.verdict_sitesOut (s : State) (v : Verdict) : (s.verdict v).sitesOut = s.sitesOut := rfl
@[simp] theorem State.verdict_mailbox (s : State) (v : Verdict) : (s.verdict v).mailbox = s.mailbox := rfl
@[simp] theorem State.verdict_boxq (s : State) (v : Verdict) : (s.verdict v).boxq = s.boxq := rfl
@[simp] theorem State.verdict_winReqs (s : State) (v : Verdict) : (s.verdict v).winReqs = s.winReqs := rfl
@[simp] theorem State.verdict_rails (s : State) (v : Verdict) : (s.verdict v).rails = s.rails := rfl
@[simp] theorem State.verdict_bring (s : State) (v : Verdict) : (s.verdict v).bring = s.bring := rfl
@[simp] theorem State.verdict_ports (s : State) (v : Verdict) : (s.verdict v).ports = s.ports := rfl
@[simp] theorem State.verdict_derene (s : State) (v : Verdict) : (s.verdict v).derene = s.derene := rfl
@[simp] theorem State.verdict_ordered (s : State) (v : Verdict) : (s.verdict v).ordered = s.ordered := rfl
@[simp] theorem State.verdict_links (s : State) (v : Verdict) : (s.verdict v).links = s.links := rfl
@[simp] theorem State.verdict_mr68 (s : State) (v : Verdict) : (s.verdict v).mr68 = s.mr68 := rfl
@[simp] theorem State.verdict_tsrc (s : State) (v : Verdict) : (s.verdict v).tsrc = s.tsrc := rfl
@[simp] theorem State.verdict_spdm (s : State) (v : Verdict) : (s.verdict v).spdm = s.spdm := rfl
@[simp] theorem State.verdict_images (s : State) (v : Verdict) : (s.verdict v).images = s.images := rfl
@[simp] theorem State.verdict_out (s : State) (v : Verdict) : (s.verdict v).out = s.out := rfl
@[simp] theorem State.verdict_quarantined (s : State) (v : Verdict) : (s.verdict v).quarantined = s.quarantined := rfl
@[simp] theorem State.verdict_calib (s : State) (v : Verdict) : (s.verdict v).calib = s.calib := rfl
@[simp] theorem State.verdict_retries (s : State) (v : Verdict) : (s.verdict v).retries = s.retries := rfl
@[simp] theorem State.verdict_refresh (s : State) (v : Verdict) : (s.verdict v).refresh = s.refresh := rfl
@[simp] theorem State.verdict_refreshOpen (s : State) (v : Verdict) : (s.verdict v).refreshOpen = s.refreshOpen := rfl
@[simp] theorem State.verdict_rlcMiB (s : State) (v : Verdict) : (s.verdict v).rlcMiB = s.rlcMiB := rfl
@[simp] theorem State.verdict_rotation (s : State) (v : Verdict) : (s.verdict v).rotation = s.rotation := rfl
@[simp] theorem State.verdict_replacing (s : State) (v : Verdict) : (s.verdict v).replacing = s.replacing := rfl
@[simp] theorem State.verdict_free (s : State) (v : Verdict) : (s.verdict v).free = s.free := rfl
@[simp] theorem State.verdict_agenda (s : State) (v : Verdict) : (s.verdict v).agenda = s.agenda := rfl
@[simp] theorem State.verdict_input (s : State) (v : Verdict) : (s.verdict v).input = s.input := rfl
@[simp] theorem State.verdict_budget (s : State) (v : Verdict) : (s.verdict v).budget = s.budget := rfl
@[simp] theorem State.verdict_picks (s : State) (v : Verdict) : (s.verdict v).picks = s.picks := rfl
@[simp] theorem State.verdict_piecewise (s : State) (v : Verdict) : (s.verdict v).piecewise = s.piecewise := rfl
@[simp] theorem State.verdict_buffering (s : State) (v : Verdict) : (s.verdict v).buffering = s.buffering := rfl
@[simp] theorem State.verdict_clock (s : State) (v : Verdict) : (s.verdict v).clock = s.clock := rfl
@[simp] theorem State.verdict_turn (s : State) (v : Verdict) : (s.verdict v).turn = s.turn := rfl
@[simp] theorem State.verdict_lag (s : State) (v : Verdict) : (s.verdict v).lag = s.lag := rfl
@[simp] theorem State.verdict_late (s : State) (v : Verdict) : (s.verdict v).late = s.late := rfl
@[simp] theorem State.verdict_banks (s : State) (v : Verdict) : (s.verdict v).banks = s.banks := rfl
@[simp] theorem State.verdict_bankq (s : State) (v : Verdict) : (s.verdict v).bankq = s.bankq := rfl

@[simp] theorem State.post_cores (s : State) (i : Instr) : (s.post i).cores = s.cores := rfl
@[simp] theorem State.post_clusters (s : State) (i : Instr) : (s.post i).clusters = s.clusters := rfl
@[simp] theorem State.post_cdies (s : State) (i : Instr) : (s.post i).cdies = s.cdies := rfl
@[simp] theorem State.post_mdies (s : State) (i : Instr) : (s.post i).mdies = s.mdies := rfl
@[simp] theorem State.post_ctxs (s : State) (i : Instr) : (s.post i).ctxs = s.ctxs := rfl
@[simp] theorem State.post_queues (s : State) (i : Instr) : (s.post i).queues = s.queues := rfl
@[simp] theorem State.post_launches (s : State) (i : Instr) : (s.post i).launches = s.launches := rfl
@[simp] theorem State.post_nextLaunch (s : State) (i : Instr) : (s.post i).nextLaunch = s.nextLaunch := rfl
@[simp] theorem State.post_mem (s : State) (i : Instr) : (s.post i).mem = s.mem := rfl
@[simp] theorem State.post_poison (s : State) (i : Instr) : (s.post i).poison = s.poison := rfl
@[simp] theorem State.post_poisonWeight (s : State) (i : Instr) : (s.post i).poisonWeight = s.poisonWeight := rfl
@[simp] theorem State.post_timeBase (s : State) (i : Instr) : (s.post i).timeBase = s.timeBase := rfl
@[simp] theorem State.post_timeFloor (s : State) (i : Instr) : (s.post i).timeFloor = s.timeFloor := rfl
@[simp] theorem State.post_wref (s : State) (i : Instr) : (s.post i).wref = s.wref := rfl
@[simp] theorem State.post_capb (s : State) (i : Instr) : (s.post i).capb = s.capb := rfl
@[simp] theorem State.post_smap (s : State) (i : Instr) : (s.post i).smap = s.smap := rfl
@[simp] theorem State.post_rto (s : State) (i : Instr) : (s.post i).rto = s.rto := rfl
@[simp] theorem State.post_wmlag (s : State) (i : Instr) : (s.post i).wmlag = s.wmlag := rfl
@[simp] theorem State.post_panel (s : State) (i : Instr) : (s.post i).panel = s.panel := rfl
@[simp] theorem State.post_sites (s : State) (i : Instr) : (s.post i).sites = s.sites := rfl
@[simp] theorem State.post_sitesOut (s : State) (i : Instr) : (s.post i).sitesOut = s.sitesOut := rfl
@[simp] theorem State.post_mailbox (s : State) (i : Instr) : (s.post i).mailbox = s.mailbox := rfl
@[simp] theorem State.post_boxq (s : State) (i : Instr) : (s.post i).boxq = s.boxq := rfl
@[simp] theorem State.post_winReqs (s : State) (i : Instr) : (s.post i).winReqs = s.winReqs := rfl
@[simp] theorem State.post_rails (s : State) (i : Instr) : (s.post i).rails = s.rails := rfl
@[simp] theorem State.post_bring (s : State) (i : Instr) : (s.post i).bring = s.bring := rfl
@[simp] theorem State.post_ports (s : State) (i : Instr) : (s.post i).ports = s.ports := rfl
@[simp] theorem State.post_derene (s : State) (i : Instr) : (s.post i).derene = s.derene := rfl
@[simp] theorem State.post_ordered (s : State) (i : Instr) : (s.post i).ordered = s.ordered := rfl
@[simp] theorem State.post_links (s : State) (i : Instr) : (s.post i).links = s.links := rfl
@[simp] theorem State.post_mr68 (s : State) (i : Instr) : (s.post i).mr68 = s.mr68 := rfl
@[simp] theorem State.post_tsrc (s : State) (i : Instr) : (s.post i).tsrc = s.tsrc := rfl
@[simp] theorem State.post_spdm (s : State) (i : Instr) : (s.post i).spdm = s.spdm := rfl
@[simp] theorem State.post_images (s : State) (i : Instr) : (s.post i).images = s.images := rfl
@[simp] theorem State.post_out (s : State) (i : Instr) : (s.post i).out = s.out := rfl
@[simp] theorem State.post_quarantined (s : State) (i : Instr) : (s.post i).quarantined = s.quarantined := rfl
@[simp] theorem State.post_calib (s : State) (i : Instr) : (s.post i).calib = s.calib := rfl
@[simp] theorem State.post_retries (s : State) (i : Instr) : (s.post i).retries = s.retries := rfl
@[simp] theorem State.post_refresh (s : State) (i : Instr) : (s.post i).refresh = s.refresh := rfl
@[simp] theorem State.post_refreshOpen (s : State) (i : Instr) : (s.post i).refreshOpen = s.refreshOpen := rfl
@[simp] theorem State.post_rlcMiB (s : State) (i : Instr) : (s.post i).rlcMiB = s.rlcMiB := rfl
@[simp] theorem State.post_rotation (s : State) (i : Instr) : (s.post i).rotation = s.rotation := rfl
@[simp] theorem State.post_replacing (s : State) (i : Instr) : (s.post i).replacing = s.replacing := rfl
@[simp] theorem State.post_free (s : State) (i : Instr) : (s.post i).free = s.free := rfl
@[simp] theorem State.post_input (s : State) (i : Instr) : (s.post i).input = s.input := rfl
@[simp] theorem State.post_budget (s : State) (i : Instr) : (s.post i).budget = s.budget := rfl
@[simp] theorem State.post_picks (s : State) (i : Instr) : (s.post i).picks = s.picks := rfl
@[simp] theorem State.post_piecewise (s : State) (i : Instr) : (s.post i).piecewise = s.piecewise := rfl
@[simp] theorem State.post_buffering (s : State) (i : Instr) : (s.post i).buffering = s.buffering := rfl
@[simp] theorem State.post_clock (s : State) (i : Instr) : (s.post i).clock = s.clock := rfl
@[simp] theorem State.post_turn (s : State) (i : Instr) : (s.post i).turn = s.turn := rfl
@[simp] theorem State.post_lag (s : State) (i : Instr) : (s.post i).lag = s.lag := rfl
@[simp] theorem State.post_late (s : State) (i : Instr) : (s.post i).late = s.late := rfl
@[simp] theorem State.post_banks (s : State) (i : Instr) : (s.post i).banks = s.banks := rfl
@[simp] theorem State.post_bankq (s : State) (i : Instr) : (s.post i).bankq = s.bankq := rfl
@[simp] theorem State.post_cur (s : State) (i : Instr) : (s.post i).cur = s.cur := rfl

@[simp] theorem State.postIn_cores (s : State) (i : Instr) (x : Input) : (s.postIn i x).cores = s.cores := rfl
@[simp] theorem State.postIn_clusters (s : State) (i : Instr) (x : Input) : (s.postIn i x).clusters = s.clusters := rfl
@[simp] theorem State.postIn_cdies (s : State) (i : Instr) (x : Input) : (s.postIn i x).cdies = s.cdies := rfl
@[simp] theorem State.postIn_mdies (s : State) (i : Instr) (x : Input) : (s.postIn i x).mdies = s.mdies := rfl
@[simp] theorem State.postIn_ctxs (s : State) (i : Instr) (x : Input) : (s.postIn i x).ctxs = s.ctxs := rfl
@[simp] theorem State.postIn_queues (s : State) (i : Instr) (x : Input) : (s.postIn i x).queues = s.queues := rfl
@[simp] theorem State.postIn_launches (s : State) (i : Instr) (x : Input) : (s.postIn i x).launches = s.launches := rfl
@[simp] theorem State.postIn_nextLaunch (s : State) (i : Instr) (x : Input) : (s.postIn i x).nextLaunch = s.nextLaunch := rfl
@[simp] theorem State.postIn_mem (s : State) (i : Instr) (x : Input) : (s.postIn i x).mem = s.mem := rfl
@[simp] theorem State.postIn_poison (s : State) (i : Instr) (x : Input) : (s.postIn i x).poison = s.poison := rfl
@[simp] theorem State.postIn_poisonWeight (s : State) (i : Instr) (x : Input) : (s.postIn i x).poisonWeight = s.poisonWeight := rfl
@[simp] theorem State.postIn_timeBase (s : State) (i : Instr) (x : Input) : (s.postIn i x).timeBase = s.timeBase := rfl
@[simp] theorem State.postIn_timeFloor (s : State) (i : Instr) (x : Input) : (s.postIn i x).timeFloor = s.timeFloor := rfl
@[simp] theorem State.postIn_wref (s : State) (i : Instr) (x : Input) : (s.postIn i x).wref = s.wref := rfl
@[simp] theorem State.postIn_capb (s : State) (i : Instr) (x : Input) : (s.postIn i x).capb = s.capb := rfl
@[simp] theorem State.postIn_smap (s : State) (i : Instr) (x : Input) : (s.postIn i x).smap = s.smap := rfl
@[simp] theorem State.postIn_rto (s : State) (i : Instr) (x : Input) : (s.postIn i x).rto = s.rto := rfl
@[simp] theorem State.postIn_wmlag (s : State) (i : Instr) (x : Input) : (s.postIn i x).wmlag = s.wmlag := rfl
@[simp] theorem State.postIn_panel (s : State) (i : Instr) (x : Input) : (s.postIn i x).panel = s.panel := rfl
@[simp] theorem State.postIn_sites (s : State) (i : Instr) (x : Input) : (s.postIn i x).sites = s.sites := rfl
@[simp] theorem State.postIn_sitesOut (s : State) (i : Instr) (x : Input) : (s.postIn i x).sitesOut = s.sitesOut := rfl
@[simp] theorem State.postIn_mailbox (s : State) (i : Instr) (x : Input) : (s.postIn i x).mailbox = s.mailbox := rfl
@[simp] theorem State.postIn_boxq (s : State) (i : Instr) (x : Input) : (s.postIn i x).boxq = s.boxq := rfl
@[simp] theorem State.postIn_winReqs (s : State) (i : Instr) (x : Input) : (s.postIn i x).winReqs = s.winReqs := rfl
@[simp] theorem State.postIn_rails (s : State) (i : Instr) (x : Input) : (s.postIn i x).rails = s.rails := rfl
@[simp] theorem State.postIn_bring (s : State) (i : Instr) (x : Input) : (s.postIn i x).bring = s.bring := rfl
@[simp] theorem State.postIn_ports (s : State) (i : Instr) (x : Input) : (s.postIn i x).ports = s.ports := rfl
@[simp] theorem State.postIn_derene (s : State) (i : Instr) (x : Input) : (s.postIn i x).derene = s.derene := rfl
@[simp] theorem State.postIn_ordered (s : State) (i : Instr) (x : Input) : (s.postIn i x).ordered = s.ordered := rfl
@[simp] theorem State.postIn_links (s : State) (i : Instr) (x : Input) : (s.postIn i x).links = s.links := rfl
@[simp] theorem State.postIn_mr68 (s : State) (i : Instr) (x : Input) : (s.postIn i x).mr68 = s.mr68 := rfl
@[simp] theorem State.postIn_tsrc (s : State) (i : Instr) (x : Input) : (s.postIn i x).tsrc = s.tsrc := rfl
@[simp] theorem State.postIn_spdm (s : State) (i : Instr) (x : Input) : (s.postIn i x).spdm = s.spdm := rfl
@[simp] theorem State.postIn_images (s : State) (i : Instr) (x : Input) : (s.postIn i x).images = s.images := rfl
@[simp] theorem State.postIn_out (s : State) (i : Instr) (x : Input) : (s.postIn i x).out = s.out := rfl
@[simp] theorem State.postIn_quarantined (s : State) (i : Instr) (x : Input) : (s.postIn i x).quarantined = s.quarantined := rfl
@[simp] theorem State.postIn_calib (s : State) (i : Instr) (x : Input) : (s.postIn i x).calib = s.calib := rfl
@[simp] theorem State.postIn_retries (s : State) (i : Instr) (x : Input) : (s.postIn i x).retries = s.retries := rfl
@[simp] theorem State.postIn_refresh (s : State) (i : Instr) (x : Input) : (s.postIn i x).refresh = s.refresh := rfl
@[simp] theorem State.postIn_refreshOpen (s : State) (i : Instr) (x : Input) : (s.postIn i x).refreshOpen = s.refreshOpen := rfl
@[simp] theorem State.postIn_rlcMiB (s : State) (i : Instr) (x : Input) : (s.postIn i x).rlcMiB = s.rlcMiB := rfl
@[simp] theorem State.postIn_rotation (s : State) (i : Instr) (x : Input) : (s.postIn i x).rotation = s.rotation := rfl
@[simp] theorem State.postIn_replacing (s : State) (i : Instr) (x : Input) : (s.postIn i x).replacing = s.replacing := rfl
@[simp] theorem State.postIn_free (s : State) (i : Instr) (x : Input) : (s.postIn i x).free = s.free := rfl
@[simp] theorem State.postIn_input (s : State) (i : Instr) (x : Input) : (s.postIn i x).input = s.input := rfl
@[simp] theorem State.postIn_budget (s : State) (i : Instr) (x : Input) : (s.postIn i x).budget = s.budget := rfl
@[simp] theorem State.postIn_picks (s : State) (i : Instr) (x : Input) : (s.postIn i x).picks = s.picks := rfl
@[simp] theorem State.postIn_piecewise (s : State) (i : Instr) (x : Input) : (s.postIn i x).piecewise = s.piecewise := rfl
@[simp] theorem State.postIn_buffering (s : State) (i : Instr) (x : Input) : (s.postIn i x).buffering = s.buffering := rfl
@[simp] theorem State.postIn_clock (s : State) (i : Instr) (x : Input) : (s.postIn i x).clock = s.clock := rfl
@[simp] theorem State.postIn_turn (s : State) (i : Instr) (x : Input) : (s.postIn i x).turn = s.turn := rfl
@[simp] theorem State.postIn_lag (s : State) (i : Instr) (x : Input) : (s.postIn i x).lag = s.lag := rfl
@[simp] theorem State.postIn_late (s : State) (i : Instr) (x : Input) : (s.postIn i x).late = s.late := rfl
@[simp] theorem State.postIn_banks (s : State) (i : Instr) (x : Input) : (s.postIn i x).banks = s.banks := rfl
@[simp] theorem State.postIn_bankq (s : State) (i : Instr) (x : Input) : (s.postIn i x).bankq = s.bankq := rfl
@[simp] theorem State.postIn_cur (s : State) (i : Instr) (x : Input) : (s.postIn i x).cur = s.cur := rfl

@[simp] theorem State.modTh_clusters (s : State) (f : Thread → Thread) : (s.modTh f).clusters = s.clusters := rfl
@[simp] theorem State.modTh_cdies (s : State) (f : Thread → Thread) : (s.modTh f).cdies = s.cdies := rfl
@[simp] theorem State.modTh_mdies (s : State) (f : Thread → Thread) : (s.modTh f).mdies = s.mdies := rfl
@[simp] theorem State.modTh_ctxs (s : State) (f : Thread → Thread) : (s.modTh f).ctxs = s.ctxs := rfl
@[simp] theorem State.modTh_queues (s : State) (f : Thread → Thread) : (s.modTh f).queues = s.queues := rfl
@[simp] theorem State.modTh_launches (s : State) (f : Thread → Thread) : (s.modTh f).launches = s.launches := rfl
@[simp] theorem State.modTh_mem (s : State) (f : Thread → Thread) : (s.modTh f).mem = s.mem := rfl
@[simp] theorem State.modTh_timeBase (s : State) (f : Thread → Thread) : (s.modTh f).timeBase = s.timeBase := rfl
@[simp] theorem State.modTh_timeFloor (s : State) (f : Thread → Thread) : (s.modTh f).timeFloor = s.timeFloor := rfl
@[simp] theorem State.modTh_panel (s : State) (f : Thread → Thread) : (s.modTh f).panel = s.panel := rfl
@[simp] theorem State.modTh_rails (s : State) (f : Thread → Thread) : (s.modTh f).rails = s.rails := rfl
@[simp] theorem State.modTh_ordered (s : State) (f : Thread → Thread) : (s.modTh f).ordered = s.ordered := rfl
@[simp] theorem State.modTh_links (s : State) (f : Thread → Thread) : (s.modTh f).links = s.links := rfl
@[simp] theorem State.modTh_agenda (s : State) (f : Thread → Thread) : (s.modTh f).agenda = s.agenda := rfl
@[simp] theorem State.modTh_input (s : State) (f : Thread → Thread) : (s.modTh f).input = s.input := rfl
@[simp] theorem State.modTh_budget (s : State) (f : Thread → Thread) : (s.modTh f).budget = s.budget := rfl
@[simp] theorem State.modTh_clock (s : State) (f : Thread → Thread) : (s.modTh f).clock = s.clock := rfl
@[simp] theorem State.modTh_turn (s : State) (f : Thread → Thread) : (s.modTh f).turn = s.turn := rfl
@[simp] theorem State.modTh_lag (s : State) (f : Thread → Thread) : (s.modTh f).lag = s.lag := rfl
@[simp] theorem State.modTh_late (s : State) (f : Thread → Thread) : (s.modTh f).late = s.late := rfl
@[simp] theorem State.modTh_banks (s : State) (f : Thread → Thread) : (s.modTh f).banks = s.banks := rfl
@[simp] theorem State.modTh_bankq (s : State) (f : Thread → Thread) : (s.modTh f).bankq = s.bankq := rfl
@[simp] theorem State.modTh_cur (s : State) (f : Thread → Thread) : (s.modTh f).cur = s.cur := rfl

@[simp] theorem State.modThread_clusters (s : State) (k j : Nat) (f : Thread → Thread) : (s.modThread k j f).clusters = s.clusters := rfl
@[simp] theorem State.modThread_cdies (s : State) (k j : Nat) (f : Thread → Thread) : (s.modThread k j f).cdies = s.cdies := rfl
@[simp] theorem State.modThread_mdies (s : State) (k j : Nat) (f : Thread → Thread) : (s.modThread k j f).mdies = s.mdies := rfl
@[simp] theorem State.modThread_ctxs (s : State) (k j : Nat) (f : Thread → Thread) : (s.modThread k j f).ctxs = s.ctxs := rfl
@[simp] theorem State.modThread_queues (s : State) (k j : Nat) (f : Thread → Thread) : (s.modThread k j f).queues = s.queues := rfl
@[simp] theorem State.modThread_launches (s : State) (k j : Nat) (f : Thread → Thread) : (s.modThread k j f).launches = s.launches := rfl
@[simp] theorem State.modThread_mem (s : State) (k j : Nat) (f : Thread → Thread) : (s.modThread k j f).mem = s.mem := rfl
@[simp] theorem State.modThread_timeBase (s : State) (k j : Nat) (f : Thread → Thread) : (s.modThread k j f).timeBase = s.timeBase := rfl
@[simp] theorem State.modThread_timeFloor (s : State) (k j : Nat) (f : Thread → Thread) : (s.modThread k j f).timeFloor = s.timeFloor := rfl
@[simp] theorem State.modThread_panel (s : State) (k j : Nat) (f : Thread → Thread) : (s.modThread k j f).panel = s.panel := rfl
@[simp] theorem State.modThread_rails (s : State) (k j : Nat) (f : Thread → Thread) : (s.modThread k j f).rails = s.rails := rfl
@[simp] theorem State.modThread_ordered (s : State) (k j : Nat) (f : Thread → Thread) : (s.modThread k j f).ordered = s.ordered := rfl
@[simp] theorem State.modThread_links (s : State) (k j : Nat) (f : Thread → Thread) : (s.modThread k j f).links = s.links := rfl
@[simp] theorem State.modThread_agenda (s : State) (k j : Nat) (f : Thread → Thread) : (s.modThread k j f).agenda = s.agenda := rfl
@[simp] theorem State.modThread_input (s : State) (k j : Nat) (f : Thread → Thread) : (s.modThread k j f).input = s.input := rfl
@[simp] theorem State.modThread_budget (s : State) (k j : Nat) (f : Thread → Thread) : (s.modThread k j f).budget = s.budget := rfl
@[simp] theorem State.modThread_clock (s : State) (k j : Nat) (f : Thread → Thread) : (s.modThread k j f).clock = s.clock := rfl
@[simp] theorem State.modThread_turn (s : State) (k j : Nat) (f : Thread → Thread) : (s.modThread k j f).turn = s.turn := rfl
@[simp] theorem State.modThread_lag (s : State) (k j : Nat) (f : Thread → Thread) : (s.modThread k j f).lag = s.lag := rfl
@[simp] theorem State.modThread_late (s : State) (k j : Nat) (f : Thread → Thread) : (s.modThread k j f).late = s.late := rfl
@[simp] theorem State.modThread_banks (s : State) (k j : Nat) (f : Thread → Thread) : (s.modThread k j f).banks = s.banks := rfl
@[simp] theorem State.modThread_bankq (s : State) (k j : Nat) (f : Thread → Thread) : (s.modThread k j f).bankq = s.bankq := rfl
@[simp] theorem State.modThread_cur (s : State) (k j : Nat) (f : Thread → Thread) : (s.modThread k j f).cur = s.cur := rfl

@[simp] theorem State.modOwn_clusters (s : State) (f : Core → Core) : (s.modOwn f).clusters = s.clusters := rfl
@[simp] theorem State.modOwn_cdies (s : State) (f : Core → Core) : (s.modOwn f).cdies = s.cdies := rfl
@[simp] theorem State.modOwn_mdies (s : State) (f : Core → Core) : (s.modOwn f).mdies = s.mdies := rfl
@[simp] theorem State.modOwn_ctxs (s : State) (f : Core → Core) : (s.modOwn f).ctxs = s.ctxs := rfl
@[simp] theorem State.modOwn_queues (s : State) (f : Core → Core) : (s.modOwn f).queues = s.queues := rfl
@[simp] theorem State.modOwn_launches (s : State) (f : Core → Core) : (s.modOwn f).launches = s.launches := rfl
@[simp] theorem State.modOwn_mem (s : State) (f : Core → Core) : (s.modOwn f).mem = s.mem := rfl
@[simp] theorem State.modOwn_timeBase (s : State) (f : Core → Core) : (s.modOwn f).timeBase = s.timeBase := rfl
@[simp] theorem State.modOwn_timeFloor (s : State) (f : Core → Core) : (s.modOwn f).timeFloor = s.timeFloor := rfl
@[simp] theorem State.modOwn_panel (s : State) (f : Core → Core) : (s.modOwn f).panel = s.panel := rfl
@[simp] theorem State.modOwn_rails (s : State) (f : Core → Core) : (s.modOwn f).rails = s.rails := rfl
@[simp] theorem State.modOwn_ordered (s : State) (f : Core → Core) : (s.modOwn f).ordered = s.ordered := rfl
@[simp] theorem State.modOwn_links (s : State) (f : Core → Core) : (s.modOwn f).links = s.links := rfl
@[simp] theorem State.modOwn_agenda (s : State) (f : Core → Core) : (s.modOwn f).agenda = s.agenda := rfl
@[simp] theorem State.modOwn_input (s : State) (f : Core → Core) : (s.modOwn f).input = s.input := rfl
@[simp] theorem State.modOwn_budget (s : State) (f : Core → Core) : (s.modOwn f).budget = s.budget := rfl
@[simp] theorem State.modOwn_clock (s : State) (f : Core → Core) : (s.modOwn f).clock = s.clock := rfl
@[simp] theorem State.modOwn_turn (s : State) (f : Core → Core) : (s.modOwn f).turn = s.turn := rfl
@[simp] theorem State.modOwn_lag (s : State) (f : Core → Core) : (s.modOwn f).lag = s.lag := rfl
@[simp] theorem State.modOwn_late (s : State) (f : Core → Core) : (s.modOwn f).late = s.late := rfl
@[simp] theorem State.modOwn_banks (s : State) (f : Core → Core) : (s.modOwn f).banks = s.banks := rfl
@[simp] theorem State.modOwn_bankq (s : State) (f : Core → Core) : (s.modOwn f).bankq = s.bankq := rfl
@[simp] theorem State.modOwn_cur (s : State) (f : Core → Core) : (s.modOwn f).cur = s.cur := rfl

@[simp] theorem State.modCore_clusters (s : State) (k : Nat) (f : Core → Core) : (s.modCore k f).clusters = s.clusters := rfl
@[simp] theorem State.modCore_cdies (s : State) (k : Nat) (f : Core → Core) : (s.modCore k f).cdies = s.cdies := rfl
@[simp] theorem State.modCore_mdies (s : State) (k : Nat) (f : Core → Core) : (s.modCore k f).mdies = s.mdies := rfl
@[simp] theorem State.modCore_ctxs (s : State) (k : Nat) (f : Core → Core) : (s.modCore k f).ctxs = s.ctxs := rfl
@[simp] theorem State.modCore_queues (s : State) (k : Nat) (f : Core → Core) : (s.modCore k f).queues = s.queues := rfl
@[simp] theorem State.modCore_launches (s : State) (k : Nat) (f : Core → Core) : (s.modCore k f).launches = s.launches := rfl
@[simp] theorem State.modCore_mem (s : State) (k : Nat) (f : Core → Core) : (s.modCore k f).mem = s.mem := rfl
@[simp] theorem State.modCore_timeBase (s : State) (k : Nat) (f : Core → Core) : (s.modCore k f).timeBase = s.timeBase := rfl
@[simp] theorem State.modCore_timeFloor (s : State) (k : Nat) (f : Core → Core) : (s.modCore k f).timeFloor = s.timeFloor := rfl
@[simp] theorem State.modCore_panel (s : State) (k : Nat) (f : Core → Core) : (s.modCore k f).panel = s.panel := rfl
@[simp] theorem State.modCore_rails (s : State) (k : Nat) (f : Core → Core) : (s.modCore k f).rails = s.rails := rfl
@[simp] theorem State.modCore_ordered (s : State) (k : Nat) (f : Core → Core) : (s.modCore k f).ordered = s.ordered := rfl
@[simp] theorem State.modCore_links (s : State) (k : Nat) (f : Core → Core) : (s.modCore k f).links = s.links := rfl
@[simp] theorem State.modCore_agenda (s : State) (k : Nat) (f : Core → Core) : (s.modCore k f).agenda = s.agenda := rfl
@[simp] theorem State.modCore_input (s : State) (k : Nat) (f : Core → Core) : (s.modCore k f).input = s.input := rfl
@[simp] theorem State.modCore_budget (s : State) (k : Nat) (f : Core → Core) : (s.modCore k f).budget = s.budget := rfl
@[simp] theorem State.modCore_clock (s : State) (k : Nat) (f : Core → Core) : (s.modCore k f).clock = s.clock := rfl
@[simp] theorem State.modCore_turn (s : State) (k : Nat) (f : Core → Core) : (s.modCore k f).turn = s.turn := rfl
@[simp] theorem State.modCore_lag (s : State) (k : Nat) (f : Core → Core) : (s.modCore k f).lag = s.lag := rfl
@[simp] theorem State.modCore_late (s : State) (k : Nat) (f : Core → Core) : (s.modCore k f).late = s.late := rfl
@[simp] theorem State.modCore_banks (s : State) (k : Nat) (f : Core → Core) : (s.modCore k f).banks = s.banks := rfl
@[simp] theorem State.modCore_bankq (s : State) (k : Nat) (f : Core → Core) : (s.modCore k f).bankq = s.bankq := rfl
@[simp] theorem State.modCore_cur (s : State) (k : Nat) (f : Core → Core) : (s.modCore k f).cur = s.cur := rfl

end Sys2Proof.Machine
end

