-- ==== Sys2Proof/Laws/Ops.lean ====
section
/-! SUPPORT. Laws of the shared operations: what a form of a bundle can do, what it may change, and that every meaning
answers a next state. -/

namespace Sys2Proof.Machine

/-! ### The ways a form ends -/

theorem runSlot_pending {slot : Nat} {reads writes : List RegName} {plan : State → Plan} {s : State}
    (h : s.isPending (reads ++ writes) = true) :
    runSlot slot reads writes plan s = .next (s.parkOn .pendingReg .parkedPending) := by
  simp [runSlot, h]

theorem runSlot_poisoned {slot : Nat} {reads writes : List RegName} {plan : State → Plan} {s : State} {v : Word}
    (h : s.isPending (reads ++ writes) = false) (hp : s.poisonedReg reads = some v) :
    runSlot slot reads writes plan s =
      .next (((s.logReg s.cur.core s.cur.thr v).trapEntry s.cur.core s.cur.thr 49 slot v s.src.pc).verdict .trapped) := by
  simp [runSlot, h, hp]

theorem runSlot_trap {slot : Nat} {reads writes : List RegName} {plan : State → Plan} {s : State} {c : Nat} {v : Word}
    (h : s.atHand reads writes) (hp : plan s = .trap c v) :
    runSlot slot reads writes plan s =
      .next (((s.logTrap c v).trapEntry s.cur.core s.cur.thr c slot v s.src.pc).verdict .trapped) := by
  simp [runSlot, h.1, h.2, hp]

theorem runSlot_park {slot : Nat} {reads writes : List RegName} {plan : State → Plan} {s : State} {w : Wait}
    (h : s.atHand reads writes) (hp : plan s = .park w) :
    runSlot slot reads writes plan s = .next (s.parkOn w .parked) := by
  simp [runSlot, h.1, h.2, hp]

theorem runSlot_join {slot : Nat} {reads writes : List RegName} {plan : State → Plan} {s : State} {w : Wait}
    {f : State → State} (h : s.atHand reads writes) (hp : plan s = .join w f) :
    runSlot slot reads writes plan s = .next ((f s).parkOn w .joined) := by
  simp [runSlot, h.1, h.2, hp]

theorem runSlot_go {slot : Nat} {reads writes : List RegName} {plan : State → Plan} {s : State} {f : State → State}
    (h : s.atHand reads writes) (hp : plan s = .go f) :
    runSlot slot reads writes plan s =
      .next (((f (s.modTh (Thread.advance s.src.pc))).cleanRegs reads writes).verdict .retired) := by
  simp [runSlot, h.1, h.2, hp]

/-- A form of a bundle answers a next state, whatever it decides. -/
theorem runSlot_next (slot : Nat) (reads writes : List RegName) (plan : State → Plan) (s : State) :
    ∃ t, runSlot slot reads writes plan s = .next t := by
  unfold runSlot
  split
  · exact ⟨_, rfl⟩
  · split
    · exact ⟨_, rfl⟩
    · split <;> exact ⟨_, rfl⟩

/-! ### What a form may change -/

theorem OnlyIssuer.modTh (s : State) (f : Thread → Thread) : OnlyIssuer s (s.modTh f) where
  rest := rfl
  cur := rfl
  cores := fun _ h => State.core_modCore_of_ne s _ h
  own := by
    have h : (s.modTh f).core s.cur.core = s.own.setThread s.cur.thr (f s.th) := State.own_modTh s f
    rw [h]; rfl
  threads := fun j h => State.thread_modThread_of_ne s f (.inr h)
  poison := fun p hp => by
    have h : (s.modTh f).core s.cur.core = s.own.setThread s.cur.thr (f s.th) := State.own_modTh s f
    rw [h] at hp; exact hp

theorem OnlyIssuer.verdict {s t : State} (h : OnlyIssuer s t) (v : Verdict) : OnlyIssuer s (t.verdict v) where
  rest := by
    have := h.rest
    calc t.verdict v = { t with cur := (t.verdict v).cur } := rfl
      _ = _ := by rw [this]; rfl
  cur := by
    have := h.cur
    show { t.cur with verdict := v } = _
    rw [this]; rfl
  cores := h.cores
  own := h.own
  threads := h.threads
  poison := h.poison

theorem cleanRegs_eq (t : State) (reads writes : List RegName) :
    ∃ l, (∀ p ∈ l, p ∈ t.own.poison) ∧ (t.cleanRegs reads writes = t ∨
      t.cleanRegs reads writes = t.modOwn (fun c => { c with poison := l })) := by
  unfold State.cleanRegs
  split
  · exact ⟨t.own.poison, fun _ h => h, .inl rfl⟩
  · exact ⟨_, fun p hp => (List.mem_filter.mp hp).1, .inr rfl⟩

theorem OnlyIssuer.cleanRegs {s t : State} (h : OnlyIssuer s t) (reads writes : List RegName) :
    OnlyIssuer s (t.cleanRegs reads writes) := by
  obtain ⟨l, hl, e | e⟩ := cleanRegs_eq t reads writes
  · rw [e]; exact h
  · rw [e]
    have hc : t.cur.core = s.cur.core := by rw [h.cur]
    have hown : (t.modOwn (fun c => { c with poison := l })).core s.cur.core = { t.own with poison := l } := by
      rw [← hc]; exact State.core_modCore_same t t.cur.core _
    exact
      { rest := by
          show { t with cores := _ } = _
          rw [h.rest]; rfl
        cur := h.cur
        cores := fun k hk => by
          rw [← h.cores k hk]; exact State.core_modCore_of_ne t _ (by rw [hc]; exact hk)
        own := by
          rw [hown]
          show { t.core t.cur.core with poison := l } = { s.own with threads := (t.core t.cur.core).threads, poison := l }
          rw [hc]
          exact congrArg (fun c : Core => { c with poison := l }) h.own
        threads := fun j hj => by
          rw [← h.threads j hj]
          show (_ : Core).thread j = (t.core s.cur.core).thread j
          rw [hown]; show (t.core t.cur.core).thread j = _; rw [hc]
        poison := fun p hp => by
          rw [hown] at hp
          have := hl p hp
          unfold State.own at this
          rw [hc] at this; exact h.poison p this }

theorem State.th_cleanRegs (t : State) (reads writes : List RegName) : (t.cleanRegs reads writes).th = t.th := by
  obtain ⟨l, _, e | e⟩ := cleanRegs_eq t reads writes
  · rw [e]
  · rw [e]
    show ((t.modOwn _).core t.cur.core).thread t.cur.thr = _
    have : (t.modOwn (fun c => { c with poison := l })).core t.cur.core = { t.own with poison := l } :=
      State.core_modCore_same t t.cur.core _
    rw [this]; rfl

/-- A form whose effect is a change of its thread retires so. -/
theorem runSlot_retiresAs {slot : Nat} {reads writes : List RegName} {plan : State → Plan} {s : State}
    {f : State → State} {g : Thread → Thread} (h : s.atHand reads writes) (hp : plan s = .go f)
    (hf : f (s.modTh (Thread.advance s.src.pc)) = (s.modTh (Thread.advance s.src.pc)).modTh g) :
    RetiresAs s (runSlot slot reads writes plan s) g := by
  rw [runSlot_go h hp, hf, State.modTh_modTh]
  refine ⟨_, rfl, rfl, ((OnlyIssuer.modTh s _).cleanRegs reads writes).verdict .retired, ?_⟩
  rw [State.th_verdict, State.th_cleanRegs, State.th_modTh]

/-- A form that writes a function of two scalar sources. -/
theorem runBinary_retiresAs {f : Word → Word → Word} {s : State} {d a b : BitVec 6} (h : s.atHand [rn a, rn b] [rn d]) :
    RetiresAs s (runBinary f d a b s) (fun th => th.writeS d (f (s.rs a) (s.rs b))) :=
  runSlot_retiresAs h rfl rfl

/-- A form that writes a function of one scalar source. -/
theorem runUnary_retiresAs {f : Word → Word} {s : State} {d a : BitVec 6} (h : s.atHand [rn a] [rn d]) :
    RetiresAs s (runUnary f d a s) (fun th => th.writeS d (f (s.rs a))) :=
  runSlot_retiresAs h rfl rfl

/-! ### Events -/

theorem happened_happensAs (s : State) : HappensAs (happened s) s := rfl

theorem notYet_waits (s : State) : Waits s (notYet s) := rfl

theorem Happens.of_as {r : Host.Outcome State Fault Refusal} {t : State} {p : State → Prop} (h : HappensAs r t)
    (hp : p (t.verdict .done)) : Happens r p :=
  ⟨_, h, rfl, hp⟩

end Sys2Proof.Machine
end

