-- ==== Sys2Proof/Laws/Mem.lean ====
section
/-! SUPPORT. What every operation does to memory: the operations that leave it alone (`mem_…`), and the list form that every
other operation keeps (`wf_…`). -/

namespace Sys2Proof.Machine

theorem State.mem_foldl {β : Type} (f : State → β → State) (hf : ∀ s x, (f s x).mem = s.mem) (l : List β) (s : State) :
    (l.foldl f s).mem = s.mem := by
  induction l generalizing s with
  | nil => rfl
  | cons a l ih => rw [List.foldl_cons, ih, hf]
theorem State.wf_foldl {β : Type} (f : State → β → State) (hf : ∀ s x, Memory.wf s.mem = true → Memory.wf (f s x).mem = true)
    (l : List β) (s : State) (h : Memory.wf s.mem = true) : Memory.wf (l.foldl f s).mem = true := by
  induction l generalizing s with
  | nil => exact h
  | cons a l ih => exact ih _ (hf _ _ h)
@[simp] theorem Memory.wf_writeBytes (m : Memory) (a n x : Nat) (h : Memory.wf m = true) : Memory.wf (writeBytes m a n x) = true := by
  induction n generalizing m a x with
  | zero => exact h
  | succ n ih => exact ih _ _ _ (Memory.wf_set _ _ _ h)
@[simp] theorem Memory.wf_writeList (m : Memory) (a : Nat) (l : List Byte) (h : Memory.wf m = true) :
    Memory.wf (writeList m a l) = true := by
  induction l generalizing m a with
  | nil => exact h
  | cons b r ih => exact ih _ _ (Memory.wf_set _ _ _ h)
theorem Memory.wf_foldl_set {β : Type} (f : β → Nat) (g : β → Byte) (l : List β) (m : Memory) (h : Memory.wf m = true) :
    Memory.wf (l.foldl (fun m c => Memory.set m (f c) (g c)) m) = true := by
  induction l generalizing m with
  | nil => exact h
  | cons b r ih => exact ih _ (Memory.wf_set _ _ _ h)
theorem State.wf_getD {o : Option State} {s : State} (h : Memory.wf s.mem = true)
    (ho : ∀ u, o = some u → Memory.wf u.mem = true) : Memory.wf (o.getD s).mem = true := by
  cases o with
  | none => exact h
  | some u => exact ho u rfl
/-! ### Bytes read after a write -/

theorem Memory.get_writeBytes (m : Memory) (a n x b : Nat) :
    Memory.get (writeBytes m a n x) b =
      if a ≤ b ∧ b < a + n then BitVec.ofNat 8 (x / 256 ^ (b - a)) else Memory.get m b := by
  induction n generalizing m a x with
  | zero => rw [if_neg (by omega)]; rfl
  | succ n ih =>
    show Memory.get (writeBytes (Memory.set m a (BitVec.ofNat 8 x)) (a + 1) n (x / 256)) b = _
    rw [ih, Memory.get_set]
    by_cases hb : b = a
    · subst hb; rw [if_neg (by omega), if_pos rfl, if_pos (by omega)]; simp
    · by_cases hr : a ≤ b ∧ b < a + (n + 1)
      · rw [if_pos (by omega), if_pos hr, Nat.div_div_eq_div_mul, show b - a = (b - (a + 1)) + 1 by omega, Nat.pow_succ,
          Nat.mul_comm]
      · rw [if_neg (by omega), if_neg hr, if_neg (by omega)]

theorem readBytes_congr {m m' : Memory} (a n : Nat) (h : ∀ b, a ≤ b → b < a + n → Memory.get m b = Memory.get m' b) :
    readBytes m a n = readBytes m' a n := by
  induction n generalizing a with
  | zero => rfl
  | succ n ih =>
    show _ + _ = _ + _
    rw [h a (by omega) (by omega), ih (a + 1) (fun b h1 h2 => h b (by omega) (by omega))]

/-- Reading back what a write stored gives the value written, in the width of the access. -/
theorem readBytes_writeBytes_same (m : Memory) (a n x : Nat) : readBytes (writeBytes m a n x) a n = x % 256 ^ n := by
  induction n generalizing m a x with
  | zero => simp [readBytes, Nat.mod_one]
  | succ n ih =>
    show (Memory.get (writeBytes m a (n + 1) x) a).toNat + 256 * readBytes (writeBytes m a (n + 1) x) (a + 1) n = _
    have h : readBytes (writeBytes m a (n + 1) x) (a + 1) n = x / 256 % 256 ^ n := ih _ _ _
    rw [h, Memory.get_writeBytes, if_pos (by omega), Nat.sub_self, Nat.pow_zero, Nat.div_one, BitVec.toNat_ofNat]
    have e : x % 256 ^ (n + 1) = x % 256 + 256 * (x / 256 % 256 ^ n) := by rw [Nat.pow_succ' (m := 256) (n := n), Nat.mod_mul]
    exact e.symm

/-- A write leaves every read of other bytes alone. -/
theorem readBytes_writeBytes_apart (m : Memory) (a n x b k : Nat) (h : b + k ≤ a ∨ a + n ≤ b) :
    readBytes (writeBytes m a n x) b k = readBytes m b k :=
  readBytes_congr b k (fun c h1 h2 => by rw [Memory.get_writeBytes, if_neg (by omega)])

/-- Either answer of a task's end keeps the list form. -/
def EndAns.Keeps : EndAns → Prop
  | .done u => Memory.wf u.mem = true
  | .held f => ∀ v : State, Memory.wf v.mem = true → Memory.wf (f v).mem = true

/-! ### Operations -/

@[simp] theorem mem_setCore (s : State) (k : Nat) (c : Core) : (State.setCore s k c).mem = s.mem := by
  unfold State.setCore; rfl

@[simp] theorem mem_modCore (s : State) (k : Nat) (f : Core → Core) : (State.modCore s k f).mem = s.mem := by
  unfold State.modCore; rfl

@[simp] theorem mem_setThread (s : State) (k : Nat) (t : Nat) (th : Thread) : (State.setThread s k t th).mem = s.mem := by
  unfold State.setThread; rfl

@[simp] theorem mem_modThread (s : State) (k : Nat) (t : Nat) (f : Thread → Thread) : (State.modThread s k t f).mem = s.mem := by
  unfold State.modThread; rfl

@[simp] theorem mem_modCluster (s : State) (k : Nat) (f : Cluster → Cluster) : (State.modCluster s k f).mem = s.mem := by
  unfold State.modCluster; rfl

@[simp] theorem mem_modCDie (s : State) (k : Nat) (f : CDie → CDie) : (State.modCDie s k f).mem = s.mem := by
  unfold State.modCDie; rfl

@[simp] theorem mem_modMDie (s : State) (k : Nat) (f : MDie → MDie) : (State.modMDie s k f).mem = s.mem := by
  unfold State.modMDie; rfl

@[simp] theorem mem_modCtx (s : State) (id : Nat) (f : Ctx → Ctx) : (State.modCtx s id f).mem = s.mem := by
  unfold State.modCtx; grind [State.mem_foldl]

@[simp] theorem mem_modLaunch (s : State) (id : Nat) (f : Launch → Launch) : (State.modLaunch s id f).mem = s.mem := by
  unfold State.modLaunch; grind [State.mem_foldl]

@[simp] theorem mem_modQueue (s : State) (q : Nat) (f : Queue → Queue) : (State.modQueue s q f).mem = s.mem := by
  unfold State.modQueue; rfl

@[simp] theorem mem_post (s : State) (i : Instr) : (State.post s i).mem = s.mem := by
  unfold State.post; rfl

@[simp] theorem mem_postIn (s : State) (i : Instr) (x : Input) : (State.postIn s i x).mem = s.mem := by
  unfold State.postIn; rfl

@[simp] theorem mem_postAll (s : State) (l : List Instr) : (State.postAll s l).mem = s.mem := by
  unfold State.postAll; grind [mem_post, State.mem_foldl]

@[simp] theorem mem_postOnce (s : State) (i : Instr) : (State.postOnce s i).mem = s.mem := by
  unfold State.postOnce; grind [mem_post, State.mem_foldl]

@[simp] theorem mem_modTh (s : State) (f : Thread → Thread) : (State.modTh s f).mem = s.mem := by
  unfold State.modTh; rfl

@[simp] theorem mem_modOwn (s : State) (f : Core → Core) : (State.modOwn s f).mem = s.mem := by
  unfold State.modOwn; rfl

@[simp] theorem mem_ws (s : State) (n : BitVec 6) (x : Word) : (State.ws s n x).mem = s.mem := by
  unfold State.ws; rfl

@[simp] theorem mem_wv (s : State) (n : BitVec 5) (x : Vec) : (State.wv s n x).mem = s.mem := by
  unfold State.wv; rfl

@[simp] theorem mem_wq (s : State) (n : BitVec 3) (x : Mask) : (State.wq s n x).mem = s.mem := by
  unfold State.wq; rfl

@[simp] theorem mem_verdict (s : State) (v : Verdict) : (State.verdict s v).mem = s.mem := by
  unfold State.verdict; rfl

@[simp] theorem mem_wakeFirmware (s : State) (d : Nat) : (State.wakeFirmware s d).mem = s.mem := by
  unfold State.wakeFirmware; rfl

@[simp] theorem mem_fwReport (s : State) (die : Nat) (cause : Nat) (kval : Word) : (State.fwReport s die cause kval).mem = s.mem := by
  unfold State.fwReport; grind [mem_modCDie, mem_wakeFirmware]

@[simp] theorem mem_dieReport (s : State) (d : DieRef) (cause : Nat) (kval : Word) : (State.dieReport s d cause kval).mem = s.mem := by
  unfold State.dieReport; grind [mem_fwReport, mem_modMDie, State.mem_foldl]

@[simp] theorem mem_report (s : State) (k : Nat) (cause : Nat) (kval : Word) : (State.report s k cause kval).mem = s.mem := by
  unfold State.report; grind [mem_fwReport, mem_modCDie, mem_modCore, mem_postOnce, State.mem_foldl]

@[simp] theorem mem_dieFails (s : State) (die : Nat) (unit : Nat) : (State.dieFails s die unit).mem = s.mem := by
  unfold State.dieFails; rfl

@[simp] theorem mem_modLog (s : State) (d : DieRef) (f : ErrLog → ErrLog) : (State.modLog s d f).mem = s.mem := by
  unfold State.modLog; grind [mem_modCDie, mem_modMDie, State.mem_foldl]

@[simp] theorem mem_countError (s : State) (d : DieRef) (corrected : Bool) (kind : Nat) : (State.countError s d corrected kind).mem = s.mem := by
  unfold State.countError; simp [mem_modLog]; done

@[simp] theorem mem_failDie (s : State) (d : DieRef) (unit : Nat) : (State.failDie s d unit).mem = s.mem := by
  unfold State.failDie; grind [mem_dieReport, mem_postIn, mem_dieFails, mem_modMDie, State.mem_foldl]

@[simp] theorem mem_addLog (s : State) (d : DieRef) (e : LogEntry) : (State.addLog s d e).mem = s.mem := by
  unfold State.addLog; grind [mem_failDie, mem_modLog, State.mem_foldl]

@[simp] theorem mem_logPoison (s : State) (d : DieRef) (cause : Nat) (unit : Nat) (kind : Nat) (counter : Nat) (w1 : Word) (w2 : Word) :
    (State.logPoison s d cause unit kind counter w1 w2).mem = s.mem := by
  unfold State.logPoison; grind [mem_countError, mem_addLog, State.mem_foldl]

@[simp] theorem mem_logReg (s : State) (k : Nat) (t : Nat) (v : Word) : (State.logReg s k t v).mem = s.mem := by
  unfold State.logReg; simp [mem_logPoison]; done

@[simp] theorem mem_logRow (s : State) (k : Nat) (tile : Nat) (row : Nat) : (State.logRow s k tile row).mem = s.mem := by
  unfold State.logRow; simp [mem_logPoison]; done

@[simp] theorem mem_logScratch (s : State) (k : Nat) (off : Nat) : (State.logScratch s k off).mem = s.mem := by
  unfold State.logScratch; simp [mem_logPoison]; done

@[simp] theorem mem_trapEntry (s : State) (k : Nat) (t : Nat) (cause : Nat) (slot : Nat) (v : Word) (e : Word) :
    (State.trapEntry s k t cause slot v e).mem = s.mem := by
  unfold State.trapEntry; grind [mem_fwReport, mem_modThread, mem_dieFails, mem_postOnce, State.mem_foldl]

@[simp] theorem mem_cleanRegs (s : State) (reads : List RegName) (writes : List RegName) : (State.cleanRegs s reads writes).mem = s.mem := by
  unfold State.cleanRegs; grind [mem_modOwn, State.mem_foldl]

@[simp] theorem mem_logTrap (s : State) (cause : Nat) (v : Word) : (State.logTrap s cause v).mem = s.mem := by
  unfold State.logTrap; grind [mem_logRow, State.mem_foldl]

@[simp] theorem mem_parkOn (s : State) (w : Wait) (v : Verdict) : (State.parkOn s w v).mem = s.mem := by
  unfold State.parkOn; rfl

@[simp] theorem mem_jump (s : State) (pc : Word) : (State.jump s pc).mem = s.mem := by
  unfold State.jump; rfl

@[simp] theorem mem_cacheAt (s : State) (die : Nat) (c : Ctx) (va : Word) : (State.cacheAt s die c va).mem = s.mem := by
  unfold State.cacheAt; grind [mem_modMDie]

@[simp] theorem mem_cacheLeaf (s : State) (c : Ctx) (va : Word) : (State.cacheLeaf s c va).mem = s.mem := by
  exact mem_cacheAt _ _ _ _

@[simp] theorem mem_cacheFor (s : State) (k : Nat) (x2 : Word) : (State.cacheFor s k x2).mem = s.mem := by
  unfold State.cacheFor; grind [mem_cacheLeaf, State.mem_foldl]

@[simp] theorem wf_wr (s : State) (x1 : Nat) (n : Nat) (x : Nat) (h : Memory.wf s.mem = true) : Memory.wf (State.wr s x1 n x).mem = true := by
  exact Memory.wf_writeBytes _ _ _ _ h

@[simp] theorem mem_wakeWatchers (s : State) (p : Nat) : (State.wakeWatchers s p).mem = s.mem := by
  unfold State.wakeWatchers; simp [mem_postOnce, State.mem_foldl]; done

@[simp] theorem wf_wrWake (s : State) (a : Nat) (n : Nat) (x : Nat) (h : Memory.wf s.mem = true) :
    Memory.wf (State.wrWake s a n x).mem = true :=
  State.wf_foldl _ (fun u l hu => by rw [mem_wakeWatchers]; exact hu) _ _ (by rw [mem_wakeWatchers]; exact wf_wr _ _ _ _ h)

@[simp] theorem mem_cleanSector (s : State) (p : Nat) : (State.cleanSector s p).mem = s.mem := by
  unfold State.cleanSector; rfl

@[simp] theorem mem_cleanScratch (s : State) (p : Nat) (n : Nat) (mask : Nat) : (State.cleanScratch s p n mask).mem = s.mem := by
  unfold State.cleanScratch; grind [mem_modCore, State.mem_foldl]

@[simp] theorem mem_cleanPiece (s : State) (p : Nat) (n : Nat) (off : Nat) (mask : Nat) (other : Bool) :
    (State.cleanPiece s p n off mask other).mem = s.mem := by
  unfold State.cleanPiece; grind [mem_cleanScratch, mem_cleanSector, State.mem_foldl]

@[simp] theorem mem_wakeLine (s : State) (cl : Nat) (id : Nat) (line : Nat) : (State.wakeLine s cl id line).mem = s.mem := by
  unfold State.wakeLine; grind [mem_postOnce, State.mem_foldl]

@[simp] theorem mem_dropLine (s : State) (cl : Nat) (id : Nat) (line : Nat) : (State.dropLine s cl id line).mem = s.mem := by
  unfold State.dropLine; grind [mem_modCluster, mem_wakeLine, State.mem_foldl]

@[simp] theorem mem_dropLines (s : State) (id : Nat) (line : Nat) (l : List Nat) : (State.dropLines s id line l).mem = s.mem := by
  unfold State.dropLines; grind [mem_dropLine, State.mem_foldl]

@[simp] theorem mem_freeEntry (s : State) (home : Nat) (id : Nat) (line : Nat) : (State.freeEntry s home id line).mem = s.mem := by
  unfold State.freeEntry; rfl

@[simp] theorem mem_writeBack (s : State) (home id line : Nat) : (State.writeBack s home id line).mem = s.mem := by
  unfold State.writeBack; grind [mem_modMDie]

@[simp] theorem mem_recall (s : State) (home : Nat) (id : Nat) (line : Nat) : (State.recall s home id line).mem = s.mem := by
  unfold State.recall; grind [mem_writeBack, mem_dropLines, mem_freeEntry, mem_modMDie, State.mem_foldl]

@[simp] theorem mem_hostRequest (s : State) (p : Nat) (code : Nat) : (State.hostRequest s p code).mem = s.mem := by
  unfold State.hostRequest; rfl

@[simp] theorem mem_snoopHost (s : State) (home : Nat) (p : Nat) (code : Nat) : (State.snoopHost s home p code).mem = s.mem := by
  unfold State.snoopHost; grind [mem_modMDie, mem_hostRequest, State.mem_foldl]

@[simp] theorem mem_evictEntry (s : State) (home : Nat) (e : DirEntry) : (State.evictEntry s home e).mem = s.mem := by
  unfold State.evictEntry; grind [mem_writeBack, mem_dropLines, mem_freeEntry, mem_snoopHost, State.mem_foldl]

@[simp] theorem mem_trimFilter (s : State) (fd : Nat) : (State.trimFilter s fd).mem = s.mem := by
  unfold State.trimFilter; grind [mem_modMDie, mem_evictEntry, State.mem_foldl]

@[simp] theorem mem_insertEntry (s : State) (p : Nat) (e : DirEntry) : (State.insertEntry s p e).mem = s.mem := by
  unfold State.insertEntry; grind [mem_modMDie, mem_evictEntry, mem_trimFilter, State.mem_foldl]

@[simp] theorem mem_evictL1 (s : State) (cl : Nat) (id : Nat) (line : Nat) : (State.evictL1 s cl id line).mem = s.mem := by
  unfold State.evictL1; grind [mem_modMDie, mem_dropLine, mem_freeEntry, State.mem_foldl]

@[simp] theorem mem_putLine (s : State) (cl : Nat) (id : Nat) (line : Nat) (st : Moesi) : (State.putLine s cl id line st).mem = s.mem := by
  unfold State.putLine; grind [mem_modCluster, mem_evictL1, State.mem_foldl]

@[simp] theorem mem_evictRemote (s : State) (home : Nat) (id : Nat) (line : Nat) : (State.evictRemote s home id line).mem = s.mem := by
  unfold State.evictRemote; grind [mem_modMDie, mem_recall, mem_hostRequest, State.mem_foldl]

@[simp] theorem mem_cacheRemote (s : State) (home : Nat) (id : Nat) (line : Nat) (p : Nat) (st : Moesi) : (State.cacheRemote s home id line p st).mem = s.mem := by
  unfold State.cacheRemote; grind [mem_modMDie, mem_evictRemote, State.mem_foldl]

@[simp] theorem mem_grantAlone (s : State) (home : Nat) (id : Nat) (line : Nat) (p : Nat) (keepE : Bool) : (State.grantAlone s home id line p keepE).1.mem = s.mem := by
  unfold State.grantAlone; grind [mem_hostRequest, State.mem_foldl]

@[simp] theorem mem_homeRead (s : State) (cl : Nat) (c : Ctx) (va : Word) (p : Nat) (keepE : Bool) : (State.homeRead s cl c va p keepE).mem = s.mem := by
  unfold State.homeRead; grind [mem_modCluster, mem_insertEntry, mem_putLine, mem_cacheRemote, mem_grantAlone, State.mem_foldl]

@[simp] theorem mem_homeOwn (s : State) (cl : Nat) (c : Ctx) (va : Word) (p : Nat) : (State.homeOwn s cl c va p).mem = s.mem := by
  unfold State.homeOwn; grind [mem_modCluster, mem_modMDie, mem_dropLines, mem_hostRequest, mem_snoopHost, mem_insertEntry, mem_putLine, mem_cacheRemote, State.mem_foldl]

@[simp] theorem mem_homeAtomic (s : State) (c : Ctx) (va : Word) (p : Nat) : (State.homeAtomic s c va p).mem = s.mem := by
  unfold State.homeAtomic; grind [mem_cacheRemote, mem_recall, mem_freeEntry, mem_hostRequest, mem_snoopHost, State.mem_foldl]

@[simp] theorem mem_callBack (s : State) (k : Nat) (va : Word) : (State.callBack s k va).mem = s.mem := by
  unfold State.callBack; grind [mem_snoopHost, State.mem_foldl]

@[simp] theorem mem_viaL1 (s : State) (k : Nat) (kind : AccKind) (va : Word) (p : Nat) : (State.viaL1 s k kind va p).mem = s.mem := by
  unfold State.viaL1; grind [mem_putLine, mem_homeRead, mem_homeOwn, mem_homeAtomic, State.mem_foldl]

@[simp] theorem mem_dropPhys (s : State) (p : Nat) : (State.dropPhys s p).mem = s.mem := by
  unfold State.dropPhys; simp [mem_recall, State.mem_foldl]; done

@[simp] theorem mem_sharePhys (s : State) (p : Nat) : (State.sharePhys s p).mem = s.mem := by
  unfold State.sharePhys; simp [State.mem_foldl]; done

@[simp] theorem mem_dropWhere (s : State) (hit : Nat → Nat → Bool) : (State.dropWhere s hit).mem = s.mem := by
  unfold State.dropWhere; grind [mem_dropLine, State.mem_foldl]

@[simp] theorem mem_invalidate (s : State) (id : Nat) (sz : Nat) (range : Option (Nat × Nat)) : (State.invalidate s id sz range).mem = s.mem := by
  unfold State.invalidate
  simp only [mem_dropWhere]
  repeat rw [State.mem_foldl _ (fun s x => State.mem_foldl _ (fun s y => by simp) _ _)]

@[simp] theorem mem_cleanLine (s : State) (inv : Bool) (id line : Nat) : (State.cleanLine s inv id line).mem = s.mem := by
  unfold State.cleanLine; grind [mem_dropLines, mem_recall, mem_hostRequest, mem_evictRemote, State.mem_foldl]

@[simp] theorem mem_dropWeight (s : State) (die off n : Nat) : (State.dropWeight s die off n).mem = s.mem := mem_dropWhere _ _

@[simp] theorem mem_newInterval (s : State) (k : Nat) (t : Nat) : (State.newInterval s k t).mem = s.mem := by
  unfold State.newInterval; grind [mem_modThread, State.mem_foldl]

@[simp] theorem mem_releaseClock (s : State) (k : Nat) (obj : Nat) (m : AMap Nat) : (State.releaseClock s k obj m).mem = s.mem := by
  unfold State.releaseClock; grind [mem_modCtx, State.mem_foldl]

@[simp] theorem mem_release (s : State) (k : Nat) (t : Nat) (obj : Nat) : (State.release s k t obj).mem = s.mem := by
  unfold State.release; simp [mem_newInterval, mem_releaseClock]; done

@[simp] theorem mem_acquire (s : State) (k : Nat) (t : Nat) (obj : Nat) : (State.acquire s k t obj).mem = s.mem := by
  unfold State.acquire; grind [mem_modThread, State.mem_foldl]

@[simp] theorem mem_noteAt (s : State) (k : Nat) (t : Nat) (who : Nat) (st : Stamp) (kind : SigKind) (key : Nat) (loc : Word) :
    (State.noteAt s k t who st kind key loc).mem = s.mem := by
  unfold State.noteAt; grind [mem_modCtx, State.mem_foldl]

@[simp] theorem mem_noteMem (s : State) (k : Nat) (t : Nat) (who : Nat) (st : Stamp) (kind : SigKind) (va : Word) (p : Nat) (n : Nat) :
    (State.noteMem s k t who st kind va p n).mem = s.mem := by
  unfold State.noteMem; grind [mem_noteAt, State.mem_foldl]

@[simp] theorem mem_noteTile (s : State) (k : Nat) (t : Nat) (who : Nat) (st : Stamp) (kind : SigKind) (tile : Nat) (row : Nat) :
    (State.noteTile s k t who st kind tile row).mem = s.mem := by
  unfold State.noteTile; simp [mem_noteAt]; done

@[simp] theorem mem_noteSem (s : State) (k : Nat) (t : Nat) (st : Stamp) (n : Nat) : (State.noteSem s k t st n).mem = s.mem := by
  unfold State.noteSem; simp [mem_noteAt]; done

@[simp] theorem mem_noteInbox (s : State) (k : Nat) (t : Nat) (st : Stamp) : (State.noteInbox s k t st).mem = s.mem := by
  unfold State.noteInbox; simp [mem_noteAt]; done

@[simp] theorem mem_addEntry (s : State) (e : AccEntry) : (State.addEntry s e).mem = s.mem := by
  unfold State.addEntry; rfl

@[simp] theorem mem_raiseFlags (s : State) (fl : BitVec 5) : (State.raiseFlags s fl).mem = s.mem := by
  unfold State.raiseFlags; rfl

@[simp] theorem mem_sendEntry (s : State) (k : Nat) (t : Nat) (e : AccEntry) : (State.sendEntry s k t e).mem = s.mem := by
  unfold State.sendEntry; grind [mem_post, State.mem_foldl]

@[simp] theorem mem_takeEntry (s : State) (e : AccEntry) : (State.takeEntry s e).mem = s.mem := by
  unfold State.takeEntry; simp [mem_addEntry, mem_sendEntry]; done

@[simp] theorem mem_holdThread (s : State) (k : Nat) (t : Nat) (cause : Nat) (isLatch : Bool) :
    (State.holdThread s k t cause isLatch).mem = s.mem := by
  unfold State.holdThread; grind [mem_fwReport, mem_modThread, mem_report, mem_dieFails, State.mem_foldl]

@[simp] theorem mem_observe (s : State) (k t p n : Nat) : (State.observe s k t p n).mem = s.mem := by
  unfold State.observe; grind [mem_acquire, State.mem_foldl]

@[simp] theorem mem_loadPieces (k : Nat) (t : Nat) (st : Stamp) (m : Mode) (x4 : List Piece) (x5 : State) (x6 : Vec) (x7 : Nat) :
    (loadPieces k t st m x4 x5 x6 x7).state.mem = x5.mem := by
  induction x4 generalizing x5 x6 x7 with
  | nil => rfl
  | cons a l ih => unfold loadPieces; split <;> simp [ih]

@[simp] theorem mem_hostReach (s : State) (k : Nat) (t : Nat) (epoch : Nat) (p : Nat) : (State.hostReach s k t epoch p).mem = s.mem := by
  unfold State.hostReach; grind [mem_modThread, State.mem_foldl]

@[simp] theorem wf_storeAt (s : State) (k : Nat) (t : Nat) (epoch : Nat) (va : Word) (p : Nat) (n : Nat) (x : Nat) (h : Memory.wf s.mem = true) :
    Memory.wf (State.storeAt s k t epoch va p n x).mem = true := by
  unfold State.storeAt; simp [*, mem_cacheFor, wf_wr, mem_wakeWatchers, mem_viaL1, mem_hostReach]

@[simp] theorem mem_makeLate (s : State) (k : Nat) (t : Nat) (seq : Nat) (va : Word) (p : Nat) (n : Nat) (old : Nat) : (State.makeLate s k t seq va p n old).mem = s.mem := by
  unfold State.makeLate; grind [State.mem_foldl]

@[simp] theorem mem_settleLate (s : State) (k : Nat) (t : Nat) (seq : Nat) : (State.settleLate s k t seq).mem = s.mem := by
  unfold State.settleLate; grind [mem_wakeWatchers, State.mem_foldl]

@[simp] theorem wf_storePieces (k t epoch seq : Nat) (st : Stamp) (m : Mode) (v : Vec) (x6 : List Piece) (x7 : State) (x8 : Nat)
    (h : Memory.wf x7.mem = true) : Memory.wf (storePieces k t epoch seq st m v x6 x7 x8).state.mem = true := by
  induction x6 generalizing x7 x8 with
  | nil => exact h
  | cons a l ih =>
    unfold storePieces
    split
    · exact h
    · exact ih _ _ (by simp [h])

@[simp] theorem mem_callFor (s : State) (k : Nat) (e : AccEntry) : (State.callFor s k e).mem = s.mem := by
  unfold State.callFor; simp [mem_callBack, State.mem_foldl]; done

theorem wf_channelDo (s : State) (send : Bool) (me : Nat) (p : Nat) (k : Nat) (off : Nat) (x : Word) (h : Memory.wf s.mem = true) {u : State} {y} (e : (State.channelDo s send me p k off x) = some (u, y)) :
    Memory.wf u.mem = true := by
  unfold State.channelDo at e; grind [mem_post, mem_modCore, wf_wr, mem_cleanScratch, State.wf_foldl]

theorem wf_feDo (s : State) (op : BitVec 7) (fn : BitVec 7) (me : Nat) (p : Nat) (k : Nat) (off : Nat) (x : Word) (h : Memory.wf s.mem = true) {u : State} {y} (e : (State.feDo s op fn me p k off x) = some (u, y)) :
    Memory.wf u.mem = true := by
  unfold State.feDo at e; grind [mem_post, wf_channelDo, mem_modCore, wf_wr, mem_cleanScratch, State.wf_foldl]

@[simp] theorem mem_grantTo (s : State) (k : Nat) (t : Nat) (l : List Word) : (State.grantTo s k t l).mem = s.mem := by
  unfold State.grantTo; rfl

@[simp] theorem mem_feOrder (s : State) (k : Nat) (t : Nat) (e : AccEntry) (p : Nat) : (State.feOrder s k t e p).mem = s.mem := by
  unfold State.feOrder; grind [mem_acquire, mem_noteAt, mem_release, State.mem_foldl]

@[simp] theorem mem_cleanRange (s : State) (k : Nat) (inv : Bool) (e : AccEntry) : (State.cleanRange s k inv e).mem = s.mem := by
  unfold State.cleanRange
  split
  · exact State.mem_foldl _ (fun s (l : Nat × Nat) => mem_cleanLine s inv l.1 l.2) _ _
  · rfl

@[simp] theorem wf_loadCore (s : State) (off : Nat) (l : List Byte) (k : Nat) (h : Memory.wf s.mem = true) :
    Memory.wf (State.loadCore s off l k).mem = true := by
  unfold State.loadCore
  dsimp only
  split
  · exact Memory.wf_writeList _ _ _ h
  · rw [mem_modCore]; exact Memory.wf_writeList _ _ _ h

@[simp] theorem wf_loadImage (s : State) (off : Nat) (l : List Byte) (cores : List Nat) (h : Memory.wf s.mem = true) :
    Memory.wf (State.loadImage s off l cores).mem = true := State.wf_foldl _ (fun s k h => wf_loadCore s off l k h) _ _ h

@[simp] theorem mem_meetSector (s : State) (k : Nat) (a : Word) : (State.meetSector s k a).mem = s.mem := by
  unfold State.meetSector; dsimp only; (repeat' split) <;> rfl

@[simp] theorem mem_metAt (s : State) (k cause : Nat) (a : Word) : (State.metAt s k cause a).mem = s.mem := by
  unfold State.metAt; split <;> simp

@[simp] theorem mem_askHome (s : State) (k : Nat) (own : Bool) (va : Word) : (State.askHome s k own va).mem = s.mem := by
  unfold State.askHome; split <;> simp

@[simp] theorem mem_logHeld (s : State) (k : Nat) (cause : Nat) (x3 : Word) : (State.logHeld s k cause x3).mem = s.mem := by
  unfold State.logHeld; grind [mem_logScratch, State.mem_foldl]

@[simp] theorem mem_putFirst (d : BitVec 6) (l : List Word) (t : State) : (putFirst d l t).mem = t.mem := by
  unfold putFirst; rfl

@[simp] theorem wf_atomicAt (s : State) (k : Nat) (t : Nat) (l : Latch) (p : Nat) (h : Memory.wf s.mem = true) :
    Memory.wf (State.atomicAt s k t l p).mem = true := by
  unfold State.atomicAt; dsimp only; (repeat' split) <;> simp [*, mem_cacheFor, wf_wr, mem_wakeWatchers, mem_viaL1]

@[simp] theorem mem_acceptOp (s : State) (k : Nat) (o : MatOp) : (State.acceptOp s k o).mem = s.mem := by
  unfold State.acceptOp; simp [mem_postOnce]; done

@[simp] theorem mem_endGroup (s : State) (l : List Nat) : (State.endGroup s l).mem = s.mem :=
  State.mem_foldl _ (fun s m => mem_modCore s m _) _ _

@[simp] theorem mem_matFault (s : State) (k : Nat) (cause : Nat) (o : MatOp) (detail : Nat) : (State.matFault s k cause o detail).mem = s.mem := by
  unfold State.matFault; simp only [mem_report, mem_endGroup, mem_modCore]

@[simp] theorem mem_noteGroup (s : State) (k : Nat) : (State.noteGroup s k).mem = s.mem := by
  unfold State.noteGroup; grind [mem_noteTile, State.mem_foldl]

@[simp] theorem mem_groupStep (s : State) (core : Nat) (o : MatOp) (ga : Nat) (gb : Nat) : (State.groupStep s core o ga gb).mem = s.mem := by
  unfold State.groupStep; grind [mem_modCore, mem_noteGroup, State.mem_foldl]

@[simp] theorem mem_runGroupAt (s : State) (core : Nat) (o : MatOp) (ga gb : Nat) (f : MatOp → MatOp) (last : Bool) :
    (State.runGroupAt s core o ga gb f last).mem = s.mem := by
  unfold State.runGroupAt
  split
  · simp only [mem_matFault, mem_logRow]
  · dsimp only; split <;> simp only [mem_postOnce, mem_endGroup, mem_modCore, mem_groupStep]

@[simp] theorem wf_record (s : State) (n : Nat) (ctx : Nat) (comp : Word) (compv : Word) (status : Nat) (count : Nat) (h : Memory.wf s.mem = true) :
    Memory.wf (State.record s n ctx comp compv status count).mem = true := by
  unfold State.record
  repeat' split
  all_goals first | exact h | exact wf_wrWake _ _ _ _ (wf_wrWake _ _ _ _ (wf_wrWake _ _ _ _ h))

@[simp] theorem mem_modStream (s : State) (k : Nat) (t : Nat) (n : BitVec 3) (f : Stream → Stream) : (State.modStream s k t n f).mem = s.mem := by
  unfold State.modStream; rfl

@[simp] theorem mem_signal (s : State) (k : Nat) (e : EngCmd) : (State.signal s k e).mem = s.mem := by
  unfold State.signal; grind [mem_modCore, mem_postOnce, State.mem_foldl]

@[simp] theorem mem_grantRow (s : State) (core : Nat) (t : Nat) (d : DrainRows) : (State.grantRow s core t d).mem = s.mem := by
  unfold State.grantRow; rfl

@[simp] theorem mem_releaseRow (s : State) (k : Nat) (t : Nat) : (State.releaseRow s k t).mem = s.mem := by
  unfold State.releaseRow; grind [mem_modCore, mem_postOnce, mem_releaseClock, mem_signal, State.mem_foldl]

@[simp] theorem mem_engTouch (s : State) (k : Nat) (kind : AccKind) (x3 : Word) (p : Nat) : (State.engTouch s k kind x3 p).mem = s.mem := by
  unfold State.engTouch; simp [mem_cacheFor, mem_viaL1]; done

@[simp] theorem mem_engNote (s : State) (k : Nat) (w : Nat) (kind : SigKind) (va : Word) (p : Nat) (n : Nat) :
    (State.engNote s k w kind va p n).mem = s.mem := by
  unfold State.engNote; grind [mem_noteMem, State.mem_foldl]

@[simp] theorem mem_engTile (s : State) (k : Nat) (w : Nat) (kind : SigKind) (tile : Nat) (row : Nat) :
    (State.engTile s k w kind tile row).mem = s.mem := by
  unfold State.engTile; grind [mem_noteTile, State.mem_foldl]

theorem mem_engRead (k thr : Nat) (m : Mode) (b : Word) (x3 : List Piece) (x4 : State) (x5 : Nat) {u : State} {y}
    (e : engRead k thr m b x3 x4 x5 = .ok (u, y)) : u.mem = x4.mem := by
  induction x3 generalizing x4 x5 with
  | nil => cases e; rfl
  | cons a l ih =>
    unfold engRead at e
    split at e
    · cases e
    · simpa using ih _ _ e

theorem mem_engBytes (s : State) (k thr : Nat) (m : Mode) (b a : Word) (n : Nat) {u : State} {y}
    (e : State.engBytes s k thr m b a n = .ok (u, y)) : u.mem = s.mem := mem_engRead _ _ _ _ _ _ _ e

@[simp] theorem mem_setFullFrom (s : State) (tc : Nat) (off : Nat) (n : Nat) (mask : Nat) : (State.setFullFrom s tc off n mask).mem = s.mem := by
  unfold State.setFullFrom; grind [mem_post, mem_modCore, State.mem_foldl]

@[simp] theorem wf_engPut (s : State) (k : Nat) (x2 : Word) (p : Nat) (n : Nat) (x : Nat) (mask : Nat) (h : Memory.wf s.mem = true) :
    Memory.wf (State.engPut s k x2 p n x mask).mem = true := by
  unfold State.engPut; dsimp only; (repeat' split) <;> simp [*, wf_wr, mem_wakeWatchers, mem_engTouch, mem_setFullFrom]

theorem wf_engWrite (k thr : Nat) (m : Mode) (b : Word) (x mask : Nat) (x5 : List Piece) (x6 : State) (x7 : List Nat)
    (h : Memory.wf x6.mem = true) {u : State} {y} (e : engWrite k thr m b x mask x5 x6 x7 = .ok (u, y)) :
    Memory.wf u.mem = true := by
  induction x5 generalizing x6 x7 with
  | nil => cases e; exact h
  | cons a l ih =>
    unfold engWrite at e
    dsimp only at e
    split at e
    · exact ih _ _ h e
    · split at e
      · cases e
      · exact ih _ _ (by simp [h]) e

theorem wf_engStore (s : State) (k thr : Nat) (m : Mode) (b a : Word) (n x mask : Nat) (h : Memory.wf s.mem = true) {u : State} {y}
    (e : State.engStore s k thr m b a n x mask = .ok (u, y)) : Memory.wf u.mem = true := wf_engWrite _ _ _ _ _ _ _ _ _ h e

theorem mem_readElem (s : State) (k : Nat) (thr : Nat) (m : Mode) (d : Desc) (i : Idx) {u : State} {y} (e : (State.readElem s k thr m d i) = .ok (u, y)) :
    u.mem = s.mem := by
  unfold State.readElem at e
  dsimp only at e
  split at e
  · nomatch e
  · rename_i hx; cases e; exact mem_engBytes _ _ _ _ _ _ _ hx

theorem wf_writeElem (s : State) (k : Nat) (thr : Nat) (m : Mode) (d : Desc) (i : Idx) (x : Nat) (h : Memory.wf s.mem = true) {u : State} {y} (e : (State.writeElem s k thr m d i x) = .ok (u, y)) :
    Memory.wf u.mem = true := wf_engStore _ _ _ _ _ _ _ _ _ h e

theorem wf_writeScale (s : State) (k : Nat) (thr : Nat) (m : Mode) (d : Desc) (i : Idx) (x : Nat) (h : Memory.wf s.mem = true) {u : State} {y} (e : (State.writeScale s k thr m d i x) = .ok (u, y)) :
    Memory.wf u.mem = true := wf_engStore _ _ _ _ _ _ _ _ _ h e

theorem mem_readScale (s : State) (k : Nat) (thr : Nat) (m : Mode) (d : Desc) (i : Idx) {u : State} {y} (e : (State.readScale s k thr m d i) = .ok (u, y)) :
    u.mem = s.mem := mem_engBytes _ _ _ _ _ _ _ e

@[simp] theorem mem_acceptCopy (s : State) (i : Instr) (va : Word) (vb : Word) (vc : Word) (tsh : Word) :
    (State.acceptCopy s i va vb vc tsh).mem = s.mem := by
  unfold State.acceptCopy; grind [mem_modOwn, mem_modTh, mem_postOnce, State.mem_foldl]

theorem mem_readDesc (s : State) (k : Nat) (c : CopyCmd) (x3 : Word) (dst : Bool) {u : State} {y} (e : (State.readDesc s k c x3 dst) = .ok (u, y)) :
    u.mem = s.mem := by
  unfold State.readDesc at e
  split at e
  · nomatch e
  · split at e
    · nomatch e
    · dsimp only at e
      split at e
      · cases e; exact mem_engBytes _ _ _ _ _ _ _ ‹_›
      · nomatch e

theorem mem_openCopy (s : State) (k : Nat) (c : CopyCmd) {u : State} {y} (e : (State.openCopy s k c) = .ok (u, y)) : u.mem = s.mem := by
  unfold State.openCopy at e
  dsimp only at e
  repeat' split at e
  all_goals first | contradiction | skip
  all_goals (simp only [Except.ok.injEq, Prod.mk.injEq] at e; obtain ⟨rfl, -⟩ := e)
  all_goals first
    | rfl
    | exact mem_readDesc _ _ _ _ _ ‹_›
    | exact (mem_readDesc _ _ _ _ _ ‹_›).trans (mem_readDesc _ _ _ _ _ ‹_›)

@[simp] theorem mem_copyWaits (s : State) (core : Nat) (x : CopyCmd) (a : Word) (wr : Bool) (again : Instr) : (State.copyWaits s core x a wr again).mem = s.mem := by
  unfold State.copyWaits; grind [mem_modCore, mem_post, wf_wr, mem_callBack, State.mem_foldl]

@[simp] theorem mem_restartCopies (s : State) (core : Nat) : (State.restartCopies s core).mem = s.mem := by
  unfold State.restartCopies; grind [mem_post, mem_modCore, mem_postOnce, State.mem_foldl]

@[simp] theorem mem_restartMatrix (s : State) (core : Nat) : (State.restartMatrix s core).mem = s.mem := by
  unfold State.restartMatrix; grind [mem_post, mem_modCore, mem_postOnce, State.mem_foldl]

theorem wf_cpyStep (s : State) (k : Nat) (c : CopyCmd) (tr : Bool) (d f : Desc) (h : Memory.wf s.mem = true)
    {u : State} {y} (e : s.cpyStep k c tr d f = .ok (u, y)) : Memory.wf u.mem = true := by
  unfold State.cpyStep at e
  dsimp only at e
  split at e
  · nomatch e
  · rename_i v x hx
    have h1 : Memory.wf v.mem = true := by
      split at hx
      · rw [mem_readElem _ _ _ _ _ _ hx]; exact h
      · cases hx; exact h
    split at e
    · nomatch e
    · rename_i w l hw
      have h2 := wf_writeElem _ _ _ _ _ _ _ h1 hw
      split at e
      · split at e
        · nomatch e
        · rename_i v2 y2 hy
          have h3 : Memory.wf v2.mem = true := by
            split at hy
            · rw [mem_readScale _ _ _ _ _ _ hy]; exact h2
            · cases hy; exact h2
          split at e
          · nomatch e
          · rename_i hz
            have h4 := wf_writeScale _ _ _ _ _ _ _ h3 hz
            cases e; exact h4
      · cases e; exact h2

theorem mem_tldElems (k : Nat) (c : CopyCmd) (d : Desc) (r : Nat) (x4 : Nat) (x5 : Nat) (x6 : State) {u : State} {y} (e : (tldElems k c d r x4 x5 x6) = .ok (u, y)) :
    u.mem = x6.mem := by
  induction x4 generalizing x5 x6 u y with
  | zero => cases e; rfl
  | succ n ih =>
    unfold tldElems at e
    repeat' split at e
    all_goals first | contradiction | skip
    all_goals simp_all
    all_goals grind [mem_readElem]

theorem mem_tldScales (k : Nat) (c : CopyCmd) (d : Desc) (r : Nat) (x4 : Nat) (x5 : Nat) (x6 : State) {u : State} {y} (e : (tldScales k c d r x4 x5 x6) = .ok (u, y)) :
    u.mem = x6.mem := by
  induction x4 generalizing x5 x6 u y with
  | zero => cases e; rfl
  | succ n ih =>
    unfold tldScales at e
    repeat' split at e
    all_goals first | contradiction | skip
    all_goals simp_all
    all_goals grind [mem_readScale]

theorem mem_tldStep (s : State) (k : Nat) (c : CopyCmd) (t : Nat) (d : Desc) {u : State} {y} (e : (State.tldStep s k c t d) = .ok (u, y)) :
    u.mem = s.mem := by
  unfold State.tldStep at e
  split at e
  · contradiction
  · rename_i hx
    have h1 := mem_tldElems _ _ _ _ _ _ _ hx
    dsimp only at e
    split at e
    · split at e
      · contradiction
      · rename_i hy
        have h2 := mem_tldScales _ _ _ _ _ _ _ hy
        cases e
        simp [h1, h2]
    · cases e
      simp [h1]

theorem mem_tileRead (s : State) (k : Nat) (c : CopyCmd) (t r : Nat) {u : State} {y} (e : State.tileRead s k c t r = .ok (u, y)) :
    u.mem = s.mem := by
  unfold State.tileRead at e
  split at e
  · cases e; rfl
  · dsimp only at e
    split at e
    · nomatch e
    · cases e; split <;> simp

theorem wf_tstStep (s : State) (k : Nat) (c : CopyCmd) (t : Nat) (d : Desc) (h : Memory.wf s.mem = true) {u : State} {y} (e : (State.tstStep s k c t d) = .ok (u, y)) :
    Memory.wf u.mem = true := by
  unfold State.tstStep at e
  dsimp only at e
  split at e
  · nomatch e
  · rename_i ht
    split at e
    · nomatch e
    · rename_i hw
      have h2 := wf_writeElem _ _ _ _ _ _ _ (by rw [mem_tileRead _ _ _ _ _ ht]; exact h) hw
      split at e
      · split at e
        · nomatch e
        · rename_i hz
          have h4 := wf_writeScale _ _ _ _ _ _ _ h2 hz
          cases e; exact h4
      · cases e; exact h2

theorem wf_moveStep (s : State) (k : Nat) (c : CopyCmd) (h : Memory.wf s.mem = true) {u : State} {y} (e : (State.moveStep s k c) = .ok (u, y)) :
    Memory.wf u.mem = true := by
  unfold State.moveStep at e
  dsimp only at e
  split at e
  · split at e
    · nomatch e
    · cases e; exact wf_cpyStep _ _ _ _ _ _ h ‹_›
  · split at e
    · nomatch e
    · cases e; exact wf_tstStep _ _ _ _ _ h ‹_›
  · split at e
    · nomatch e
    · cases e; rw [mem_tldStep _ _ _ _ _ ‹_›]; exact h
  · split at e
    · nomatch e
    · cases e; rw [mem_tldStep _ _ _ _ _ ‹_›]; exact h
  · cases e; exact h

theorem wf_moveAll (k : Nat) (one : Bool) (n : Nat) (w b : State × CopyCmd) (s : State) (c : CopyCmd)
    (hw : Memory.wf w.1.mem = true) (hb : Memory.wf b.1.mem = true) (h : Memory.wf s.mem = true) :
    Memory.wf (moveAll k one n w b s c).1.mem = true := by
  induction n generalizing w b s c with
  | zero => exact h
  | succ n ih =>
    have hw' : Memory.wf (if c.atWord then (s, c) else w).1.mem = true := by split <;> assumption
    have hb' : Memory.wf (if c.atByte then (s, c) else b).1.mem = true := by split <;> assumption
    unfold moveAll
    dsimp only
    split
    · exact hw'
    · exact hb'
    · rename_i hm
      have h' := wf_moveStep _ _ _ h hm
      split
      · exact h'
      · exact ih _ _ _ _ hw' hb' h'

@[simp] theorem wf_moveRest (s : State) (k : Nat) (c : CopyCmd) (h : Memory.wf s.mem = true) : Memory.wf (State.moveRest s k c).1.mem = true :=
  wf_moveAll _ _ _ _ _ _ _ h h h

@[simp] theorem mem_finishCopy (s : State) (k : Nat) (c : CopyCmd) : (State.finishCopy s k c).mem = s.mem := by
  unfold State.finishCopy; simp [mem_releaseClock, mem_postOnce, mem_signal]; done

theorem mem_redElem (s : State) (k : Nat) (c : CopyCmd) (n : Nat) {u : State} {y} (e : (State.redElem s k c n) = .ok (u, y)) : u.mem = s.mem := by
  unfold State.redElem at e
  split at e
  · split at e
    · nomatch e
    · cases e; exact mem_readElem _ _ _ _ _ _ ‹_›
  · dsimp only at e
    split at e
    · nomatch e
    · cases e; exact mem_tileRead _ _ _ _ _ ‹_›

theorem mem_redAll (k : Nat) (l : List Nat) (s : State) (c : CopyCmd) {u : State} {y} (e : redAll k l s c = .ok (u, y)) : u.mem = s.mem := by
  induction l generalizing s c u y with
  | nil => cases e; rfl
  | cons n l ih =>
    unfold redAll at e
    split at e
    · nomatch e
    · rename_i h1
      split at e
      · nomatch e
      · cases e; rw [ih _ _ ‹_›, mem_redElem _ _ _ _ h1]

theorem wf_redPut (s : State) (k : Nat) (c : CopyCmd) (n x : Nat) (h : Memory.wf s.mem = true) {u : State} {y}
    (e : (State.redPut s k c n x) = .ok (u, y)) : Memory.wf u.mem = true := by
  unfold State.redPut at e
  split at e
  · dsimp only at e
    split at e
    · nomatch e
    · nomatch e
    · rename_i hp hr
      have h2 := mem_readElem _ _ _ _ _ _ hr
      split at e
      · nomatch e
      · rename_i hs
        cases e
        refine wf_engStore _ _ _ _ _ _ _ _ _ ?_ hs
        split
        · split
          · rw [mem_homeAtomic, h2]; exact h
          · rw [h2]; exact h
        · rw [h2]; exact h
  · cases e; exact h

theorem wf_redApply (s : State) (k : Nat) (c : CopyCmd) (n : Nat) (h : Memory.wf s.mem = true) {u : State} {y} (e : (State.redApply s k c n) = .ok (u, y)) :
    Memory.wf u.mem = true := by
  unfold State.redApply at e
  split at e
  · nomatch e
  · rename_i hx
    exact wf_redPut _ _ _ _ _ (by rw [mem_redElem _ _ _ _ hx]; exact h) e

@[simp] theorem mem_streamReport (s : State) (k : Nat) (t : Nat) (n : BitVec 3) (a : Word) : (State.streamReport s k t n a).mem = s.mem := by
  unfold State.streamReport; grind [mem_report, State.mem_foldl]

@[simp] theorem mem_streamFault (s : State) (k : Nat) (t : Nat) (n : BitVec 3) (x4 : Word) : (State.streamFault s k t n x4).mem = s.mem := by
  unfold State.streamFault; simp [mem_report, mem_modStream]; done

@[simp] theorem mem_frameFault (s : State) (k : Nat) (t : Nat) (fr : Word) : (State.frameFault s k t fr).mem = s.mem := by
  unfold State.frameFault; grind [mem_modThread, mem_report, State.mem_foldl]

@[simp] theorem mem_frameGood (s : State) (k : Nat) (t : Nat) : (State.frameGood s k t).mem = s.mem := by
  unfold State.frameGood; rfl

@[simp] theorem mem_frameTouch (s : State) (k : Nat) (fr : Word) (p : Nat) : (State.frameTouch s k fr p).mem = s.mem := by
  unfold State.frameTouch; simp [mem_cacheFor, mem_viaL1]; done

@[simp] theorem wf_setJoin (s : State) (p : Nat) (count : Nat) (susp : Bool) (term : Bool) (h : Memory.wf s.mem = true) :
    Memory.wf (State.setJoin s p count susp term).mem = true := by
  unfold State.setJoin; simp [*, wf_wr]; done

@[simp] theorem wf_joinAdd (s : State) (p : Nat) (up : Bool) (h : Memory.wf s.mem = true) : Memory.wf (State.joinAdd s p up).mem = true := by
  unfold State.joinAdd; dsimp only; (repeat' split) <;> simp [*, wf_setJoin]

@[simp] theorem wf_clearExc (s : State) (p : Nat) (h : Memory.wf s.mem = true) : Memory.wf (State.clearExc s p).mem = true := by
  unfold State.clearExc; simp [*, wf_wr]; done

@[simp] theorem wf_initJoin (s : State) (p : Nat) (h : Memory.wf s.mem = true) : Memory.wf (State.initJoin s p).mem = true := by
  unfold State.initJoin; simp [*, wf_clearExc, wf_setJoin]; done

@[simp] theorem wf_wrWords (s : State) (x1 : Nat) (l : List Word) (h : Memory.wf s.mem = true) : Memory.wf (State.wrWords s x1 l).mem = true := by
  exact State.wf_foldl _ (fun u x hu => wf_wr _ _ _ _ hu) _ _ h

@[simp] theorem wf_writeCont (s : State) (p : Nat) (c : Cont) (link : Word) (h : Memory.wf s.mem = true) :
    Memory.wf (State.writeCont s p c link).mem = true := by
  unfold State.writeCont
  refine State.wf_foldl _ (fun u o hu => ?_) _ _ ?_
  · rw [mem_wakeWatchers]; exact hu
  · have hw := fun (u : State) (hu : Memory.wf u.mem = true) => State.wf_foldl (fun (u : State) (i : Nat) =>
      u.wrWords (p + 0x100 + 16 * i) (match c.ranges.find? (fun r => r.1 == i) with | some r => r.2.words | none => [0, 0]))
      (fun u i hu => wf_wrWords u _ _ hu) (List.range 16) u hu
    split
    · exact wf_wrWords _ _ _ (hw _ (wf_wrWords _ _ _ (wf_wrWords _ _ _ (wf_wr _ _ _ _ (wf_wr _ _ _ _ (wf_wr _ _ _ _ (wf_wr _ _ _ _
        (wf_wrWords _ _ _ h))))))))
    · exact hw _ (wf_wrWords _ _ _ (wf_wrWords _ _ _ (wf_wr _ _ _ _ (wf_wr _ _ _ _ (wf_wr _ _ _ _ (wf_wr _ _ _ _
        (wf_wrWords _ _ _ h)))))))

theorem wf_spillOne (s : State) (k : Nat) (h : Memory.wf s.mem = true) {u : State} (e : State.spillOne s k = some (.ok u)) : Memory.wf u.mem = true := by
  unfold State.spillOne at e
  dsimp only at e
  rw [Option.map_eq_some_iff] at e
  obtain ⟨x, -, e⟩ := e
  (repeat' split at e) <;> first | (injection e with e; subst e; simp [h]; done) | (cases e; done)

@[simp] theorem wf_spillTo (bound : Nat) (k : Nat) (x2 : Nat) (x3 : State) (h : Memory.wf x3.mem = true) :
    Memory.wf (spillTo bound k x2 x3).mem = true := by
  induction x2 generalizing x3 with
  | zero => exact h
  | succ n ih =>
    unfold spillTo
    split
    · exact h
    · split
      · exact ih _ (wf_spillOne _ _ h ‹_›)
      · split
        · exact h
        · simp [h]
      · exact h

@[simp] theorem wf_pushDeque (s : State) (k : Nat) (t : Nat) (c : Cont) (h : Memory.wf s.mem = true) :
    Memory.wf (State.pushDeque s k t c).mem = true := by
  unfold State.pushDeque; dsimp only; (repeat' split) <;> simp [*, wf_spillTo]

theorem wf_removeEntry (s : State) (k : Nat) (e : DqEntry) (h : Memory.wf s.mem = true) {u : State} (he : State.removeEntry s k e = .ok u) :
    Memory.wf u.mem = true := by
  unfold State.removeEntry at he
  dsimp only at he
  (repeat' split at he) <;> first | (injection he with he; subst he; simp [h]; done) | (cases he; done)

@[simp] theorem wf_returnFrame (s : State) (launch : Nat) (fr : Word) (p : Nat) (h : Memory.wf s.mem = true) :
    Memory.wf (State.returnFrame s launch fr p).mem = true := by
  unfold State.returnFrame; dsimp only; (repeat' split) <;> simp [*, wf_initJoin]

@[simp] theorem mem_goIdle (s : State) (k : Nat) (t : Nat) : (State.goIdle s k t).mem = s.mem := by
  unfold State.goIdle; simp [mem_postOnce]; done

@[simp] theorem mem_drainOn (s : State) (k : Nat) (t : Nat) : (State.drainOn s k t).mem = s.mem := by
  unfold State.drainOn; simp [mem_postOnce, State.mem_foldl]; done

@[simp] theorem mem_mapCores (s : State) (f : Core → Core) : (State.mapCores s f).mem = s.mem := by
  unfold State.mapCores; rfl

@[simp] theorem mem_takeBack (s : State) (k : Nat) (t : Nat) (w : Wait) : (State.takeBack s k t w).mem = s.mem := by
  cases w
  case sem => exact mem_modCore _ _ _
  case inbox => exact mem_modCore _ _ _
  case barrier => exact mem_modLaunch _ _ _
  case barrierTimed => exact mem_modLaunch _ _ _
  case watch => exact (mem_modThread _ _ _ _).trans (mem_modCluster _ _ _)
  case drain => exact mem_modCore _ _ _
  case gang => exact mem_modCore _ _ _
  case descriptor => exact mem_modThread _ _ _ _
  case donation => exact mem_modThread _ _ _ _
  case feWord => exact (mem_modThread _ _ _ _).trans (mem_mapCores _ _)
  case channel => exact (mem_modThread _ _ _ _).trans (mem_mapCores _ _)
  all_goals exact Eq.refl s.mem

@[simp] theorem mem_withdraw (s : State) (k : Nat) (t : Nat) : (State.withdraw s k t).mem = s.mem := by
  exact (mem_modThread _ _ _ _).trans (mem_takeBack _ _ _ _)

@[simp] theorem mem_abandonSteal (s : State) (k : Nat) (t : Nat) : (State.abandonSteal s k t).mem = s.mem := by
  unfold State.abandonSteal; grind [mem_modThread, mem_modCDie, mem_mapCores, State.mem_foldl]

@[simp] theorem mem_catchGroup (s : State) (k : Nat) : (State.catchGroup s k).mem = s.mem := by
  unfold State.catchGroup; simp; done

@[simp] theorem mem_gangStop (s : State) (cores : List Nat) (sup : Bool) (scope : Word) (byCore : Option Nat) (but : Option (Nat × Nat)) :
    (State.gangStop s cores sup scope byCore but).mem = s.mem := by
  unfold State.gangStop
  refine State.mem_foldl _ (fun u k => ?_) _ _
  dsimp only
  rw [mem_postOnce, mem_modCore, apply_ite State.mem, mem_catchGroup, ite_self]
  exact State.mem_foldl _ (fun v t => by rw [mem_postOnce, mem_modThread]) _ _

@[simp] theorem mem_stopContext (s : State) (id : Nat) : (State.stopContext s id).mem = s.mem := by
  unfold State.stopContext; simp [mem_gangStop]; done

@[simp] theorem mem_unstop (s : State) (k : Nat) (t : Nat) : (State.unstop s k t).mem = s.mem := by
  unfold State.unstop; grind [mem_modThread, mem_postOnce, State.mem_foldl]

@[simp] theorem mem_gangResume (s : State) (cores : List Nat) (sup : Bool) (but : Option (Nat × Nat)) :
    (State.gangResume s cores sup but).mem = s.mem := by
  unfold State.gangResume; simp [mem_unstop, mem_postAll, State.mem_foldl]; done

@[simp] theorem wf_logFull (s : State) (k : Nat) (id : Nat) (p : Nat) (table : Word) (h : Memory.wf s.mem = true) :
    Memory.wf (State.logFull s k id p table).mem = true := by
  unfold State.logFull; grind [wf_wr, mem_report, mem_stopContext, State.wf_foldl]

@[simp] theorem wf_diverge (s : State) (k : Nat) (id : Nat) (p : Nat) (w0 : Word) (w1 : Word) (at_ : Word) (h : Memory.wf s.mem = true) :
    Memory.wf (State.diverge s k id p w0 w1 at_).mem = true := by
  unfold State.diverge; grind [wf_wr, mem_report, mem_stopContext, State.wf_foldl]

@[simp] theorem wf_logServe (s : State) (k : Nat) (t : Nat) (kind : Nat) (loop : Nat) (w1 : Word) (h : Memory.wf s.mem = true) :
    Memory.wf (State.logServe s k t kind loop w1).mem = true := by
  unfold State.logServe; grind [mem_modThread, wf_wr, State.wf_foldl]

@[simp] theorem mem_loadRouters (s : State) : (State.loadRouters s).mem = s.mem := by
  unfold State.loadRouters; grind [mem_modMDie, State.mem_foldl]

@[simp] theorem mem_sendW (s : State) (l : Link) (w : BitVec 48) : (State.sendW s l w).mem = s.mem := by
  unfold State.sendW; grind [State.mem_foldl]

@[simp] theorem mem_passLink (s : State) (x1 : BitVec 48) (l : Link) : (State.passLink s x1 l).mem = s.mem := by
  unfold State.passLink; split <;> simp

@[simp] theorem mem_listDerene (s : State) : (State.listDerene s).mem = s.mem := by
  unfold State.listDerene; grind [mem_sendW, State.mem_foldl]

@[simp] theorem mem_postCairns (s : State) : (State.postCairns s).mem = s.mem := by
  unfold State.postCairns; grind [mem_postOnce, State.mem_foldl]

theorem mem_readOut (s : State) (k : Nat) (x : OrdOp) {u : State} {y} (e : State.readOut s k x = .ok (u, y)) : u.mem = s.mem := by
  unfold State.readOut at e
  split at e
  · split at e
    · nomatch e
    · cases e; rw [mem_modCore]; exact mem_redAll _ _ _ _ ‹_›
  · cases e; rfl
  · cases e; rfl

@[simp] theorem mem_readOutStops (s : State) (k t : Nat) (x : OrdOp) (e : EngStop) : (State.readOutStops s k t x e).mem = s.mem := by
  unfold State.readOutStops; split <;> simp

@[simp] theorem mem_inject (s : State) (k : Nat) (t : Nat) (x : OrdOp) (data : List Nat) (tm : Nat) (q : Nat) :
    (State.inject s k t x data tm q).mem = s.mem := by
  unfold State.inject
  dsimp only
  rw [State.mem_foldl _ (fun u p => mem_postOnce u _)]
  cases x <;> dsimp only <;> (try split) <;> simp [State.mem_foldl, mem_passLink]

@[simp] theorem mem_fillInbox (k n : Nat) (s : State) : (State.fillInbox s k n).mem = s.mem := by
  induction n generalizing s with
  | zero => rfl
  | succ n ih => unfold State.fillInbox; (repeat' split) <;> simp [ih]

theorem mem_serveOne (s : State) (k : Nat) {u : State} (e : (State.serveOne s k) = some u) : u.mem = s.mem := by
  unfold State.serveOne at e
  split at e
  · cases e; simp only [mem_postOnce, mem_grantTo, mem_fillInbox, mem_modCore]
  · cases e

@[simp] theorem mem_serveInbox (k : Nat) (x1 : Nat) (x2 : State) : (serveInbox k x1 x2).mem = x2.mem := by
  induction x1 generalizing x2 with
  | zero => rfl
  | succ n ih =>
    unfold serveInbox
    split
    · rw [ih]; exact mem_serveOne _ _ ‹_›
    · rfl

@[simp] theorem mem_serveBox (s : State) (k : Nat) : (State.serveBox s k).mem = s.mem := by
  unfold State.serveBox; dsimp only; split <;> simp

@[simp] theorem mem_ackMsg (s : State) (core thr seq : Nat) : (State.ackMsg s core thr seq).mem = s.mem := mem_modThread _ _ _ _

@[simp] theorem mem_placeMsg (s : State) (k : Nat) (m : Msg) (core : Nat) (thr : Nat) (seq : Nat) :
    (State.placeMsg s k m core thr seq).mem = s.mem := by
  unfold State.placeMsg; simp only [mem_serveBox, mem_ackMsg, mem_modCore]

@[simp] theorem mem_dropPkt (s : State) (p : OrdPkt) : (State.dropPkt s p).mem = s.mem := by
  unfold State.dropPkt; rfl

theorem mem_applyMsg (s : State) (p : OrdPkt) (target : Nat) (m : Msg) {u : State} (e : State.applyMsg s p target m = some u) : u.mem = s.mem := by
  unfold State.applyMsg at e
  (repeat' split at e) <;> first | contradiction | (cases e; simp)

@[simp] theorem mem_returnElem (s : State) (p : OrdPkt) : (State.returnElem s p).mem = s.mem := by
  unfold State.returnElem; simp

@[simp] theorem mem_pktWaits (s : State) (p : OrdPkt) : (State.pktWaits s p).mem = s.mem := by
  unfold State.pktWaits; dsimp only; (repeat' split) <;> simp

theorem wf_applyPkt (s : State) (p : OrdPkt) (h : Memory.wf s.mem = true) {u : State} (e : (State.applyPkt s p) = some u) :
    Memory.wf u.mem = true := by
  unfold State.applyPkt at e
  dsimp only at e
  split at e
  · split at e
    · cases e; simp [h]
    · split at e
      · rw [mem_applyMsg _ _ _ _ e]; exact h
      · split at e
        · nomatch e
        · split at e
          · cases e; simp [h]
          · cases e; simp [h]
  · split at e
    · cases e; simp [h]
    · split at e
      · cases e; simp [h]
      · split at e
        · nomatch e
        · split at e
          · cases e; simp [h]
          · cases e; simp [h]
  · split at e
    · cases e; simp [h]
    · split at e
      · nomatch e
      · cases e; simp [h]
      · rename_i hr
        have h1 := wf_redPut _ _ _ _ _ h hr
        cases e
        split <;> simp [h1]

@[simp] theorem mem_applySignal (s : State) (k : Nat) (x : Nat × Nat) : (State.applySignal s k x).mem = s.mem := by
  unfold State.applySignal; grind [mem_modCore, mem_report, State.mem_foldl]

@[simp] theorem mem_passSemws (k : Nat) (x1 : List (Nat × Nat)) (x2 : State) : (passSemws k x1 x2).mem = x2.mem := by
  induction x1 generalizing x2 with
  | nil => rfl
  | cons a l ih => unfold passSemws; dsimp only; split <;> simp [ih]

@[simp] theorem mem_applySems (s : State) (core : Nat) : (State.applySems s core).mem = s.mem := by
  unfold State.applySems; simp [State.mem_foldl]

@[simp] theorem mem_updateSems (s : State) (core : Nat) : (State.updateSems s core).mem = s.mem := by
  unfold State.updateSems; dsimp only; split <;> simp

@[simp] theorem mem_watchOn (s : State) (k : Nat) (t : Nat) : (State.watchOn s k t).mem = s.mem := by
  unfold State.watchOn; grind [mem_modCluster, mem_postOnce, State.mem_foldl]

@[simp] theorem mem_watchLoad (s : State) (x1 : Word) : (State.watchLoad s x1).mem = s.mem := by
  unfold State.watchLoad; simp [mem_takeEntry]; done

theorem mem_reload (s : State) (k : Nat) (t : Nat) {u : State} (e : (State.reload s k t) = some u) : u.mem = s.mem := by
  unfold State.reload at e
  dsimp only at e
  split at e
  · split at e
    · cases e
    · cases e; simp [State.asThread]
  · cases e; rfl

@[simp] theorem wf_placeReady (s : State) (k : Nat) (d : Nat) (p : Nat) (c : Cont) (h : Memory.wf s.mem = true) :
    Memory.wf (State.placeReady s k d p c).mem = true := by
  unfold State.placeReady; dsimp only; (repeat' split) <;> simp [*, wf_writeCont, wf_wr]

theorem wf_resumeCont (s : State) (k : Nat) (t : Nat) (c : Cont) (h : Memory.wf s.mem = true) {u : State} (e : (State.resumeCont s k t c) = some u) :
    Memory.wf u.mem = true := by
  unfold State.resumeCont at e; dsimp only at e; (repeat' split at e) <;> first | contradiction | (cases e; simp [*, mem_acquire, mem_frameTouch, mem_drainOn, wf_clearExc])

@[simp] theorem mem_takeSuspended (s : State) (launch : Nat) (fr : Word) : (State.takeSuspended s launch fr).mem = s.mem := by
  unfold State.takeSuspended; simp [mem_modLaunch]; done

@[simp] theorem mem_countEnd (s : State) (task : Task) : (State.countEnd s task).mem = s.mem := by
  unfold State.countEnd; simp [mem_modLaunch, mem_postOnce]; done

@[simp] theorem mem_loseClaim (s : State) (e : DqEntry) : (State.loseClaim s e).mem = s.mem := by
  unfold State.loseClaim; grind [mem_modThread, mem_postOnce, State.mem_foldl]

theorem keeps_popTry (s : State) (busy : Bool) (k t : Nat) (e : DqEntry) (h : Memory.wf s.mem = true) :
    (s.popTry busy k t e).Keeps := by
  unfold State.popTry
  dsimp only
  repeat' split
  all_goals first
    | exact fun _ hv => hv
    | exact fun v hv => wf_diverge v _ _ _ _ _ _ hv
    | exact fun v hv => by rw [mem_frameFault]; exact hv
    | (refine wf_resumeCont _ _ _ _ ?_ ‹_›; rw [mem_loseClaim]; exact wf_removeEntry _ _ _ h ‹_›)

theorem keeps_done {u : State} (h : Memory.wf u.mem = true) : (EndAns.done u).Keeps := h

theorem keeps_joined (s : State) (busy : Bool) (k t : Nat) (P : Word) (c : Cont) (h : Memory.wf s.mem = true) :
    (s.joined busy k t P c).Keeps := by
  unfold State.joined
  repeat' split
  · exact fun v hv => wf_spillTo _ _ _ _ hv
  · exact keeps_done (by rw [mem_goIdle]; exact wf_pushDeque _ _ _ _ h)
  · exact fun _ hv => hv
  · exact keeps_done (wf_resumeCont _ _ _ _ h ‹_›)
  · exact fun v hv => by rw [mem_frameFault]; exact hv
  · exact keeps_done (by rw [mem_postOnce, mem_modThread]; exact h)

theorem keeps_endTask (busy : Bool) (n k t : Nat) (F : Task) (s : State) (h : Memory.wf s.mem = true) :
    (endTask busy n k t F s).Keeps := by
  have hf : ∀ (fr : Word), (EndAns.held (fun s => s.frameFault k t fr)).Keeps :=
    fun fr v hv => by rw [mem_frameFault]; exact hv
  have hi : ∀ {w : State}, Memory.wf w.mem = true → (EndAns.done (w.goIdle k t)).Keeps :=
    fun hw => keeps_done (by rw [mem_goIdle]; exact hw)
  induction n generalizing F s with
  | zero => exact fun _ hv => hv
  | succ n ih =>
    unfold endTask
    split
    · exact hf _
    · rename_i p hp
      have h0 := wf_returnFrame s F.launch F.frame p h
      generalize s.returnFrame F.launch F.frame p = v at h0
      dsimp only
      split
      · exact hi (by rw [mem_countEnd]; exact h0)
      · split
        · exact keeps_popTry _ _ _ _ _ h0
        · split
          · exact hf _
          · rename_i q hq
            have h1 : Memory.wf ((((v.joinAdd q false).frameTouch k F.parent q).releaseClock k (frameObj F.parent)
              ((v.thread k t).clock k t)).newInterval k t).mem = true := by
              rw [mem_newInterval, mem_releaseClock, mem_frameTouch]; exact wf_joinAdd _ _ _ h0
            generalize (((v.joinAdd q false).frameTouch k F.parent q).releaseClock k (frameObj F.parent)
              ((v.thread k t).clock k t)).newInterval k t = w at h1
            split
            · exact hi h1
            · split
              · split
                · exact hi h1
                · have h2 : Memory.wf ((w.setJoin q 0 false (w.joinTerm q)).takeSuspended F.launch F.parent).mem = true := by
                    rw [mem_takeSuspended]; exact wf_setJoin _ _ _ _ _ h1
                  exact keeps_joined _ _ _ _ _ _ h2
              · split
                · split
                  · exact hi h1
                  · exact ih _ _ (by rw [mem_takeSuspended]; exact h1)
                · exact hi h1

@[simp] theorem wf_storeExc (s : State) (p : Nat) (sidx : BitVec 32) (x : Word) (h : Memory.wf s.mem = true) :
    Memory.wf (State.storeExc s p sidx x).mem = true := by
  unfold State.storeExc; grind [wf_wr, wf_wrWake]

@[simp] theorem mem_retire (s : State) (k : Nat) (t : Nat) : (State.retire s k t).mem = s.mem := by
  unfold State.retire
  dsimp only
  split
  · exact mem_modThread _ _ _ _
  · rw [mem_postAll, State.mem_foldl _ (fun u g => mem_postOnce u _)]; simp

@[simp] theorem mem_setLoop (s : State) (launch : Nat) (n : Nat) (x : Loop) : (State.setLoop s launch n x).mem = s.mem := by
  unfold State.setLoop; simp [mem_modLaunch]; done

@[simp] theorem mem_ticketServe (s : State) (k : Nat) (t : Nat) (l : Launch) (n : Nat) (forced : Option Word) :
    (State.ticketServe s k t l n forced).mem = s.mem := by
  unfold State.ticketServe; grind [mem_grantTo, mem_setLoop, State.mem_foldl]

theorem wf_logCheck_wait (s : State) (k t kind loop : Nat) (h : Memory.wf s.mem = true) {u : State}
    (e : s.logCheck k t kind loop = .wait u) : Memory.wf u.mem = true := by
  have hd := fun a b c d e f => wf_diverge s a b c d e f h
  have hf := fun a b c d => wf_logFull s a b c d h
  unfold State.logCheck at e
  generalize State.diverge s = D at e hd
  generalize State.logFull s = F at e hf
  dsimp only at e
  split at e
  · nomatch e
  · split at e
    · nomatch e
    · split at e
      · rw [← LogAnswer.wait.inj e]; exact h
      · split at e
        · rw [← LogAnswer.wait.inj e]; exact hf _ _ _ _
        · split at e
          · rw [← LogAnswer.wait.inj e]; exact h
          · split at e
            · nomatch e
            · split at e
              · rw [← LogAnswer.wait.inj e]; exact hd _ _ _ _ _ _
              · split at e
                · rw [← LogAnswer.wait.inj e]; exact h
                · split at e
                  · rw [← LogAnswer.wait.inj e]; exact hd _ _ _ _ _ _
                  · nomatch e
@[simp] theorem wf_ticketTry (s : State) (k : Nat) (t : Nat) (h : Memory.wf s.mem = true) : Memory.wf (State.ticketTry s k t).1.mem = true := by
  unfold State.ticketTry
  split
  · exact h
  · dsimp only
    split
    · exact wf_logCheck_wait _ _ _ _ _ h ‹_›
    · simp [h]
    · simp [h]

@[simp] theorem mem_grabbed (s : State) (d : Nat) (k : Nat) (t : Nat) : (State.grabbed s d k t).mem = s.mem := by
  unfold State.grabbed; rfl

theorem wf_donateTry (s : State) (k : Nat) (t : Nat) (h : Memory.wf s.mem = true) {u : State} (e : (State.donateTry s k t) = some u) :
    Memory.wf u.mem = true := by
  unfold State.donateTry at e; dsimp only at e; (repeat' split at e) <;> first | contradiction | (cases e; simp [*, wf_wrWords, mem_grantTo, wf_wr, mem_release])

@[simp] theorem mem_startFresh (s : State) (l : Launch) (k : Nat) (t : Nat) (kind : Nat) (pc : Word) (args : List Word) :
    (State.startFresh s l k t kind pc args).mem = s.mem := by
  unfold State.startFresh; grind [mem_modThread, mem_drainOn, mem_newInterval, mem_setCore, mem_modLaunch, State.mem_foldl]

@[simp] theorem mem_joinGrab (s : State) (d k t : Nat) : (State.joinGrab s d k t).mem = s.mem := mem_modCDie _ _ _

@[simp] theorem mem_leaveGrab (s : State) (d k t : Nat) : (State.leaveGrab s d k t).mem = s.mem := mem_modCDie _ _ _

@[simp] theorem wf_relinkReady (s : State) (k d : Nat) (c : Cont) (h : Memory.wf s.mem = true) :
    Memory.wf (State.relinkReady s k d c).mem = true := by
  unfold State.relinkReady; split
  · exact h
  · exact wf_wrWake _ _ _ _ h

@[simp] theorem mem_reserveFrame (s : State) (launch : Nat) (fr : Word) (k t : Nat) :
    (State.reserveFrame s launch fr k t).mem = s.mem := mem_modLaunch _ _ _

@[simp] theorem mem_reserveAhead (s : State) (l : Launch) (k t : Nat) (seg : Nat × Word × Word) :
    (State.reserveAhead s l k t seg).mem = s.mem := by
  unfold State.reserveAhead; (repeat' split) <;> simp

@[simp] theorem wf_claim (s : State) (l : Launch) (k : Nat) (t : Nat) (f : Found) (forced : Option Word) (h : Memory.wf s.mem = true) :
    Memory.wf (State.claim s l k t f forced).mem = true := by
  unfold State.claim
  have h0 : Memory.wf (s.modLaunch l.id (fun l => { l with reserved := l.reserved.filter (fun x => !(x.2 == (k, t % 8))) })).mem = true := by
    simp [h]
  generalize s.modLaunch l.id _ = v at h0 ⊢
  dsimp only
  repeat' split
  all_goals try simp only [mem_postOnce, mem_modThread, mem_modCore, mem_modCDie, mem_loseClaim, mem_startFresh, mem_setLoop,
    mem_grabbed, mem_acquire]
  all_goals first | exact h0 | exact wf_relinkReady _ _ _ _ h0 | exact wf_wrWake _ _ _ _ h0

@[simp] theorem wf_searchReplay (s : State) (l : Launch) (k t : Nat) (h : Memory.wf s.mem = true) :
    Memory.wf (State.searchReplay s l k t).1.mem = true := by
  unfold State.searchReplay
  dsimp only
  (repeat' split) <;> simp [h]

@[simp] theorem wf_searchTry (s : State) (k : Nat) (t : Nat) (h : Memory.wf s.mem = true) : Memory.wf (State.searchTry s k t).1.mem = true := by
  unfold State.searchTry
  split
  · exact h
  · split
    · exact h
    · split
      · exact wf_searchReplay _ _ _ _ h
      · dsimp only
        split
        · simp [h]
        · rename_i l _ _ _ f _
          have h0 : Memory.wf (if s.takesUnit k f then s.joinGrab (s.ticketDie k) k t else s.leaveGrab (s.ticketDie k) k t).mem = true := by
            split <;> simp [h]
          generalize (if s.takesUnit k f then s.joinGrab (s.ticketDie k) k t else s.leaveGrab (s.ticketDie k) k t) = v at h0 ⊢
          split
          · exact h0
          · split
            · rw [mem_frameFault]; exact h0
            · split
              · exact wf_logCheck_wait _ _ _ _ _ h0 ‹_›
              · refine wf_claim _ _ _ _ _ _ ?_
                split <;> simp [h0]
              · exact h0

@[simp] theorem mem_joinSearch (s : State) (k : Nat) (t : Nat) : (State.joinSearch s k t).mem = s.mem := by
  unfold State.joinSearch; rfl

@[simp] theorem mem_leaveSearch (s : State) (k : Nat) (t : Nat) : (State.leaveSearch s k t).mem = s.mem := by
  unfold State.leaveSearch; rfl

@[simp] theorem mem_copyTiles (s : State) (x1 : Nat) (b : Nat) (l : List Nat) : (State.copyTiles s x1 b l).mem = s.mem := by
  unfold State.copyTiles; grind [mem_modCore, State.mem_foldl]

/-- Both answers of the thief keep the list form: the resumed task, and the fault that is reported. -/
theorem wf_resumeSteal (s : State) (core thr : Nat) (e : DqEntry) (h : Memory.wf s.mem = true) {u : State}
    (he : State.resumeSteal s core thr e = .ok u ∨ State.resumeSteal s core thr e = .error u) : Memory.wf u.mem = true := by
  suffices hs : ∀ x, State.resumeSteal s core thr e = x → ∀ u, (x = .ok u ∨ x = .error u) → Memory.wf u.mem = true from
    hs _ rfl u he
  intro x hx u hu
  unfold State.resumeSteal at hx
  dsimp only at hx
  split at hx
  · subst hx; obtain hu | hu := hu <;> cases hu; exact h
  · split at hx
    · subst hx; obtain hu | hu := hu <;> cases hu; rw [mem_frameFault]; exact h
    · split at hx
      · subst hx; obtain hu | hu := hu <;> cases hu; simp [h]
      · rename_i c _ _
        generalize (if c.core = core then [] else tileList c.task.tiles) = tl at hx
        split at hx
        · subst hx; obtain hu | hu := hu <;> cases hu; exact h
        · split at hx
          · subst hx; obtain hu | hu := hu <;> cases hu; rw [mem_frameFault]; exact h
          · split at hx
            · subst hx; obtain hu | hu := hu <;> cases hu; rw [mem_frameFault]; exact h
            · rename_i v hv
              have h1 : Memory.wf v.mem = true := by
                split at hv
                · refine wf_removeEntry _ _ _ ?_ hv
                  rw [mem_frameGood]
                  split <;> simp [h]
                · cases hv
                  rw [mem_frameGood]
                  split <;> simp [h]
              split at hx
              · subst hx; obtain hu | hu := hu <;> cases hu; exact wf_resumeCont _ _ _ _ h1 ‹_›
              · subst hx; obtain hu | hu := hu <;> cases hu; rw [mem_frameFault]; exact h

@[simp] theorem wf_putCells (s : State) (base : Nat) (n : Nat) (l : Memory) (h : Memory.wf s.mem = true) :
    Memory.wf (State.putCells s base n l).mem = true := by
  exact Memory.wf_foldl_set _ _ _ _ (Memory.wf_filter _ _ h)

@[simp] theorem wf_putThread (s : State) (k : Nat) (t : Nat) (h : Memory.wf s.mem = true) : Memory.wf (State.putThread s k t).mem = true := by
  unfold State.putThread; grind [wf_putCells, State.wf_foldl]

@[simp] theorem wf_putHeader (s : State) (id : Nat) (rect : Word) (h : Memory.wf s.mem = true) :
    Memory.wf (State.putHeader s id rect).mem = true := by
  unfold State.putHeader; grind [wf_wrWords, State.wf_foldl]

@[simp] theorem wf_putDie (s : State) (id : Nat) (d : Nat) (h : Memory.wf s.mem = true) : Memory.wf (State.putDie s id d).mem = true := by
  unfold State.putDie; dsimp only; (repeat' split) <;> simp [*, wf_putCells]

@[simp] theorem wf_clearCore (s : State) (k : Nat) (h : Memory.wf s.mem = true) : Memory.wf (State.clearCore s k).mem = true := by
  unfold State.clearCore
  simp [Memory.wf_filter, h]

@[simp] theorem wf_putChain (k n j : Nat) (l : List Msg) (s : State) (h : Memory.wf s.mem = true) :
    Memory.wf (putChain k n j l s).mem = true := by
  induction n generalizing j l s with
  | zero => exact h
  | succ n ih =>
    unfold putChain
    split
    · exact h
    · exact ih _ _ _ (wf_putCells _ _ _ _ h)

@[simp] theorem wf_putRecord (s : State) (c : Ctx) (k : Nat) (h : Memory.wf s.mem = true) : Memory.wf (State.putRecord s c k).mem = true :=
  wf_putChain _ _ _ _ _ (wf_putCells _ _ _ _ h)

@[simp] theorem mem_logSaved (s : State) (k : Nat) : (State.logSaved s k).mem = s.mem :=
  State.mem_foldl _ (fun s x => by cases x <;> simp) _ _

@[simp] theorem wf_putSaved (s : State) (id : Nat) (h : Memory.wf s.mem = true) : Memory.wf (State.putSaved s id).mem = true := by
  unfold State.putSaved; split
  · exact h
  · exact wf_wr _ _ _ _ h

@[simp] theorem wf_saveDie (s : State) (id d : Nat) (h : Memory.wf s.mem = true) : Memory.wf (State.saveDie s id d).mem = true := by
  unfold State.saveDie; simp [h]

@[simp] theorem wf_saveCore (s : State) (id : Nat) (launch : Nat) (k : Nat) (h : Memory.wf s.mem = true) :
    Memory.wf (State.saveCore s id launch k).mem = true := by
  unfold State.saveCore; split
  · exact h
  · refine wf_clearCore _ _ ?_
    rw [mem_modCtx]
    exact wf_putRecord _ _ _ (by rw [mem_logSaved]; exact wf_spillTo _ _ _ _ h)

@[simp] theorem wf_saveCores (s : State) (id : Nat) (launch : Nat) (rect : Word) (cores : List Nat) (h : Memory.wf s.mem = true) :
    Memory.wf (State.saveCores s id launch rect cores).mem = true :=
  State.wf_foldl _ (fun _ _ hu => wf_saveDie _ _ _ hu) _ _ (wf_putHeader _ _ _ (State.wf_foldl _ (fun _ _ hu => wf_saveCore _ _ _ _ hu) _ _ h))

@[simp] theorem wf_spillAll (s : State) (cores : List Nat) (h : Memory.wf s.mem = true) : Memory.wf (State.spillAll s cores).mem = true :=
  State.wf_foldl _ (fun _ _ hu => wf_spillTo _ _ _ _ hu) _ _ h

@[simp] theorem mem_kickThread (s : State) (k t : Nat) (th : Thread) : (State.kickThread s k t th).mem = s.mem := by
  unfold State.kickThread
  dsimp only
  rw [State.mem_foldl _ (fun u n => by split <;> simp), State.mem_foldl _ (fun u j => mem_postOnce u _),
    State.mem_foldl _ (fun u n => State.mem_foldl _ (fun u _ => mem_post u _) _ _)]
  split
  · split
    · rw [mem_postOnce, State.mem_foldl _ (fun u e => mem_postOnce u _)]
    · rw [State.mem_foldl _ (fun u e => mem_postOnce u _)]
  · rw [State.mem_foldl _ (fun u e => mem_postOnce u _)]

@[simp] theorem mem_kickCore (s : State) (k : Nat) : (State.kickCore s k).mem = s.mem := by
  unfold State.kickCore
  dsimp only
  have h0 := State.mem_foldl (fun s t => s.kickThread k t ((s.core k).thread t)) (fun u t => mem_kickThread u k t _)
  split <;> (try split) <;> (try split) <;> simp [State.mem_foldl]

@[simp] theorem mem_restoreDeque (s : State) (id k head n : Nat) : (State.restoreDeque s id k head n).mem = s.mem := mem_modCore _ _ _

@[simp] theorem mem_restoreDie (s : State) (id k d : Nat) : (State.restoreDie s id k d).mem = s.mem := by
  unfold State.restoreDie
  split
  · rfl
  · split
    · rfl
    · simp [State.putShares]

@[simp] theorem wf_restoreCore (s : State) (id : Nat) (k : Nat) (h : Memory.wf s.mem = true) : Memory.wf (State.restoreCore s id k).mem = true := by
  unfold State.restoreCore
  split
  · exact h
  · split
    · exact h
    · dsimp only
      rw [mem_kickCore, mem_fillInbox]
      refine wf_wr _ _ _ _ ?_
      rw [mem_restoreDeque, mem_modCtx, mem_setCore]
      exact wf_putCells _ _ _ _ (wf_clearCore _ _ h)

theorem wf_restoreCores (s : State) (id : Nat) (cores : List Nat) (h : Memory.wf s.mem = true) {u : State} (e : (State.restoreCores s id cores) = some u) :
    Memory.wf u.mem = true := by
  unfold State.restoreCores at e
  split at e
  · cases e; exact h
  · split at e
    · contradiction
    · cases e
      refine wf_putSaved _ _ ?_
      rw [State.mem_foldl _ (fun u k => mem_restoreDie u _ _ _)]
      exact State.wf_foldl _ (fun u k hu => wf_restoreCore u _ _ hu) _ _ h

theorem wf_passCore (s : State) (c : Ctx) (k : Nat) (h : Memory.wf s.mem = true) {u : State} (e : (State.passCore s c k) = some u) :
    Memory.wf u.mem = true := by
  unfold State.passCore at e; dsimp only at e; (repeat' split at e) <;> first | contradiction | (cases e; simp [*, wf_clearCore])

@[simp] theorem mem_answerFw (s : State) (k : Nat) (t : Nat) (a0 : Word) (a1 : Word) : (State.answerFw s k t a0 a1).mem = s.mem := by
  unfold State.answerFw; grind [mem_modThread, mem_grantTo, mem_modCDie, State.mem_foldl]

@[simp] theorem wf_setRbd (s : State) (x1 : Word) (x : Word) (h : Memory.wf s.mem = true) : Memory.wf (State.setRbd s x1 x).mem = true := by
  unfold State.setRbd; dsimp only; (repeat' split) <;> simp [*, wf_wr, mem_answerFw]

@[simp] theorem mem_startRanger (s : State) (d : Nat) : (State.startRanger s d).mem = s.mem := by
  unfold State.startRanger; rfl

@[simp] theorem mem_bootRanger (s : State) (n : Nat) : (State.bootRanger s n).mem = s.mem := by
  unfold State.bootRanger; grind [mem_modCDie, mem_startRanger, State.mem_foldl]

@[simp] theorem mem_measureSupervisor (s : State) (d : Nat) : (State.measureSupervisor s d).mem = s.mem := by
  unfold State.measureSupervisor; rfl

@[simp] theorem mem_setQnt (s : State) (k : Nat) (x : Word) : (State.setQnt s k x).mem = s.mem := by
  unfold State.setQnt; simp [mem_modCtx]; done

@[simp] theorem mem_clearEst (s : State) (k : Nat) (x : Word) : (State.clearEst s k x).mem = s.mem := by
  unfold State.clearEst; grind [mem_restartMatrix, mem_restartCopies, State.mem_foldl]

@[simp] theorem wf_writeCreg (s : State) (m : Mode) (sel : Nat) (x : Word) (h : Memory.wf s.mem = true) :
    Memory.wf (State.writeCreg s m sel x).mem = true := by
  unfold State.writeCreg; dsimp only; (repeat' split) <;> simp [*, mem_setQnt, wf_setRbd, mem_modCtx, mem_clearEst]

@[simp] theorem mem_rearm (s : State) (k : Nat) (t : Nat) (l : Latch) : (State.rearm s k t l).mem = s.mem := by
  unfold State.rearm; dsimp only; (repeat' split) <;> simp

@[simp] theorem mem_retryStream (s : State) (k : Nat) (t : Nat) (old : Thread) (n : Nat) : (State.retryStream s k t old n).mem = s.mem := by
  unfold State.retryStream; grind [mem_post, mem_postOnce, State.mem_foldl]

@[simp] theorem mem_reissue (s : State) (k : Nat) (t : Nat) : (State.reissue s k t).mem = s.mem := by
  unfold State.reissue
  dsimp only
  rw [State.mem_foldl _ (fun u n => mem_retryStream u _ _ _ _)]
  split <;> simp [State.mem_foldl]

@[simp] theorem mem_deliver (s : State) (k : Nat) (t : Nat) : (State.deliver s k t).mem = s.mem := by
  unfold State.deliver; simp [mem_trapEntry, mem_withdraw]; done

@[simp] theorem wf_restoreScope (s : State) (x : Word) (h : Memory.wf s.mem = true) : Memory.wf (State.restoreScope s x).mem = true := by
  exact State.wf_foldl _ (fun u y hu => by
    split
    · exact hu
    · exact State.wf_getD hu (fun v hv => wf_restoreCores _ _ _ hu hv)) _ _ h

theorem mem_reloadThread (s : State) (k : Nat) (t : Nat) {u : State} (e : (State.reloadThread s k t) = some u) : u.mem = s.mem := by
  unfold State.reloadThread at e; grind [mem_modThread, State.mem_foldl]

@[simp] theorem mem_dbgAct (s : State) (k : Nat) (t : Nat) (x : Word) (addr : Word) : (State.dbgAct s k t x addr).mem = s.mem := by
  unfold State.dbgAct; grind [mem_modThread, mem_unstop, mem_report, mem_reloadThread, mem_postOnce, State.mem_foldl]

@[simp] theorem mem_postHeadEvent (s : State) (i : Instr) : (State.postHeadEvent s i).mem = s.mem := by
  unfold State.postHeadEvent; grind [mem_post, State.mem_foldl]

@[simp] theorem wf_consume (s : State) (n : Nat) (h : Memory.wf s.mem = true) : Memory.wf (State.consume s n).mem = true := by
  unfold State.consume; dsimp only; (repeat' split) <;> simp [*, wf_wr]

@[simp] theorem wf_lookAtHead (x0 : Nat) (x1 : Nat) (x2 : State) (h : Memory.wf x2.mem = true) : Memory.wf (lookAtHead x0 x1 x2).mem = true := by
  induction x0 generalizing x2 with
  | zero => exact h
  | succ n ih =>
    unfold lookAtHead
    dsimp only
    split
    · exact h
    · split
      · exact ih _ (wf_consume _ _ h)
      · split
        · simp [h]
        · simp [h]

@[simp] theorem wf_lookAt (s : State) (n : Nat) (h : Memory.wf s.mem = true) : Memory.wf (State.lookAt s n).mem = true := by
  unfold State.lookAt; simp [*, wf_lookAtHead]; done

@[simp] theorem wf_kick (s : State) (n : Nat) (v : Word) (h : Memory.wf s.mem = true) : Memory.wf (State.kick s n v).mem = true := by
  unfold State.kick; dsimp only; (repeat' split) <;> simp [*, wf_lookAt]

@[simp] theorem wf_visited (s : State) (n : Nat) (w : List Word) (h : Memory.wf s.mem = true) : Memory.wf (State.visited s n w).mem = true := by
  unfold State.visited; dsimp only; (repeat' split) <;> simp [*, wf_consume]

@[simp] theorem wf_refuseHead (s : State) (n : Nat) (w : List Word) (status : Nat) (h : Memory.wf s.mem = true) :
    Memory.wf (State.refuseHead s n w status).mem = true := by
  unfold State.refuseHead; grind [wf_record, wf_lookAt, wf_visited, State.wf_foldl]

@[simp] theorem wf_discardIn (id n : Nat) (x2 : Nat) (x3 : BitVec 32) (x4 : State × Nat) (h : Memory.wf x4.1.mem = true) :
    Memory.wf (discardIn id n x2 x3 x4).1.mem = true := by
  induction x2 generalizing x3 x4 with
  | zero => exact h
  | succ m ih =>
    obtain ⟨s, c⟩ := x4
    unfold discardIn
    dsimp only
    repeat' split
    all_goals first
      | exact h
      | exact ih _ _ h
      | exact ih _ _ (wf_record _ _ _ _ _ _ _ (by simpa using h))

@[simp] theorem wf_discard (s : State) (id : Nat) (h : Memory.wf s.mem = true) : Memory.wf (State.discard s id).1.mem = true := by
  have key : ∀ (l : List (Nat × Queue)) (x : State × Nat), Memory.wf x.1.mem = true →
      Memory.wf (l.foldl (fun x q => if q.2.ctx == id then discardIn id q.1 65536 q.2.cidx x else x) x).1.mem = true := by
    intro l
    induction l with
    | nil => exact fun _ hx => hx
    | cons a l ih =>
      intro x hx
      refine ih _ ?_
      dsimp only
      split
      · exact wf_discardIn _ _ _ _ _ hx
      · exact hx
  exact key _ _ h

@[simp] theorem mem_signalClock (s : State) (l : Launch) : (State.signalClock s l).mem = s.mem := by
  unfold State.signalClock; (repeat' split) <;> simp

@[simp] theorem wf_closeLaunch (s : State) (l : Launch) (status : Nat) (h : Memory.wf s.mem = true) :
    Memory.wf (State.closeLaunch s l status).mem = true := by
  unfold State.closeLaunch
  dsimp only
  refine wf_lookAt _ _ ?_
  rw [mem_post]
  refine wf_record _ _ _ _ _ _ _ ?_
  rw [mem_modQueue]
  show Memory.wf (s.signalClock l).mem = true
  rw [mem_signalClock]; exact h

@[simp] theorem wf_discardWaiting (s : State) (id : Nat) (h : Memory.wf s.mem = true) : Memory.wf (State.discardWaiting s id).1.mem = true := by
  have key : ∀ (l : List (Nat × Launch)) (x : State × Nat), Memory.wf x.1.mem = true →
      Memory.wf (l.foldl (fun x l => if l.2.ctx == id && s.waitsPreempt l.2 then (x.1.closeLaunch l.2 3, x.2 + 1) else x) x).1.mem =
        true := by
    intro l
    induction l with
    | nil => exact fun _ hx => hx
    | cons a l ih =>
      intro x hx
      refine ih _ ?_
      dsimp only
      split
      · exact wf_closeLaunch _ _ _ hx
      · exact hx
  exact key _ _ h

@[simp] theorem wf_beginTeardown (s : State) (id : Nat) (h : Memory.wf s.mem = true) : Memory.wf (State.beginTeardown s id).1.mem = true := by
  unfold State.beginTeardown
  rw [mem_gangStop, mem_modCtx]
  refine State.wf_foldl _ (fun u q hu => ?_) _ _ (wf_discard _ id (wf_discardWaiting s id h))
  split
  · exact wf_lookAt _ _ hu
  · exact hu

@[simp] theorem mem_dropLaunches (s : State) (id : Nat) : (State.dropLaunches s id).mem = s.mem := by
  unfold State.dropLaunches; grind [mem_post, mem_modQueue, State.mem_foldl]

theorem wf_tearReady (s : State) (id : Nat) (h : Memory.wf s.mem = true) {u : State} (e : State.tearReady s id = some u) :
    Memory.wf u.mem = true := by
  unfold State.tearReady at e
  dsimp only at e
  split at e
  · cases e; exact wf_spillAll _ _ h
  · cases e

@[simp] theorem wf_endTeardown (s : State) (id : Nat) (h : Memory.wf s.mem = true) : Memory.wf (State.endTeardown s id).mem = true := by
  unfold State.endTeardown
  dsimp only
  rw [mem_modCtx, mem_dropLaunches]
  refine State.wf_foldl _ (fun u d hu => wf_putDie _ _ _ hu) _ _ (wf_putHeader _ _ _ (State.wf_foldl _ (fun u k hu => ?_) _ _ h))
  split
  · exact hu
  · rw [mem_modCore]
    refine wf_clearCore _ _ ?_
    rw [mem_report]
    exact wf_putRecord _ _ _ (by rw [mem_logSaved]; exact hu)

@[simp] theorem mem_preempt (s : State) (launch : Nat) (victims : List Nat) (rect : BitVec 32) : (State.preempt s launch victims rect).mem = s.mem := by
  unfold State.preempt; grind [mem_postIn, mem_gangStop, State.mem_foldl]

@[simp] theorem wf_seedFrames (s : State) (l : Launch) (k : Nat) (taken : List Nat) (h : Memory.wf s.mem = true) :
    Memory.wf (State.seedFrames s l k taken).mem = true := by
  unfold State.seedFrames; grind [mem_frameTouch, mem_modCore, wf_initJoin, State.wf_foldl]

theorem wf_passFor (s : State) (c : Ctx) (l : Launch) (cores : List Nat) (h : Memory.wf s.mem = true) {u : State} (e : (State.passFor s c l cores) = some u) :
    Memory.wf u.mem = true := by
  unfold State.passFor at e
  dsimp only at e
  rw [Option.map_eq_some_iff] at e
  obtain ⟨v, e, rfl⟩ := e
  have key : ∀ (l : List Nat) (o : Option State), (∀ v, o = some v → Memory.wf v.mem = true) → ∀ v, l.foldl (fun (o :
    Option State) k => o.bind (fun s => s.passCore c k)) o = some v → Memory.wf v.mem = true := by
    intro l
    induction l with
    | nil => exact fun o ho => ho
    | cons a l ih =>
      intro o ho v hv
      refine ih _ ?_ v hv
      intro v hv
      obtain ⟨w, hw, hv⟩ := Option.bind_eq_some_iff.mp hv
      exact wf_passCore _ _ _ (ho w hw) hv
  rw [mem_modLaunch]
  refine key _ _ ?_ v e
  intro v hv
  cases hv
  rw [State.mem_foldl _ (fun s x => mem_measureSupervisor s x)]
  exact h

@[simp] theorem mem_stopDie (s : State) (d : Nat) : (State.stopDie s d).mem = s.mem := by
  unfold State.stopDie
  dsimp only
  rw [mem_postIn, mem_gangStop, mem_modCDie]

@[simp] theorem mem_stopDies (s : State) (l : List Nat) : (State.stopDies s l).mem = s.mem := State.mem_foldl _ mem_stopDie _ _

@[simp] theorem mem_keepLeft (s : State) (seeds : List (Nat × Nat)) : (State.keepLeft s seeds).mem = s.mem := by
  unfold State.keepLeft; grind [mem_modLaunch, State.mem_foldl]

@[simp] theorem mem_seedDet (s : State) (c : Ctx) (l : Launch) : (State.seedDet s c l).mem = s.mem := by
  unfold State.seedDet; grind [mem_modCore, mem_modCtx, mem_postOnce, State.mem_foldl]

@[simp] theorem mem_injectAll (x0 : Nat) (x1 : Nat) (x2 : Nat) (x3 : State) : (injectAll x0 x1 x2 x3).mem = x3.mem := by
  induction x0 generalizing x3 with
  | zero => rfl
  | succ n ih =>
    unfold injectAll
    split
    · rfl
    · split
      · simp
      · rw [ih, mem_inject]; exact mem_readOut _ _ _ ‹_›

@[simp] theorem wf_placeSpawns (s : State) (id : Nat) (k : Nat) (t : Nat) (h : Memory.wf s.mem = true) :
    Memory.wf (State.placeSpawns s id k t).mem = true := by
  unfold State.placeSpawns; grind [mem_frameFault, wf_placeReady, mem_modCtx, State.wf_foldl]

@[simp] theorem wf_serveThread (s : State) (id : Nat) (k : Nat) (t : Nat) (h : Memory.wf s.mem = true) :
    Memory.wf (State.serveThread s id k t).mem = true := by
  unfold State.serveThread
  have h0 : Memory.wf ((injectAll (s.ordOps k t).length k t s).placeSpawns id k t).mem = true := by simp [h]
  generalize (injectAll (s.ordOps k t).length k t s).placeSpawns id k t = v at h0
  dsimp only
  split
  · exact wf_searchTry _ _ _ h0
  · split
    · exact wf_ticketTry _ _ _ h0
    · split
      · exact State.wf_getD h0 (fun u hu => wf_donateTry _ _ _ h0 hu)
      · split
        · split
          · rw [mem_grantRow]; exact h0
          · exact h0
        · exact h0

@[simp] theorem wf_serveQuantum (s : State) (id : Nat) (h : Memory.wf s.mem = true) : Memory.wf (State.serveQuantum s id).mem = true := by
  unfold State.serveQuantum
  rw [mem_postCairns]
  exact State.wf_foldl _ (fun u m hu => wf_serveThread _ _ _ _ hu) _ _ h

theorem wf_writeConflict (s : State) (k : Nat) (at_ : Word) (l : List Word) (h : Memory.wf s.mem = true) {u : State} (e : (State.writeConflict s k at_ l) = some u) :
    Memory.wf u.mem = true := by
  unfold State.writeConflict at e
  dsimp only at e
  rw [Option.map_eq_some_iff] at e
  obtain ⟨ps, -, rfl⟩ := e
  exact State.wf_foldl _ (fun u x hu => wf_wrWake _ _ _ _ hu) _ _ h

@[simp] theorem mem_catchConflict (s : State) (id : Nat) (k : Nat) (t : Nat) (v : Word) : (State.catchConflict s id k t v).mem = s.mem := by
  unfold State.catchConflict
  dsimp only
  repeat' split
  all_goals simp

@[simp] theorem wf_reportConflict (s : State) (id : Nat) (h : Memory.wf s.mem = true) : Memory.wf (State.reportConflict s id).mem = true := by
  unfold State.reportConflict; grind [wf_writeConflict, mem_catchConflict, State.wf_foldl]

@[simp] theorem mem_beginQuantum (s : State) (c : Ctx) : (State.beginQuantum s c).mem = s.mem := by
  unfold State.beginQuantum; grind [mem_modCore, mem_modCtx, State.mem_foldl]

@[simp] theorem mem_answerHost (s : State) (p : Nat) (code : Nat) (data : Bool) : (State.answerHost s p code data).mem = s.mem := by
  unfold State.answerHost; rfl

@[simp] theorem mem_showWindow (s : State) (start : Nat) : (State.showWindow s start).mem = s.mem := by
  unfold State.showWindow; rfl

@[simp] theorem mem_modBox (s : State) (p : Nat) (f : Mailbox → Mailbox) : (State.modBox s p f).mem = s.mem := by
  unfold State.modBox; rfl

@[simp] theorem mem_answer (s : State) (w : Requester) (status : Nat) (w1 : Word) : (State.answer s w status w1).mem = s.mem := by
  unfold State.answer; grind [mem_modBox, mem_answerFw, State.mem_foldl]

@[simp] theorem mem_askWindow (s : State) (by_ : Option Nat) (acc : Nat) (w : Window) : (State.askWindow s by_ acc w).mem = s.mem := by
  unfold State.askWindow; grind [mem_modCtx, State.mem_foldl]

@[simp] theorem wf_layGround (s : State) (c : Ctx) (h : Memory.wf s.mem = true) : Memory.wf (State.layGround s c).mem = true := by
  unfold State.layGround; simp [*, wf_wrWords, wf_putCells]; done

@[simp] theorem mem_eraseId (s : State) (id : Nat) : (State.eraseId s id).mem = s.mem := by
  unfold State.eraseId; grind [mem_invalidate, State.mem_foldl]

@[simp] theorem mem_dropRequest (s : State) (w : Requester) (id : Nat) : (State.dropRequest s w id).mem = s.mem := by
  unfold State.dropRequest
  repeat' split
  all_goals simp

@[simp] theorem wf_writeCaps (s : State) (h : Memory.wf s.mem = true) : Memory.wf (State.writeCaps s).mem = true := by
  unfold State.writeCaps; dsimp only; (repeat' split) <;> simp [*, wf_wrWords]

@[simp] theorem mem_say (s : State) (r : SpdmRsp) (data : List Byte) : (State.say s r data).mem = s.mem := by
  unfold State.say; rfl

@[simp] theorem mem_saySigned (s : State) (r : SpdmRsp) (data : List Byte) : (State.saySigned s r data).mem = s.mem := by
  unfold State.saySigned; rfl

@[simp] theorem mem_sendSfr (s : State) (r : SfrReq) : (State.sendSfr s r).mem = s.mem := by
  unfold State.sendSfr; dsimp only; rw [mem_postOnce, mem_modCluster, mem_modTh]

@[simp] theorem wf_quarantine (s : State) (p : Nat) (h : Memory.wf s.mem = true) : Memory.wf (State.quarantine s p).mem = true := by
  unfold State.quarantine; dsimp only; (repeat' split) <;> simp_all [mem_invalidate, wf_wr, State.wf_foldl]

@[simp] theorem mem_tearAll (s : State) (i : Instr) (ids : List Nat) : (State.tearAll s i ids).mem = s.mem := by
  unfold State.tearAll; grind [mem_postIn, State.mem_foldl]

@[simp] theorem mem_setLink (s : State) (l : Link) (up : Bool) : (State.setLink s l up).mem = s.mem := by
  unfold State.setLink; grind [mem_sendW, State.mem_foldl]

@[simp] theorem mem_moveFilters (s : State) : (State.moveFilters s).mem = s.mem := by
  unfold State.moveFilters; grind [mem_modMDie, State.mem_foldl]

@[simp] theorem mem_askAgain (s : State) : (State.askAgain s).mem = s.mem := by
  unfold State.askAgain; split
  · rfl
  · exact State.mem_foldl _ (fun u x => mem_hostRequest u _ _) _ _

@[simp] theorem mem_setWire (s : State) (w : Wire) (up : Bool) : (State.setWire s w up).mem = s.mem := by
  unfold State.setWire; grind [mem_setLink, mem_askAgain, mem_moveFilters, State.mem_foldl]

@[simp] theorem wf_wireDown (s : State) (w : Wire) (h : Memory.wf s.mem = true) : Memory.wf (State.wireDown s w).mem = true := by
  unfold State.wireDown; dsimp only; (repeat' split) <;> simp [*, wf_writeCaps, mem_setWire, mem_dieReport, mem_countError, mem_addLog]

@[simp] theorem mem_swapSite (s : State) (d : Nat) (p : Nat) : (State.swapSite s d p).mem = s.mem := by
  unfold State.swapSite; rfl

@[simp] theorem mem_setSync (s : State) (d : DieRef) (est : Nat) (sync : Bool) (last : Nat) : (State.setSync s d est sync last).mem = s.mem := by
  unfold State.setSync; grind [mem_modCDie, mem_modMDie, State.mem_foldl]

@[simp] theorem mem_loseWait (s : State) (k : Nat) (t : Nat) : (State.loseWait s k t).mem = s.mem := by
  unfold State.loseWait; grind [mem_modThread, mem_grantTo, mem_modLaunch, State.mem_foldl]

@[simp] theorem mem_meetTime (s : State) (true_ : Word) : (State.meetTime s true_).mem = s.mem := by
  unfold State.meetTime; rfl

@[simp] theorem mem_setTemp (s : State) (d : DieRef) (t : Nat) : (State.setTemp s d t).mem = s.mem := by
  unfold State.setTemp; grind [mem_modCDie, mem_modMDie, State.mem_foldl]

theorem mem_bootTrust (s : State) {u : State} (e : (State.bootTrust s) = some u) : u.mem = s.mem := by
  unfold State.bootTrust at e; grind [State.mem_foldl]

@[simp] theorem mem_defaultMap (s : State) : (State.defaultMap s).mem = s.mem := by
  unfold State.defaultMap; rfl

@[simp] theorem mem_downSpares (s : State) : (State.downSpares s).mem = s.mem := by
  unfold State.downSpares; grind [mem_modCDie, State.mem_foldl]

@[simp] theorem mem_buildMap (s : State) : (State.buildMap s).mem = s.mem := by
  unfold State.buildMap; grind [mem_loadRouters, mem_startRanger, mem_swapSite, mem_defaultMap, mem_downSpares, State.mem_foldl]

theorem wf_bringStep (s : State) (h : Memory.wf s.mem = true) {u : State} (e : (State.bringStep s) = some u) : Memory.wf u.mem = true := by
  unfold State.bringStep at e
  dsimp only at e
  split at e
  · split at e
    · rw [← Option.some.inj e]; exact h
    · contradiction
  · split at e
    · rw [← Option.some.inj e]; exact h
    · contradiction
  · rw [mem_bootTrust _ e]; exact h
  · rw [← Option.some.inj e]; exact Memory.wf_filter _ _ h
  · rw [← Option.some.inj e, State.mem_foldl _ (fun s x => mem_bootRanger s x)]; exact h
  · split at e
    · contradiction
    · rw [← Option.some.inj e, mem_buildMap]; exact h
  · rw [← Option.some.inj e]; exact h
  · rw [← Option.some.inj e]; exact h
  · rw [← Option.some.inj e]; exact wf_writeCaps _ h
  · rw [← Option.some.inj e, mem_postOnce, mem_showWindow]; exact h

@[simp] theorem mem_fetched (s : State) (k : Nat) (t : Nat) : (State.fetched s k t).mem = s.mem := by
  unfold State.fetched; grind [mem_cacheFor, mem_viaL1, State.mem_foldl]

@[simp] theorem mem_newCycle (s : State) : (newCycle s).mem = s.mem := by
  unfold newCycle; rfl

@[simp] theorem mem_nextTurn (k : Nat) (s : State) : (nextTurn k s).mem = s.mem := by
  unfold nextTurn; grind [mem_newCycle, State.mem_foldl]

@[simp] theorem wf_prepared (s : State) (h : Memory.wf s.mem = true) : Memory.wf (State.prepared s).mem = true := by
  unfold State.prepared; dsimp only; (repeat' split) <;> simp [*]

@[simp] theorem wf_placeBundle (s : State) (w : Nat) (h : Memory.wf s.mem = true) : Memory.wf (placeBundle s w).mem = true := by
  unfold placeBundle; dsimp only; (repeat' split) <;> simp [*, wf_prepared]

@[simp] theorem wf_withFetchWord (s : State) (nbits : Nat) (w : Nat) (h : Memory.wf s.mem = true) :
    Memory.wf (State.withFetchWord s nbits w).mem = true := by
  unfold State.withFetchWord; simp [*, wf_placeBundle]; done

end Sys2Proof.Machine
end

