-- ==== Sys2Proof/Laws/Regs.lean ====
section
/-! SUPPORT. The registers that the shared operations leave as they were. -/

namespace Sys2Proof.Machine

/-! ### The relation -/

theorem RegsKept.refl (s : State) : RegsKept s s := ⟨fun _ _ => rfl, fun _ => rfl⟩

theorem RegsKept.trans {s t u : State} (h : RegsKept s t) (g : RegsKept t u) : RegsKept s u :=
  ⟨fun k j => (g.1 k j).trans (h.1 k j), fun k => (g.2 k).trans (h.2 k)⟩

/-- An operation that leaves the cores alone. -/
theorem RegsKept.of_cores {s t : State} (h : t.cores = s.cores) : RegsKept s t := by
  constructor <;> intros <;> simp only [State.thread, State.core, h]

theorem RegsKept.foldl {β : Type} (f : State → β → State) (hf : ∀ s x, RegsKept s (f s x)) (l : List β) (s : State) :
    RegsKept s (l.foldl f s) := by
  induction l generalizing s with
  | nil => exact .refl s
  | cons a l ih => exact (hf s a).trans (ih _)

/-! ### Changes of a core and of a thread -/

/-- A core changed beside its registers and its threads' registers. -/
theorem RegsKept.modCore (s : State) (k : Nat) (f : Core → Core) (hr : (f (s.core k)).regs = (s.core k).regs)
    (ht : ∀ j, ((f (s.core k)).thread j).regs = ((s.core k).thread j).regs) : RegsKept s (s.modCore k f) := by
  refine ⟨fun i j => ?_, fun i => ?_⟩
  · by_cases h : i = k
    · subst h; simpa [State.thread] using ht j
    · simp [State.thread, State.core_modCore_of_ne s f h]
  · by_cases h : i = k
    · subst h; simpa using hr
    · simp [State.core_modCore_of_ne s f h]

/-- A thread changed beside its registers. -/
theorem RegsKept.modThread (s : State) (k t : Nat) (f : Thread → Thread) (h : (f (s.thread k t)).regs = (s.thread k t).regs) :
    RegsKept s (s.modThread k t f) := by
  refine .modCore s k _ rfl (fun j => ?_)
  by_cases hj : j % 8 = t % 8
  · have hs : ∀ c : Core, ∀ th, (c.setThread t th).thread j = th := fun c th => by simp [Core.thread, Core.setThread, hj]
    have ht : ∀ c : Core, c.thread j = c.thread t := fun c => by simp [Core.thread, hj]
    rw [hs, ht]; exact h
  · rw [Core.thread_setThread_of_ne _ _ hj]

/-- A form's own frame, from what its effect kept. -/
theorem RegsKept.frame {s t : State} (h : RegsKept s t) (hm : t.mem = s.mem) (hc : t.cur.core = s.cur.core) (ht : t.cur.thr = s.cur.thr) :
    Frame s t s.th s.own where
  thread := by unfold State.th; rw [hc, ht]; exact h.1 _ _
  threads := fun _ _ _ => h.1 _ _
  own := by unfold State.own; rw [hc]; exact h.2 _
  cores := fun _ _ => h.2 _
  mem := hm

/-! ### The shared operations -/

theorem regs_verdict (s : State) (v : Verdict) : RegsKept s (s.verdict v) := .of_cores rfl

theorem regs_post (s : State) (i : Instr) : RegsKept s (s.post i) := .of_cores rfl

theorem regs_postIn (s : State) (i : Instr) (x : Input) : RegsKept s (s.postIn i x) := .of_cores rfl

theorem regs_postOnce (s : State) (i : Instr) : RegsKept s (s.postOnce i) := by
  unfold State.postOnce; split
  · exact .refl s
  · exact regs_post s i

theorem regs_modCtx (s : State) (k : Nat) (f : Ctx → Ctx) : RegsKept s (s.modCtx k f) := by
  unfold State.modCtx; split <;> exact .of_cores rfl

theorem regs_modLaunch (s : State) (k : Nat) (f : Launch → Launch) : RegsKept s (s.modLaunch k f) := by
  unfold State.modLaunch; split <;> exact .of_cores rfl

theorem regs_modCluster (s : State) (k : Nat) (f : Cluster → Cluster) : RegsKept s (s.modCluster k f) := .of_cores rfl

theorem regs_modCDie (s : State) (k : Nat) (f : CDie → CDie) : RegsKept s (s.modCDie k f) := .of_cores rfl

theorem regs_modMDie (s : State) (k : Nat) (f : MDie → MDie) : RegsKept s (s.modMDie k f) := .of_cores rfl

theorem regs_grantTo (s : State) (k t : Nat) (l : List Word) : RegsKept s (s.grantTo k t l) := .modThread s k t _ rfl

theorem regs_wakeFirmware (s : State) (d : Nat) : RegsKept s (s.wakeFirmware d) := by
  refine .modCore s _ _ rfl fun j => ?_
  simp only [Core.thread, Vector.getElem_map]
  split <;> rfl

theorem regs_fwReport (s : State) (d cause : Nat) (v : Word) : RegsKept s (s.fwReport d cause v) := by
  unfold State.fwReport; dsimp only; split
  · exact (regs_modCDie _ _ _).trans (regs_wakeFirmware _ _)
  · exact regs_modCDie _ _ _

/-- A report changes no register: its supervisor takes it as a trap later. -/
theorem regs_report (s : State) (k cause : Nat) (v : Word) : RegsKept s (s.report k cause v) := by
  unfold State.report; split
  · exact (regs_fwReport _ _ _ _).trans (regs_modCDie _ _ _)
  · refine .trans (.modCore s k _ ?_ fun j => ?_) (regs_postOnce _ _) <;> (split <;> rfl)

theorem regs_releaseClock (s : State) (k o : Nat) (m : AMap Nat) : RegsKept s (s.releaseClock k o m) := by
  unfold State.releaseClock; split
  · exact regs_modCtx _ _ _
  · exact .refl s

theorem regs_newInterval (s : State) (k t : Nat) : RegsKept s (s.newInterval k t) := by
  unfold State.newInterval; split
  · exact .modThread s k t _ rfl
  · exact .refl s

theorem regs_release (s : State) (k t o : Nat) : RegsKept s (s.release k t o) :=
  (regs_releaseClock _ _ _ _).trans (regs_newInterval _ _ _)

theorem regs_acquire (s : State) (k t o : Nat) : RegsKept s (s.acquire k t o) := by
  unfold State.acquire; split
  · split
    · exact .modThread s k t _ rfl
    · exact .refl s
  · exact .refl s

theorem regs_noteAt (s : State) (k t who : Nat) (st : Stamp) (kind : SigKind) (key : Nat) (loc : Word) :
    RegsKept s (s.noteAt k t who st kind key loc) := by
  unfold State.noteAt; split
  · exact regs_modCtx _ _ _
  · exact .refl s

theorem regs_signal (s : State) (k : Nat) (e : EngCmd) : RegsKept s (s.signal k e) := by
  unfold State.signal; split
  · exact .refl s
  · exact .trans (.modCore s k _ rfl fun _ => rfl) (regs_postOnce _ _)

theorem regs_parkOn (s : State) (w : Wait) (v : Verdict) : RegsKept s (s.parkOn w v) :=
  .trans (.modThread s _ _ _ rfl) (regs_verdict _ _)

theorem regs_cleanRegs (s : State) (reads writes : List RegName) : RegsKept s (s.cleanRegs reads writes) := by
  obtain ⟨l, _, h | h⟩ := cleanRegs_eq s reads writes
  · rw [h]; exact .refl s
  · rw [h]; exact .modCore s _ _ rfl fun _ => rfl

theorem regs_advance (s : State) : RegsKept s (s.modTh (Thread.advance s.src.pc)) := .modThread s _ _ _ rfl

/-- A form that retires with an effect on no register changes none. -/
theorem runSlot_regs {slot : Nat} {reads writes : List RegName} {plan : State → Plan} {s : State} {f : State → State}
    (h : s.atHand reads writes) (hp : plan s = .go f)
    (hf : RegsKept (s.modTh (Thread.advance s.src.pc)) (f (s.modTh (Thread.advance s.src.pc)))) :
    ∃ t, runSlot slot reads writes plan s = .next t ∧ RegsKept s t :=
  ⟨_, runSlot_go h hp, (regs_advance s).trans (hf.trans ((regs_cleanRegs _ _ _).trans (regs_verdict _ _)))⟩

end Sys2Proof.Machine
end

