-- ==== Sys2Proof/Tests/Slice0.lean ====
section
/-! SUPPORT. Tests: words of the encoding tables, refused terms, worked results, and for every statement with premises a state that
meets them. -/

open Sys2Proof Sys2Proof.Machine

namespace Sys2Proof.Tests

set_option Elab.async false

/-! ### States that meet the premises of the statements -/

/-- A thread of context 1 about to issue on core 0, in the thread that `f` makes of a running user thread. -/
def issuing (f : Thread → Thread) : State :=
  let s := State.reset.prepared.modThread 0 0 f
  { s with cur := { Cur.idle with pre := some (s.thread 0 0) } }

/-- A thread in a mode, with s5 holding `x` and s6 holding `y`. -/
def inMode (m : Mode) (x y : Word) : State := issuing (fun th => { ({ th with mode := m }.writeS 5 x).writeS 6 y with mode := m })

/-- A launch on core 0 with four frames from VA 0x20000 on. -/
def oneLaunch : Launch := Launch.ofCommand 1 0 0 ((List.replicate 32 0).set 24 0x20000 |>.set 25 0x0C000004 |>.set 0 0x200100) [] [] []

/-- The thread of `issuing` in a task of that launch whose frame is frame 0; frames 1 to 3 are free. -/
def inTask (f : Thread → Thread) : State :=
  let s := issuing (fun th => f { th with task := { Task.none with frame := 0x20000, launch := 1, kind := 1 } })
  ({ s with launches := [(1, { oneLaunch with seeded := true })] }).modCore 0 (fun c => { c with pool := [(1, 1), (1, 2), (1, 3)] })

theorem witness_scalar_forms (d a b : BitVec 6) :
    (issuing id).atHand [rn a, rn b] [rn d] ∧ (issuing id).atHand [rn a] [rn d] ∧ (issuing id).atHand [] [rn d] ∧
    (issuing id).atHand [rn a, rn b] [] := ⟨⟨rfl, rfl⟩, ⟨rfl, rfl⟩, ⟨rfl, rfl⟩, ⟨rfl, rfl⟩⟩

theorem witness_JumpsLinkAndGo :
    ((inMode .user 8 0).rs 5 + BitVec.ofInt 64 ((0 : BitVec 13).toInt * 8)).toNat % 8 = 0 ∧
    ((inMode .user 7 0).rs 5 + BitVec.ofInt 64 ((0x1FFF : BitVec 13).toInt * 8)).toNat % 8 ≠ 0 := by decide +kernel

theorem witness_TrapEntrySavesAndVectors :
    ((issuing id).thread 0 0).intrap = false ∧
    ((issuing (fun th => { th with intrap := true, mode := .supervisor })).thread 0 0).intrap = true ∧
    ((issuing (fun th => { th with intrap := true, mode := .supervisor })).thread 0 0).mode ≠ .firmware := by decide +kernel

/-- A thread inside a trap, in mode `m`, that came from mode `p`. -/
def inTrap (m p : Mode) : State := issuing (fun th => { th with mode := m, pmode := p, intrap := true })

theorem witness_KretReturns :
    ((inTrap .supervisor .user).src.mode ≠ .user ∧ (inTrap .supervisor .user).src.intrap = true ∧
      (inTrap .supervisor .user).src.pmode.level ≤ (inTrap .supervisor .user).src.mode.level) ∧
    (inMode .user 0 0).src.mode = .user ∧
    ((inMode .supervisor 0 0).src.mode ≠ .user ∧ (inMode .supervisor 0 0).src.intrap = false) ∧
    ((inTrap .supervisor .firmware).src.mode ≠ .user ∧ (inTrap .supervisor .firmware).src.intrap = true ∧
      (inTrap .supervisor .firmware).src.mode.level < (inTrap .supervisor .firmware).src.pmode.level) := by decide +kernel

theorem witness_SoftwareTrapsAndRequests :
    (inMode .user 0 0).src.mode ≠ .supervisor ∧
    ((inMode .supervisor 0 0).src.mode = .supervisor ∧ (inMode .supervisor 0 0).src.grant = none ∧ (inMode .supervisor 0 0).src.fwreq = none) ∧
    ((issuing (fun th => { th with mode := .supervisor, grant := some [0, 7] })).src.mode = .supervisor ∧
      (issuing (fun th => { th with mode := .supervisor, grant := some [0, 7] })).src.grant = some [0, 7]) := by decide +kernel

theorem witness_UserModeIsRefusedPrivilegedForms (a b : BitVec 6) :
    (issuing id).src.mode = .user ∧ (issuing id).atHand [rn a, rn b] [] ∧
    (0x100 ≤ (0x104 : BitVec 13).toNat ∧ selAssigned (0x104 : BitVec 13).toNat = true) ∧
    (0x100 ≤ (0x1005 : BitVec 13).toNat ∧ selAssigned (0x1005 : BitVec 13).toNat = true) := ⟨rfl, ⟨rfl, rfl⟩, by decide +kernel, by decide +kernel⟩

/-- Engine fields that wait for nothing and signal nothing. -/
def plainCmd : EngCmd := { wsem := 0, wthr := 0, ssem := 0, sinc := 0 }

/-- The conditions of `Obligations.GetcReadsTheRegister` on a selector. -/
def getcMeets (s : State) (sel : BitVec 13) : Bool :=
  decide (s.cregTrap sel.toNat = none) && decide (sel.toNat ≠ 0x1001) && decide (sel.toNat = 5 → s.src.sfr = []) &&
    decide (0x20 ≤ sel.toNat → sel.toNat < 0x40 → s.was.isW (sel.toNat - 0x20) = false) &&
    decide (sel.toNat = 0xD → s.detAt s.cur.core = false)

theorem witness_GetcReadsTheRegister :
    [0, 4, 5, 0xD, 0x20, 0x3F, 0x101, 0x104].all (getcMeets (inMode .firmware 0 0)) = true ∧
    ((inMode .firmware 0 0).cregTrap 0x1001 = none ∧ (inMode .firmware 0 0).src.sfr = []) ∧
    (let s := (inMode .user 0 0).modCtx 1 (fun c => { c with det := true })
     s.cregTrap 0xD = none ∧ s.detAt s.cur.core = true ∧ s.src.park ≠ .enginesIdle ∧ s.was.accepted = []) := by decide +kernel

theorem witness_GetcReadsTheRegister_waits :
    let cmd : Batch := { n := 2, cmd := plainCmd }
    let s := ((inMode .user 0 0).modCtx 1 (fun c => { c with det := true })).modCore 0 (fun c => { c with batches := [cmd], cnext := 3 })
    let u := ((issuing (fun th => { th with park := .enginesIdle, call := [15, 9] })).modCtx 1 (fun c => { c with det := true }))
    let v := u.modCore 0 (fun c => { c with batches := [cmd], cnext := 3 })
    (s.was.accepted = [9] ∧ bits (9 : Word) 0 2 = 1 ∧ s.was.cfault = false ∧ s.src.park ≠ .enginesIdle ∧ s.detAt s.cur.core = true) ∧
    (u.src.park = .enginesIdle ∧ u.src.call = BitVec.ofNat 64 (4 * 3 + 3) :: [9] ∧ u.was.accepted = [] ∧ u.was.cfault = false ∧
      u.was.mfault = false ∧ u.detAt u.cur.core = true) ∧
    (v.src.park = .enginesIdle ∧ (9 : Word) ∈ v.was.accepted ∧ (9 : Word) ∈ v.src.call ∧ v.was.cfault = false) := by decide +kernel

abbrev PutcMeets (sel : BitVec 13) : Prop :=
  (inMode .supervisor 0 0).cregTrap sel.toNat = none ∧ reservedBits sel.toNat ((inMode .supervisor 0 0).rs 5) = false

theorem witness_PutcWritesTheRegister :
    PutcMeets 0x004 ∧ PutcMeets 0x006 ∧ PutcMeets 0x007 ∧ PutcMeets 0x008 ∧ PutcMeets 0x009 ∧ PutcMeets 0x00A ∧ PutcMeets 0x00C ∧
    PutcMeets 0x101 ∧ PutcMeets 0x102 ∧ PutcMeets 0x103 ∧ PutcMeets 0x104 ∧
    (PutcMeets 0x3F ∧ (inMode .supervisor 0 0).fieldBad 0x3F ((inMode .supervisor 0 0).rs 5) = false ∧
      (inMode .supervisor 0 0).was.isW 31 = false) ∧
    (PutcMeets 0x100 ∧ (inMode .supervisor 0 0).fieldBad 0x100 ((inMode .supervisor 0 0).rs 5) = false ∧
      bits ((inMode .supervisor 0 0).rs 5) 2 2 ≠ 2) := by decide +kernel

theorem witness_PrivilegedFormsAct_translations :
    (isContextVa ((inMode .supervisor 0x10000 0x20000).rs 5) = true ∧ isContextVa ((inMode .supervisor 0x10000 0x20000).rs 6 - 1) = true) ∧
    (((inMode .supervisor 1 0).rs 5).toNat < 2 ^ 12 ∧ ((inMode .supervisor 1 0).rs 5).toNat = (inMode .supervisor 1 0).own.owner) := by decide +kernel

theorem witness_PrivilegedFormsAct_stops :
    let s := (inMode .supervisor 7 0).modThread 0 7 (fun th => { th with held := some 51 })
    let f := inMode .firmware 0 (2 ^ 3)
    (((s.rs 5).toNat < 8 ∧ (s.rs 5).toNat ≠ s.cur.thr % 8 ∧ (s.thread s.cur.core (s.rs 5).toNat).needsRetry = true) ∧
    ((inMode .supervisor 15 0).rs 5).toNat = 8 + 7 ∧ ((s.thread 0 7).held.isSome = true ∧ (s.thread 0 7).grant = none ∧
      (s.thread 0 7).grantB = false ∧ (s.thread 0 7).acc = [] ∧ (s.thread 0 7).latch = none ∧ (s.thread 0 7).park = .none) ∧
    (f.stopScopeBad (f.rs 5) = false ∧ f.src.park ≠ .stopping ∧ f.stopDone (f.stopCores (f.rs 5)) = true) ∧
    (bits (f.rs 6) 31 33 = 0 ∧ bits (f.rs 6) 28 3 = 0 ∧ bits (f.rs 6) 25 3 = 0 ∧ f.ownPanel (bits (f.rs 6) 17 8) = true ∧
      bits (f.rs 6) 3 14 ≠ f.cur.core ∧ f.src.mode = .firmware)) := by decide +kernel

theorem witness_PrivilegedFormsAct_stopping :
    let f := (issuing (fun th => { th with mode := .firmware, park := .stopping }))
    let g := f.modCore 0 (fun c => { c with stops := [{ scope := 0, byCore := none, sup := false, began := 0, complete := false }] })
    (f.stopScopeBad (f.rs 5) = false ∧ f.src.park = .stopping ∧ f.stopDone (f.stopCores (f.rs 5)) = true) ∧
    (g.stopScopeBad (g.rs 5) = false ∧ g.stopDone (g.stopCores (g.rs 5)) = false) := by decide +kernel

theorem witness_ReservedEncodingsTrap :
    decodeBundle 0xF000000000000000 = .error .illegalBundle ∧ decodeBundle 0x00000000FE000000 = .error (.illegalOp 0) ∧
    decodeBundle 0x0000000000000001 = .error (.reservedField 0) := ⟨rfl, rfl, rfl⟩

/-- An access entry of the issuing thread: number 0, sent, its pieces not performed yet. -/
def entry (form : AccForm) (a : Word) (n : Nat) : AccEntry :=
  { seq := 0, form := form, op := 0, fn := 0, d := 4, addr := a, pieces := piecesOf a n, done := 0, data := 0, slots := [0], epoch := 0,
    spawn := 0, held := none, key := none, mode := .user, sent := true, ord := 0, since := 0, arrived := false, req := 0, offs := 0,
    stamp := Stamp.none }

/-- A retry latch with an AMO.ADD.D of a word. -/
def latched (a : Word) : Latch :=
  { sent := true, armed := false, op := 0x40, fn := 0x20, d := 4, addr := a, operand := 1, expected := 0, seq := 0, cause := none,
    answer := none, mode := .user, ord := 0, since := 0, slots := [0], epoch := 0, spawn := 0, key := none, req := 0 }

theorem witness_ThreadControlForms :
    ((issuing id).src.latch = none ∧ (issuing id).src.acc.any (fun e => e.isStore) = false) ∧
    ((issuing (fun th => { th with acc := [entry .store 0x10000 8] })).src.acc.any (fun e => e.isStore) = true) ∧
    (issuing (fun th => { th with xh := 8 })).src.xh ≠ 0 ∧
    ((issuing (fun th => { th with task := { th.task with kind := 0 } })).src.xh = 0 ∧
      ((issuing (fun th => { th with task := { th.task with kind := 0 } })).src.task.kind ≠ 0 ∨
        (issuing (fun th => { th with task := { th.task with kind := 0 } })).src.task.parent = 0)) ∧
    ((inMode .user 16 16).slotBusy 15 = false ∧ ((inMode .user 16 16).rs 5).toNat ≤ ((inMode .user 16 16).rs 6).toNat) ∧
    ((inMode .user 16 15).slotBusy 1 = false ∧ ((inMode .user 16 15).rs 6).toNat < ((inMode .user 16 15).rs 5).toNat) ∧
    (((inMode .user 0xFFFF 0x1FFFFFFFF).rs 5).toNat < 2 ^ 16 ∧ ((inMode .user 0xFFFF 0x1FFFFFFFF).rs 6).toNat < 2 ^ 33) := by decide +kernel

/-- The place of frame 0 of the launch. -/
def framePlace : Nat := 0x80000000 + 0x20000

theorem witness_EndRetiresTheThread :
    ((issuing id).src.mode = .user ∧ (issuing id).src.pend = [] ∧ (issuing id).src.latch = none ∧
      (issuing id).launch? (issuing id).src.task.launch = none) ∧
    ((inTask id).src.mode = .user ∧ (inTask id).src.pend = [] ∧ (inTask id).src.latch = none ∧
      ((inTask id).launch? (inTask id).src.task.launch).isSome = true ∧
      (inTask id).frameAt 0 (inTask id).src.task.frame = some framePlace ∧ (inTask id).joinCount framePlace = 0 ∧
      (inTask id).src.task.kind ≠ 0) ∧
    (((inTask id).wr (framePlace + 0x200) 8 1).frameAt 0 0x20000 = some framePlace ∧
      ((inTask id).wr (framePlace + 0x200) 8 1).joinCount framePlace ≠ 0) ∧
    ((inTask (fun th => { th with task := { th.task with kind := 0 } })).src.task.kind = 0) ∧
    (inMode .supervisor 0 0).src.mode = .supervisor := by decide +kernel

theorem witness_TaskFormsMoveTheTask_spawn :
    let s := inMode .user 0x10038 0x10FFC
    let u := inTask (fun th => { th with task := { th.task with nspawn := 3 } })
    ((u.launchOf u.cur.core (u.cur.thr % 8)).map (fun l => l.id) = some 1 ∧ (u.own.takeFrame 1).map Prod.fst = some 1 ∧
      u.own.dequeHeld < 64 ∧ (u.src.pc + sx (0x7FFFF : BitVec 19) * 8).toNat % 8 = 0 ∧ (s.rs 5).toNat % 8 = 0) := by decide +kernel

theorem witness_TaskFormsMoveTheTask_placed :
    let u := inTask (fun th => th.writeS 5 0)
    let x := (u.ctxOfCore u.cur.core).getD placedCtx
    (u.ctxOfCore u.cur.core).isSome = true ∧ (u.rs 5).toNat < 128 ∧ x.hasDie (u.rs 5).toNat = true ∧
      (u.frameAt u.cur.core u.src.task.frame).isSome = true ∧ (u.own.takeFrame 1).map Prod.fst = some 1 ∧
      (u.frameAt u.cur.core (oneLaunch.frame u.cur.core 1)).isSome = true ∧ x.det = false ∧
      (u.readyTail (u.rs 5).toNat).all (fun fr => (u.frameAt u.cur.core fr).isSome) = true := by decide +kernel

/-- A continuation of the frame at VA 0x20000, not yet started. -/
def freshCont : Cont :=
  { task := { Task.none with frame := 0x20000, launch := 1 }, pc := 0x10000, sp := 0, fp := 0, fpm := 0, wto := 0, saved := [],
    ranges := [], args := [], pushT := 0, sync := none, core := 0, thr := 0, spawn := 0, fresh := true, child := true, rel := 0 }

/-- Its deque entry. -/
def freshEntry : DqEntry := { cont := freshCont, spilled := false, claimed := none, claimT := 0, logged := false, order := (0, 0, 0, 0) }

theorem witness_TaskFormsMoveTheTask_returns :
    let c : Cont := { freshCont with fresh := false, task := { freshCont.task with nspawn := 1 } }
    let e : DqEntry := { freshEntry with cont := c }
    let u := (inTask (fun th => { th with task := { th.task with frame := oneLaunch.frame 0 1, parent := 0x20000, kind := 0 } })).modCore 0
      (fun d => { d with deque := [e] })
    u.src.task.parent ≠ 0 ∧ (u.popEntry u.cur.core (u.cur.thr % 8) u.src.task).map (fun e => e.cont) = some c ∧ e.spilled = false ∧
      e.claimed = none ∧ c.sync = none ∧ (u.launch? c.task.launch).map (fun l => (l.rmode, l.reserved)) = some (0, []) ∧
      u.was.mmasAny (u.cur.thr % 8) = false ∧ u.src.pend = [] ∧ u.src.latch = none ∧
      (u.frameAt u.cur.core u.src.task.frame).isSome = true ∧ (u.frameAt u.cur.core u.src.task.frame).map u.joinCount = some 0 ∧
      u.releaseWaits u.cur.core u.cur.thr u.src.task.pubmask u.src.spawns = false ∧ u.src.mode = .user ∧ u.th.mode = .user := by decide +kernel

theorem witness_TaskFormsMoveTheTask_waits :
    let u := inTask id
    let w := u.wr (framePlace + 0x200) 8 1
    (u.src.pend = [] ∧ u.own.dequeHeld < 64 ∧ w.src.pend = [] ∧ w.frameAt 0 w.src.task.frame = some framePlace ∧ w.joinCount framePlace ≠ 0 ∧
      u.frameAt 0 u.src.task.frame = some framePlace ∧ u.joinCount framePlace = 0 ∧ u.src.latch = none ∧ u.src.task.parent = 0 ∧
      u.releaseWaits 0 0 u.src.task.pubmask u.src.spawns = false ∧ u.was.mmasAny 0 = false) := by decide +kernel

/-- With nothing pending and nothing poisoned, every register is at hand. -/
theorem at_hand_of_clean (s : State) (r w : List RegName) (h1 : s.src.pend = []) (h2 : s.own.poison = []) : s.atHand r w := by
  refine ⟨?_, ?_⟩
  · simp [State.isPending, h1]
  · simp [State.poisonedReg, h2]

theorem witness_at_hand (r w : List RegName) :
    (issuing id).atHand r w ∧ (∀ m x y, (inMode m x y).atHand r w) ∧ (inTask id).atHand r w :=
  ⟨at_hand_of_clean _ r w rfl rfl, fun _ _ _ => at_hand_of_clean _ r w rfl rfl, at_hand_of_clean _ r w rfl rfl⟩

/-- A thread with `x` in s5 and an access table that is full. -/
def fullTable (x : Word) : State :=
  issuing (fun th => ({ th with acc := List.replicate 16 (entry (.load 8 false) 0x10000 8) } : Thread).writeS 5 x)

theorem witness_LoadsIssue :
    (let s := inMode .user 0x80000 8
     s.issueCheck .load 9 false (effAddr (s.rs 5) 0x1000 8) 8 none = none ∧ s.src.accFull = false ∧
       s.issueCheck .load 9 false (effAddr (s.rs 5) 0x1000 16) 16 none = none ∧
       s.issueCheck .load 9 false (effAddr (s.rs 5) 0x1000 128) 128 none = none ∧
       s.elementsCheck .load 9 (2 ^ (3 : BitVec 2).toNat) (strided (s.rs 5) (s.rs 6) (2 ^ (3 : BitVec 2).toNat)) = none ∧
       s.elementsCheck .load 9 (2 ^ (3 : BitVec 2).toNat) (indexed (s.rs 5) (s.rv 1) (2 ^ (3 : BitVec 2).toNat)) = none) ∧
    formatBad (effAddr ((inMode .user 0x0100000000000000 0).rs 5) 0 8) = true ∧
    ((fullTable 0x10000).issueCheck .load 9 false (effAddr ((fullTable 0x10000).rs 5) 0 8) 8 none = none ∧
      (fullTable 0x10000).src.accFull = true) := by decide +kernel

theorem witness_StoresIssue :
    (let s := inMode .user 0x80000 0xFFFFFFFFFFFFFFF8
     s.issueCheck .store 10 false (effAddr (s.rs 5) 0xFFF 8) 8 none = none ∧ s.src.accFull = false ∧
       s.issueCheck .store 10 false (effAddr (s.rs 5) 0xFFF 16) 16 none = none ∧
       s.issueCheck .store 10 true (effAddr (s.rs 5) 0xFFF 8) 8 none = none ∧
       s.issueCheck .store 10 false (effAddr (s.rs 5) 0x1000 128) 128 none = none ∧
       s.elementsCheck .store 10 (2 ^ (3 : BitVec 2).toNat) (strided (s.rs 5) (s.rs 6) (2 ^ (3 : BitVec 2).toNat)) = none ∧
       s.elementsCheck .store 10 (2 ^ (3 : BitVec 2).toNat) (indexed (s.rs 5) (s.rv 1) (2 ^ (3 : BitVec 2).toNat)) = none) ∧
    formatBad (effAddr ((inMode .user 0x00F0000000000000 0).rs 5) 0 8) = true := by decide +kernel

/-- A thread with one access of its own under way. -/
def withEntry (e : AccEntry) : State := issuing (fun th => { th with acc := [e] })

/-- A load of four bytes at VA 0x20010, sign-extended. -/
def aLoad : AccEntry := { entry (.load 4 true) 0x20010 4 with slots := [] }

theorem witness_LoadResultArrives :
    let s := withEntry aLoad
    (s.thread 0 0).entry? 0 = some aLoad ∧ aLoad.form = .load 4 true ∧ aLoad.d = (4 : BitVec 6).toNat ∧
    aLoad.mode = (s.thread 0 0).mode ∧ aLoad.arrived = false ∧ aLoad.held = none ∧ aLoad.pieces = [{ addr := 0x20010, size := 4, off := 0 }] ∧
    aLoad.done = 0 ∧ aLoad.data = 0 ∧ s.late = [] ∧ s.entryWaits 0 0 aLoad = false ∧
    (s.placeN 0 .user .load 0x20010 4).toOption = some 0x80020010 := by decide +kernel

/-- A store of one byte. -/
def aStore : AccEntry := { entry .store 0x20010 1 with data := 0x1FF }

theorem witness_StoreIsPerformed :
    (let s := withEntry aStore
     (s.thread 0 0).entry? 0 = some aStore ∧ aStore.held = none ∧ aStore.form = .store ∧
       aStore.pieces = [{ addr := 0x20010, size := 1, off := 0 }] ∧ aStore.done = 0 ∧ s.entryWaits 0 0 aStore = false ∧
       (s.place 0 aStore.mode .store 0x20010).toOption = some 0x80020010 ∧ s.lag = [] ∧ s.lateOf 0 0 0 = [] ∧ s.late = [] ∧
       s.storeLoses 0 aStore = false) ∧
    (((withEntry { aLoad with arrived := true }).thread 0 0).entry? 0 = some { aLoad with arrived := true }) := by decide +kernel

theorem witness_AccessIsHeld :
    (let e := { entry (.load 8 false) 0x100000000000 8 with slots := [] }
     let s := withEntry e
     (s.thread 0 0).entry? 0 = some e ∧ e.held = none ∧ e.arrived = false ∧ e.done ≠ e.pieces.length ∧ s.causeNow 0 e = some 9 ∧
       (s.thread 0 0).mode = .user) ∧
    (let s := { withEntry aStore with clock := 2000000 }
     (s.thread 0 0).entry? 0 = some aStore ∧ (s.cdie 0).sync = true ∧ s.rto.toNat ≤ 2 * (s.clock - aStore.since) ∧ aStore.arrived = false ∧
       aStore.done ≠ aStore.pieces.length ∧ aStore.pieces.all (fun p => !(s.savedTarget 0 p.addr)) = true ∧ aStore.form.isOrdered = false ∧
       s.mustWait 0 0 aStore.ord aStore.epoch aStore.slots aStore.isStore aStore.cover = false) := by decide +kernel

theorem witness_FullEmptyForms :
    (let s := issuing (fun th => { th with grant := some [7] })
     s.src.grant = some [7]) ∧
    (let s := inMode .user 0x0080000000008000 0
     s.src.grant = none ∧ s.src.accFull = false ∧ feRegion 9 (effAddr (s.rs 5) 0x1000 8) = none ∧
       s.issueCheck .load 9 true (effAddr (s.rs 5) 0x1000 8) 8 none = none ∧ formatBad (effAddr (s.rs 5) 0x1000 8) = false) ∧
    ((issuing id).core 0).isFull 0x7FFF = false ∧
    (((issuing id).modCore 0 (fun c => { c with fe := [0x7FFF] })).core 0).isFull 0x7FFF = true := by decide +kernel

theorem witness_AtomicsIssue :
    (let s := inMode .user 0x20010 1
     s.src.latch = none ∧ s.issueCheck .atomic 10 true (s.rs 5) 8 none = none ∧ s.issueCheck .atomic 10 true (s.rs 5) 4 none = none ∧
       s.issueCheck .atomic 10 true (s.rs 5) 16 none = none) ∧
    (let s := issuing (fun th => { th with latch := some (latched 0x20010) })
     s.src.latch ≠ none ∧ s.issueCheck .atomic 10 true (s.rs 5) 8 none = none) := by decide +kernel

theorem witness_AtomicIsPerformed :
    (let l := { latched 0x20010 with slots := [] }
     let s := issuing (fun th => { th with latch := some l })
     (s.thread 0 0).latch = some l ∧ l.cause = none ∧ l.answer = none ∧ s.latchOrdered 0 l = false ∧
       s.mustWait 0 0 l.ord l.epoch l.slots true l.cover = false ∧ s.waitsOutside 0 l.addr = false ∧ (s.placeN 0 l.mode .atomic l.addr 8).toOption = some 0x80020010) ∧
    (let l := { latched 0x20010 with answer := some 5 }
     let s := issuing (fun th => { th with latch := some l })
     (s.thread 0 0).latch = some l ∧ l.answer = some 5 ∧ l.op = 0x40 ∧ l.size = 8 ∧ l.d ≠ 0 ∧ l.mode = (s.thread 0 0).mode) ∧
    (let l := { latched 0x20010 with answer := some 5, fn := 0 }
     l.size = 4) := by decide +kernel

theorem witness_OrderAndMessageForms :
    (let s := inMode .user 0 0xFFFF
     (s.rs 6).toNat < 2 ^ 16 ∧ s.scopeBad (s.ctxOfCore s.cur.core) (s.rs 5) = false ∧ s.src.fence = none ∧
       ((inMode .user 8 8).rs 6).toNat ≤ ((inMode .user 8 8).rs 5).toNat ∧ s.src.accFull = false ∧ s.msgDest (s.rs 5) = some 0 ∧ s.src.msgs < 4 ∧
       s.src.grant = none ∧ s.slotBusy 15 = false ∧ s.issueCheck .load 9 false ((inMode .user 0x20000 0).rs 5) 64 none = none) ∧
    (let s := inMode .user 0x10000 0x20001
     formatBad (s.rs 5) = false ∧ formatBad (s.rs 6 - 1) = false) ∧
    (let f : Fence := { kind := .rel, e := false, m := true, mask := 0, scope := 0, epoch := 0, mops := [] }
     let s := issuing (fun th => { th with fence := some f, epoch := 1 })
     s.src.fence = some f ∧ s.fenceWaits 0 0 f = false) ∧
    (let l : List Word := [0x20000, 0, 0x100000800, 0x1000001, 0, 0, 0, 1]
     let s := issuing (fun th => ({ th with grant := some l } : Thread).writeS 5 0x30000)
     s.src.grant = some l ∧ descValid (s.rs 5) (l.take 8) = true) := by decide +kernel

theorem witness_MessagesArrive :
    (let e := { entry (.msg 0 [7] false) 0 0 with slots := [] }
     let s := withEntry e
     (s.thread 0 0).unsentMsgs.find? (fun x => s.maySend 0 0 x.1 x.2.1) = some (e, 0, [7]) ∧ (s.core 0).refused 0 0 = false ∧
       (s.core 0).inbox.length < 64 ∧ (s.core 0).boxWait = []) ∧
    (let m : Msg := { words := [0], core := 0, thr := 0, seq := 0, ctx := 1 }
     let s := (withEntry { entry (.msg 0 [7] false) 0 0 with slots := [] }).modCore 0 (fun c => { c with inbox := List.replicate 64 m })
     ((s.thread 0 0).unsentMsgs.find? (fun x => s.maySend 0 0 x.1 x.2.1)).isSome = true ∧ 64 ≤ (s.core 0).inbox.length ∧
       (s.core 0).refuse.length < 64 ∧ (s.core 0).refused 0 0 = false) ∧
    (let e := { entry (.msg 0 [7] false) 0 0 with arrived := true }
     let s := { withEntry e with clock := 512 }
     (s.thread 0 0).acc.find? (fun e => e.arrived && e.plainTo?.any (fun k => !((s.core k).refused 0 0))) = some e ∧
       e.since + 512 ≤ s.clock) ∧
    (let s := (issuing id).modCore 0 (fun c => { c with refuse := [(0, 3)] })
     (s.core 0).refuse = [(0, 3)] ∧ (s.core 0).inbox.length < 64 ∧ (s.core 0).boxWait = []) := by decide +kernel

theorem witness_IntegerVectorFormsByElement : ElemType.isInt .i8 = true ∧ ElemType.isInt .i64 = true := by decide +kernel

theorem witness_FloatVectorFormsRetireOrTrap : ElemType.isInt .f16 = false ∧ ElemType.isInt .f64 = false ∧ fpmEn (issuing id).src.fpm = 0 := by decide +kernel

theorem witness_NanOperandsGiveTheCanonicalNan : (FNum.nan true).isNan = true := by decide +kernel

theorem witness_CompareAndReduce :
    (ElemType.isInt .i16 = true ∧ okCmp .i16 5 = true ∧ okCmp .i16 10 = true ∧ okCmp .i16 13 = true ∧ fpmEn (issuing id).src.fpm = 0) ∧
    (okRed .i8 0 = true ∧ okRed .i64 7 = true ∧ okRed .f32 2 = true ∧ ElemType.isInt .f32 = false) ∧
    (let s := issuing (fun th => ({ th with fpm := 0x1F0 } : Thread).writeV 1 0x7F800001)
     let a := fp32.readDaz (fpmDaz s.src.fpm) (elemAt 32 (s.rv 1) 0)
     activeElem (s.rq 0) .f32 0 = true ∧ compareInvalid 0 a a = true ∧ (fpmEn s.src.fpm).getLsbD 0 = true ∧ okCmp .f32 0 = true) ∧
    (let s := issuing (fun th => ({ th with fpm := 0x1F0 } : Thread).writeV 1 0x7F8000017F800001)
     let r := floatReduce fp32 s.src.fpm 0 5 (fun i => if activeElem (s.rq 0) .f32 i then some (floatLeaf fp32 false (elemAt 32 (s.rv 1) i)) else none)
     r.fl &&& fpmEn s.src.fpm ≠ 0) ∧
    (let s := issuing id
     let r := floatReduce fp32 s.src.fpm 1 5 (fun i => if activeElem (s.rq 0) .f32 i then some (floatLeaf fp32 false (elemAt 32 (s.rv 1) i)) else none)
     r.fl &&& fpmEn s.src.fpm = 0) := by decide +kernel

theorem witness_ConversionsRetire :
    (isBlockCode (10 : BitVec 5).toNat = true ∧ isBlockCode (16 : BitVec 5).toNat = true ∧ (1 : BitVec 3) ≠ 0) ∧
    (isBlockCode (9 : BitVec 5).toNat = false ∧ isBlockCode (17 : BitVec 5).toNat = false ∧ fpmEn (issuing id).src.fpm = 0) := by decide +kernel

/-- A thread with a binding of stream 3. -/
def withStream (w : Stream) : State := issuing (fun th => { th with streams := th.streams.set 3 w })

/-- A bound stream of records at VA 0x20000. -/
def boundStream (wr : Bool) : Stream := { Stream.unbound with bound := true, writing := wr, base := 0x20000 }

theorem witness_StreamForms :
    (let w := (withStream (boundStream false)).src.stream 3
     w.bound = true ∧ w.writing = false ∧ w.hasRecord w.head = true ∧ (withStream (boundStream false)).own.mmasOn 0 3 = false) ∧
    (let w := (withStream (boundStream true)).src.stream 3
     w.bound = true ∧ w.writing = true ∧ w.hasRecord w.head = true ∧ w.recs.length < 4) ∧
    ((issuing id).src.stream 3).bound = false ∧
    (let r : StreamRec := { data := 0xFF, mask := 0xFF, arrived := true, again := false, epoch := 0 }
     let w := (withStream { boundStream false with recs := [r] }).src.stream 3
     w.hasRecord w.head = true ∧ w.record? w.head = some r ∧ r.arrived = true ∧ w.pops = []) ∧
    (let r : StreamRec := { data := 0, mask := 0, arrived := false, again := false, epoch := 0 }
     let w := (withStream { boundStream false with recs := [r] }).src.stream 3
     w.hasRecord w.head = true ∧ (w.record? w.head).all (fun r => !r.arrived) = true) := by decide +kernel

theorem witness_SpecialFunctionForms :
    ((issuing id).src.sfr.find? (fun r => r.holds) = none ∧ ((issuing id).cluster 0).noUnit = false ∧ (issuing id).src.sfr.length < 4 ∧
      fpmEn (issuing id).src.fpm = 0) ∧
    (let s := issuing (fun th => { th with fpm := 0x1F00 })
     fpmEn s.src.fpm ≠ 0 ∧ s.src.sfr = []) ∧
    (let r : SfrReq := { vd := 4, ty := .f32, fn := 0, mask := 0, src := 0, fpm := 0x1F00, sent := true, holds := true, back := true }
     let s := issuing (fun th => { th with fpm := 0x1F00, sfr := [r] })
     s.src.sfr.find? (fun r => r.holds) = some r ∧ orFlags (r.results (s.rv 4)) &&& fpmEn r.fpm = 0) ∧
    (let s := (issuing id).modCluster 0 (fun c => { c with sfuUp := (false, false) })
     (s.cluster (clusterOfCore s.cur.core)).noUnit = true) := by decide +kernel

/-- Core 0 with tiles 1, 2 and 4 shaped for a product of bytes: a 4 by 4 accumulator, 4 rows of 32 elements and 4 rows of 32. -/
def withTiles (f : Thread → Thread) : State :=
  (issuing f).modCore 0 (fun c =>
    let acc := c.tsh.set 1 0x2081
    { c with tsh := (acc.set 2 0x10091).set 4 0x10091 })

/-- The entry of an MMA of those tiles. -/
def matEntry : MatOp :=
  { instr := .mma 1 2 4 ⟨false, false, false⟩, tshd := 0x2081, tsha := 0x10091, tshb := 0x10091, twin := 0, thr := 0, seq := 0, groups := 0, entry := 0, dense := 0, ga := 0, gb := 0,
    waitMet := true, started := false, gang := [], leader := 0, jseq := 0, epoch := 0, ord := 0, stamp := Stamp.none }

theorem witness_MatrixFormsAreQueued :
    (let s := withTiles (fun th => { th with streams := th.streams.set 3 (boundStream false) })
     let m : MatSpec := ⟨1, 2, 4, ⟨false, true, true⟩⟩
     checkMma s.own m = none ∧ checkMmas s.own s.src m 3 = none ∧ checkMmaw s.own s.src m = none ∧
       checkMmag s.own (gangLeader s.cur.core true == s.cur.core) m = none ∧ s.own.mqFull = false ∧ s.src.grantB = false) ∧
    (let m : MatSpec := ⟨1, 2, 3, ⟨false, false, false⟩⟩
     (checkMma (withTiles id).own m).isSome = true) ∧
    ((withTiles id).modCore 0 (fun c => { c with mq := List.replicate 8 matEntry })).own.mqFull = true ∧
    (issuing (fun th => { th with grantB := true })).src.grantB = true := by decide +kernel

theorem witness_TileForms :
    ((issuing id).own.isW 31 = false ∧ (issuing id).own.isBusy 0 31 = false ∧ (issuing id).own.poison.contains (.tileRow 31 31) = false) ∧
    (let s := (issuing id).modCore 0 (fun c => { c with poison := [.tileRow 31 31] })
     s.own.isW 31 = false ∧ s.own.poison.contains (.tileRow 31 31) = true) ∧
    (let s := (issuing id).modCore 0 (fun c => { c with mq := [matEntry] })
     s.own.isW 1 = true ∧ s.own.rowGranted s.cur.thr 1 0 = false ∧ s.own.isW 2 = false ∧ s.own.isBusy 0 2 = true) := by decide +kernel

/-- A drained operation of tile 1, row 3 of 4 granted to thread 0. -/
def drained : DrainRows :=
  { op := matEntry, tile := 1, rows := 4, seq := 0, offered := 3, waiting := [], out := [(3, 0)], rel := [], cmd := none }

theorem witness_DrainForms :
    (issuing (fun th => { th with grant := some [0x61] })).src.grant = some [0x61] ∧
    ((issuing id).src.grant = none ∧ (issuing id).own.granted? 0 = none) ∧
    (let s := (inMode .user 0x461 0).modCore 0 (fun c => { c with drains := [drained] })
     s.was.granted? s.cur.thr = some (drained, 3) ∧ bits (s.rs 5) 0 32 = (rowDesc drained 3).toNat ∧ bits (s.rs 5) 36 28 = 0 ∧
       bit (s.rs 5) 35 = false ∧ s.own.drains = s.was.drains ∧ bits (s.rs 6) 0 32 ≠ (rowDesc drained 3).toNat) ∧
    (let w := boundStream true
     let s := (issuing (fun th => ({ th with streams := th.streams.set 3 w } : Thread).writeS 5 0xB00000461)).modCore 0
       (fun c => { c with drains := [drained] })
     s.was.granted? s.cur.thr = some (drained, 3) ∧ bits (s.rs 5) 0 32 = (rowDesc drained 3).toNat ∧ bits (s.rs 5) 36 28 = 0 ∧
       bit (s.rs 5) 35 = true ∧ (3 : BitVec 3) = (s.rs 5).extractLsb' 32 3 ∧ s.src.stream 3 = w ∧ w.recs.length < 4 ∧
       s.own.poison.contains (.tileRow drained.tile 3) = false ∧
       (s.modCore 0 (fun c => { c with poison := [.tileRow 1 3] })).own.poison.contains (.tileRow drained.tile 3) = true ∧
       4 ≤ ({ w with recs := List.replicate 4 { data := 0, mask := 0, arrived := true, again := false, epoch := 0 } } : Stream).recs.length) := by
  decide +kernel

/-- A copy command from VA 0x20040 to VA 0x20000. -/
def copyEntry : CopyCmd :=
  { id := 0, instr := .cpy plainCmd 5 6 0 false false, va := 0x20000, vb := 0x20040, vc := 0, tsh := 0, thr := 0, next := 0, state := 0, batch := 0,
    closed := false, fault := 0, epoch := 0, spawn := 0, mode := .user, dst := [], src := [], slots := [], mseq := 0, key := none, ord := 0,
    lines := [], req := 0, asOrd := false, redo := [], rows := [], since := none, stamp := Stamp.none }

/-- A descriptor of eight bytes at an address. -/
def eightBytes (a : Word) : List Word := [a, 0, 0x100000811, 0x1000001, 0, 0, 0, 1]

theorem witness_CopyCommandsAreQueued :
    (let s := inMode .user 0 2
     let u := (withTiles id)
     s.own.copies.length < 16 ∧ shapeTrap false (tileOf (s.rs 6)) (u.own.shape (tileOf (s.rs 6))) = none ∧ (tileCheck 2 u).2 = none) ∧
    (16 ≤ ((issuing id).modCore 0 (fun c => { c with copies := List.replicate 16 copyEntry })).own.copies.length) ∧
    (let s := inMode .user 0xFFFF 0
     (s.own.cnext - (s.rs 5).setWidth 16).toNat ≠ 0 ∧ (s.own.cnext - (s.rs 5).setWidth 16).toNat ≤ 32768 ∧
       s.own.batches.any (fun x => x.n == (s.rs 5).setWidth 16) = false ∧ s.own.waitMet plainCmd = true ∧
       (s.own.sem plainCmd.ssem).toNat + plainCmd.sinc.toNat ≤ 0xFFFF ∧ s.own.semWait = [] ∧ s.own.signals = []) ∧
    (let s := ((inMode .user 3 0).modCore 0 (fun c => { c with cnext := 4, batches := [{ n := 3, cmd := plainCmd }] }))
     (s.own.cnext - (s.rs 5).setWidth 16).toNat ≠ 0 ∧ s.own.batches.any (fun x => x.n == (s.rs 5).setWidth 16) = true) ∧
    (let s := inMode .user 0x8000 0
     (s.own.cnext - (s.rs 5).setWidth 16).toNat = 32768) ∧
    (let s := inMode .user 0 0
     (s.own.cnext - (s.rs 5).setWidth 16).toNat = 0) := by decide +kernel

theorem witness_StreamBinding :
    let s := issuing id
    s.own.mmasOn s.cur.thr 3 = false ∧ (s.src.stream 3).recs = [] ∧ (s.src.stream 3).pops = [] ∧ s.src.drains = [] := by decide +kernel

theorem witness_SynchronisationForms :
    (let s := issuing (fun th => { th with grant := some [0, 9] })
     s.src.grant = some (0 :: [9])) ∧
    (let s := issuing (fun th => { th with grant := some [0, 9], s := th.s.set 6 9 })
     s.src.grant = some [0, 9] ∧ decide ((0 : Word) = s.rs 6) = false) ∧
    (let s := issuing (fun th => { th with grant := some [0, 9] })
     s.src.grant = some [0, 9] ∧ decide ((0 : Word) = s.rs 6) ≠ false) ∧
    (issuing (fun th => { th with grant := some [1] })).src.grant = some [1] ∧
    (let s := (issuing id).modThread 0 0 (fun th => { th with task := { th.task with launch := 1 } })
     s.launchOf s.cur.core s.cur.thr = none ∧ (issuing id).src.grant = none) ∧
    (let s := inMode .user 255 256
     s.src.grant = none ∧ (s.rs 5).toNat < 2 ^ 8 ∧ (s.src.groupField 255).isNone = true) ∧
    (let s := issuing (fun th => ({ th with grp := 0x1000000FF } : Thread).writeS 5 255)
     s.src.grant = none ∧ (s.rs 5).toNat < 2 ^ 8 ∧ (s.src.groupField (s.rs 5).toNat).isSome = true) ∧
    (let s := inMode .user 0xFFFFFFFF 0
     (s.rs 5).toNat < 2 ^ 32 ∧ bits (s.rs 5) 16 16 ≤ bits (s.rs 5) 0 16 ∧ s.src.grant = none ∧ s.own.semWait = [] ∧ s.own.signals = [] ∧
       s.isBlocked s.cur.core s.cur.thr = false ∧ (s.own.sem 255).toNat < bits (s.rs 5) 0 16 ∧
       bits ((inMode .user 0 0).rs 5) 0 16 ≤ (s.own.sem 255).toNat) ∧
    (2 ^ 32 ≤ ((inMode .user 0x100000000 0).rs 5).toNat ∧ bits ((inMode .user 0x10000 0).rs 5) 0 16 < bits ((inMode .user 0x10000 0).rs 5) 16 16) ∧
    (let s := inMode .user 0xFFFF 0
     (s.rs 5).toNat < 2 ^ 16 ∧ (s.own.sem 255).toNat + (s.rs 5).toNat ≤ 0xFFFF ∧
       s.scratchLeft s.cur.core s.cur.thr s.src.acount (ownKey, s.cur.core) = false) ∧
    (let s := issuing (fun th => { th with acount := 1, acc := [entry .store 0x0080000000008000 8] })
     s.scratchLeft s.cur.core s.cur.thr s.src.acount (ownKey, s.cur.core) = true) ∧
    (let s := (inMode .user 0xFFFF 0).modCore 0 (fun c => { c with sems := c.sems.set 255 1 })
     0xFFFF < (s.own.sem 255).toNat + (s.rs 5).toNat) := by decide +kernel

theorem witness_SynchronisationForms_requests :
    (let s := inMode .user 0x0080000000008000 0
     s.src.grant = none ∧ s.src.accFull = false ∧ feRegion (formatCause .store) (s.rs 5) = none ∧ feRegion (formatCause .load) (s.rs 5) = none ∧
       formatBad (s.rs 5) = false ∧ s.issueCheck .store (formatCause .store) true (s.rs 5) 16 none = none ∧
       s.issueCheck .load (formatCause .load) true (s.rs 5) 16 none = none) ∧
    (let s := inMode .user 0x0080000000008000 0x30040
     s.src.grant = none ∧ s.src.accFull = false ∧ (s.rs 5).toNat % 64 = 0 ∧ (s.rs 6).toNat % 64 = 0 ∧ formatBad (s.rs 5) = false ∧
       donateRegion (s.rs 5) = true ∧ s.issueCheck .store 10 true (s.rs 5) 64 none = none ∧ s.issueCheck .load 9 true (s.rs 6) 64 none = none) ∧
    (let s := inMode .user 0x20008 0
     s.src.grant = none ∧ (s.rs 5).toNat % 8 = 0 ∧ s.issueCheck .load 9 true (s.rs 5) 8 none = none ∧ s.src.accFull = false) ∧
    (let s := issuing (fun th => { th with grant := some [0, 9], call := [] })
     s.src.grant = some [0, 9] ∧ decide ((0 : Word) = s.rs 6) ≠ false ∧ s.src.call ≠ [2]) ∧
    (let s := issuing (fun th => { th with grant := some [4, 1, 2, 3, 4, 5, 6, 7] })
     s.src.grant = some (4 :: [1, 2, 3, 4, 5, 6, 7])) := by decide +kernel

theorem witness_SynchronisationForms_tickets :
    let x : Loop := { addr := 0x20000, first := 10, count := 1, body := 0, chunk := 1, shares := [(0, 0, 1)] }
    let s0 := inTask (fun th => th.writeS 5 0x20000)
    let s := { s0 with launches := [(1, { oneLaunch with loops := [x], seeded := true })] }
    s.src.grant = none ∧ s.rs 5 ≠ 0 ∧ (s.launchOf s.cur.core s.cur.thr).map (fun l => l.loops) = some [x] ∧ x.addr = s.rs 5 ∧
      x.addr ≠ (inMode .user 8 0).rs 5 := by decide +kernel

/-- A special-function request that has entered its unit. -/
def sent : SfrReq := { vd := 4, ty := .f32, fn := 0, mask := 0, src := 0, fpm := 0, sent := true, holds := false, back := false }

theorem witness_SpecialFunctionEvents :
    (let s := (issuing id).modCluster 0 (fun c => { c with sfuq := ([(0, 0)], []) })
     ((s.cluster 0).queueOf 0).find? (fun x => (s.cluster 0).offersTo 0 s.clock x.1) = some (0, 0) ∧ (s.cluster 0).unitUp 0 = true) ∧
    (let s := { (issuing id).modCluster 0 (fun c => { c with sfuq := ([(0, 0)], []) }) with clock := 1 }
     (s.cluster 0).queueOf 0 ≠ [] ∧ ((s.cluster 0).queueOf 0).find? (fun x => (s.cluster 0).offersTo 0 s.clock x.1) = none) ∧
    (let s := (issuing id).modCluster 0 (fun c => { c with sfuq := ([], [(0, 0)]), sfuUp := (true, false) })
     (s.cluster 0).queueOf 1 ≠ [] ∧ (s.cluster 0).unitUp 1 = false) ∧
    (let s := issuing (fun th => { th with sfr := [sent] })
     (s.cluster (clusterOfCore 0)).noUnit = false ∧ (s.thread 0 0).sfr = sent :: [] ∧ sent.sent = true ∧ sent.holds = false ∧
       { sent with holds := true }.holds = true) := by decide +kernel

/-- A record. -/
def aRecord (arrived : Bool) : StreamRec := { data := 0xFF, mask := 0xFF, arrived := arrived, again := false, epoch := 0 }

/-- The record that the engine reads for entry `i` of a stream, and the one it writes first. -/
def reads (s : State) (w : Stream) (i : Nat) : Except EngStop (State × Nat) :=
  s.engBytes 0 0 w.mode (recordAddr w.base w.shape i) (recordAddr w.base w.shape i) 128

def writes (s : State) (w : Stream) : Except EngStop (State × List Nat) :=
  s.engStore 0 0 w.mode (recordAddr w.base w.shape w.first) (recordAddr w.base w.shape w.first) 128 0xFF (byteBits 0xFF)

def faulted {α : Type} : Except EngStop α → Bool
  | .error (.fault _ _) => true
  | _ => false

theorem witness_StreamEvents :
    (let s := withStream (boundStream false)
     let w := (s.thread 0 0).stream 3
     w.bound = true ∧ w.writing = false ∧ w.stopped = false ∧ w.hasRecord w.asked = true ∧ w.asked < w.head + 4 ∧
       w.mayStart (s.core 0) = true ∧ s.fenceKeepsRecord 0 0 w.base w.shape w.asked (s.thread 0 0).epoch false = false ∧
       (s.core 0).stops = []) ∧
    (let s := withStream { boundStream false with recs := [aRecord true, aRecord false] }
     let w := (s.thread 0 0).stream 3
     w.inFlight? = some 1 ∧ w.stopped = false ∧ (w.recOf 1).again = false ∧ ((reads s w 1).toOption.map Prod.snd) = some 0) ∧
    (let s := withStream { boundStream false with base := 0x40000000, recs := [aRecord false] }
     let w := (s.thread 0 0).stream 3
     w.inFlight? = some 0 ∧ w.stopped = false ∧ (w.recOf 0).again = false ∧ faulted (reads s w 0) = true) ∧
    (let s := withStream { boundStream true with recs := [aRecord true] }
     let w := (s.thread 0 0).stream 3
     (s.thread 0 0).drains = [] ∧ w.writing = true ∧ w.stopped = false ∧ w.recs = aRecord true :: [] ∧
       s.fenceKeepsRecord 0 0 w.base w.shape w.first 0 true = false ∧ (writes s w).toOption.isSome = true) ∧
    (let s := withStream { boundStream true with base := 0x40000000, recs := [aRecord true] }
     let w := (s.thread 0 0).stream 3
     w.recs = aRecord true :: [] ∧ s.fenceKeepsRecord 0 0 w.base w.shape w.first 0 true = false ∧ faulted (writes s w) = true) := by decide +kernel

/-- Core 0 with a copy command, its descriptors in memory. -/
def withCopy (x : CopyCmd) : State :=
  let s := ((issuing id).modCore 0 (fun c => { c with copies := [x] })).wrWords 0x80020000 (eightBytes 0x20080)
  s.wrWords 0x80020040 (eightBytes 0x20100)

/-- The command of `copyEntry`, started and with all its elements moved. -/
def copyDone : CopyCmd := { copyEntry with state := 1, next := 8, dst := eightBytes 0x20080, src := eightBytes 0x20100 }

/-- A reduction of eight bytes. -/
def reduction : CopyCmd := { copyDone with instr := .cpyr plainCmd 5 6 0 .sum false false true }

theorem witness_CopyEngineEvents_start :
    let s := withCopy copyEntry
    let c := s.core 0
    let v := s.modCore 0 (fun c => { c with cfault := true })
    (c.copies.find? (fun x => x.state == 0) = some copyEntry ∧ s.startWaits 0 copyEntry = false ∧
      (s.openCopy 0 copyEntry).toOption.map (fun y =>
        (c.copies.filter (fun y => y.state == 1)).any (fun z => y.2.clashes z) || y.2.weightBad.isSome) = some false) ∧
    (v.core 0).copies.find? (fun x => x.state == 0) = some copyEntry ∧ v.startWaits 0 copyEntry = true := by
  decide +kernel

theorem witness_CopyEngineEvents_moves :
    (let s := withCopy copyDone
     (s.core 0).copy? copyDone.id = some copyDone ∧ copyDone.state = 1 ∧ s.copyHalted 0 = false ∧ copyDone.reduces = false ∧
       (let m := s.moveRest 0 copyDone
        m.2.2.isNone = true ∧ m.2.1.total ≤ m.2.1.next ∧ m.2.1.id = copyDone.id ∧
          ((m.1.cleanMoved 0 m.2.1 copyDone.next m.2.1.next).modCore 0 (fun c => c.modCopy copyDone.id (fun _ => m.2.1))).copyUnsettled 0 m.2.1 =
            false)) := by decide +kernel

/-- The command of `copyDone` with nothing moved, from an address that no page maps. -/
def copyBad : CopyCmd := { copyDone with next := 0, src := eightBytes 0x40000000 }

theorem witness_CopyEngineEvents_faults :
    ((withCopy copyBad).core 0).copy? copyBad.id = some copyBad ∧ copyBad.state = 1 ∧ (withCopy copyBad).copyHalted 0 = false ∧
      copyBad.reduces = false ∧ (((withCopy copyBad).moveRest 0 copyBad).2.2.any (fun e => match e with | .fault _ _ => true | _ => false)) = true := by
  decide +kernel

theorem witness_CopyEngineEvents_reduces :
    (let x := { reduction with next := reduction.total }
     x.reduces = true ∧ x.state = 1 ∧ x.total ≤ x.next ∧ (withCopy x).copyUnsettled 0 x = false) ∧
    (copyDone.state ≠ 2) ∧
    (let x := { reduction with next := 0, dst := eightBytes 0x0080000000000080, src := eightBytes 0x0080000000000100 }
     x.reduces = true ∧ x.ordered = false ∧ x.next < x.total ∧ ((withCopy x).redApply 0 x x.next).toOption.isSome = true) := by decide +kernel

theorem witness_CopyEngineEvents_batch :
    let s := (issuing id).modCore 0 (fun c => { c with batches := [{ n := 0, cmd := plainCmd }], cnext := 1 })
    (s.core 0).batches = { n := 0, cmd := plainCmd } :: [] ∧ (s.core 0).copies.any (fun x => x.closed && x.batch == 0) = false ∧
      (s.core 0).waitMet plainCmd = true := by decide +kernel

/-- Core 0 with a matrix operation in its queue. -/
def withMat (o : MatOp) : State := (withTiles id).modCore 0 (fun c => { c with mq := [o] })

/-- An arrival of thread 0 of each member of a row gang. -/
def arrival : GangArr := { thr := 0, instr := .mmag 1 2 4 true ⟨false, false, false⟩, fmtA := 17, elemsA := 32, cols := 4, rowsB := 4, seen := true }

theorem witness_MatrixEngineEvents_ops :
    (let s := withMat matEntry
     (s.core 0).headOp? = some matEntry ∧ matEntry.gang = [] ∧ s.opReady 0 matEntry = true ∧ matEntry.started = false ∧ (s.core 0).drainHolds 0 = false ∧
       s.headWaits 0 = false ∧ (matCmd matEntry.instr).all (fun e => (s.core 0).waitMet e) = true) ∧
    (let o := { matEntry with started := true }
     let s := withMat o
     (s.core 0).headOp? = some o ∧ s.opReady 0 o = true ∧ s.input.ok = true ∧ (s.core 0).tilePoison o 0 = none ∧ matStream o.instr = none ∧
       o.groups < o.groupCount ∧ { s with input := { Input.none with ok := false } }.opReady 0 o = true) ∧
    (let s := (withMat matEntry).modCore 0 (fun c => { c with drains := [drained] })
     (s.core 0).headOp? = some matEntry ∧ matEntry.gang = [] ∧ s.opReady 0 matEntry = true ∧ (s.core 0).drainHolds 0 = true) ∧
    (let o := { matEntry with started := true, groups := matEntry.groupCount }
     (withMat o).opReady 0 o = true ∧ o.groupCount ≤ o.groups ∧ o.finished = true) := by decide +kernel

theorem witness_MatrixEngineEvents_gang :
    let s := (List.range 4).foldl (fun s k => s.modCore k (fun c => { c with gang := [arrival] })) (issuing id)
    let v := s.modCore 1 (fun c => { c with gang := [{ arrival with cols := 5 }] })
    let near := fun (s : State) (x : Nat × GangArr) => x ∈ s.rowArrivals 0 0 ∧ x.1 ≠ gangPos 0 ∧ sharesGang (gangPos 0) arrival x.1 x.2 = true
    ((s.core 0).arrival? 0 = some arrival ∧ arrival.four = true ∧
      (s.rowArrivals 0 0).all (fun x => !(decide (near s x)) || (gangDiff (gangPos 0) arrival x.1 x.2).isNone) = true ∧
      (gangCores 0 true).all (fun j => ((s.core j).arrival? 0).any (fun g => g.seen)) = true) ∧
    ((v.core 0).arrival? 0 = some arrival ∧
      (v.rowArrivals 0 0).any (fun x => decide (near v x) && (gangDiff (gangPos 0) arrival x.1 x.2).isSome) = true) := by decide +kernel

theorem witness_MatrixEngineEvents_drain :
    (let s := (issuing id).modCore 0 (fun c => { c with drains := [drained], drnList := [0] })
     (s.core 0).nextDrain = some drained ∧ (s.core 0).drnList = 0 :: [] ∧ s.isBlocked 0 0 = false ∧ s.detAt 0 = false) ∧
    (let s := (issuing (fun th => { th with st := .retired })).modCore 0 (fun c => { c with drains := [drained], drnList := [] })
     (s.core 0).nextDrain = some drained ∧ (s.core 0).missing = false ∧
       (List.range 8).all (fun j => (s.thread 0 j).isSup || decide ((s.thread 0 j).st = .free) || decide ((s.thread 0 j).st = .retired)) = true) ∧
    (2 ≤ pairClass 17 ∧ (0xFFFFFFFF : Nat) < 2 ^ 32) := by decide +kernel

theorem witness_SynchronisationEvents_semaphore :
    (let s := (issuing id).modCore 0 (fun c => { c with signals := [(255, 70000)] })
     (s.core 0).signals = [(255, 70000)] ∧ (s.core 0).semWait = []) ∧
    (let s := (issuing (fun th => { th with call := [5, 5] })).modCore 0 (fun c => { c with semWait := [(0, 1)], sems := c.sems.set 1 5 })
     (s.core 0).signals = [] ∧ (s.core 0).semWait = [(0, 1)] ∧ s.isBlocked 0 0 = false ∧ (s.thread 0 0).call = [5, 5] ∧
       (5 : Word).toNat ≤ ((s.core 0).sem (BitVec.ofNat 8 1)).toNat) := by decide +kernel

/-- An LDF under way on the last word of its core's own scratchpad. -/
def feEntry : AccEntry := { entry .fe 0x008000000003FFF8 8 with op := 0x3A }

theorem witness_SynchronisationEvents_word :
    let s := { (withEntry feEntry).modCore 0 (fun c => { c with felist := [(0, 0, 0x7FFF)], fe := [0x7FFF] }) with clock := 64 }
    (s.core 0).felist = [(0, 0, 0x7FFF)] ∧ (s.thread 0 0).acc.find? (fun e => decide (e.form = AccForm.fe)) = some feEntry ∧
      feEntry.op = 0x3A ∧ s.scratchOf 0 feEntry.addr = some (ownKey, 0, 0x3FFF8) ∧ 0x3FFF8 / 8 = 0x7FFF ∧
      (s.core 0).isFull 0x7FFF = true ∧ (s.core 0).poison = [] ∧ s.isBlocked 0 0 = false ∧ ({ feEntry with op := 0x3B } : AccEntry).op = 0x3B ∧ (s.thread 0 0).parkT + 64 ≤ s.clock := by decide +kernel

/-- A group of two threads, both arrived. -/
def aGroup : Group := { n := 3, members := [(0, 0), (0, 1)], arrived := [(0, 0)], phase := 0 }

theorem witness_SynchronisationEvents_barrier :
    (let l := { oneLaunch with groups := [aGroup] }
     let s := { inTask id with launches := [(1, l)] }
     s.launch? 1 = some l ∧ l.groups.find? (fun x => x.n == aGroup.n) = some aGroup ∧ aGroup.arrived ≠ [] ∧
       ((0, 0) ∈ aGroup.arrived) ∧ s.memberGone 1 (0, 1) = true) ∧
    (let g : Group := { aGroup with members := [(0, 0), (0, 2)] }
     let s := { (inTask (fun th => { th with park := .barrierTimed, wto := 8 })).modThread 0 2 (fun th =>
       { th with st := .running, task := { th.task with launch := 1 } }) with clock := 64 }
     let v := { s with launches := [(1, { oneLaunch with seeded := true, groups := [g] })] }
     let w := { s with launches := [(1, { oneLaunch with seeded := true, groups := [{ g with arrived := g.members }] })] }
     (v.thread 0 0).park = .barrierTimed ∧ (v.thread 0 0).grant = none ∧ v.timeUp 0 0 = true ∧
       (v.launch? (v.thread 0 0).task.launch).map (fun l => l.groups) = some [g] ∧ (0, 0) ∈ g.arrived ∧ (0, 2) ∈ g.members ∧
       (0, 2) ∉ g.arrived ∧ v.memberGone 1 (0, 2) = false ∧
       (w.thread 0 0).park = .barrierTimed ∧ (w.thread 0 0).grant = none ∧ w.timeUp 0 0 = true ∧
       (w.launch? 1).map (fun l => l.groups.map (fun g => decide (∀ m ∈ g.members, m ∈ g.arrived))) = some [true]) := by decide +kernel

theorem witness_SynchronisationEvents_watch :
    let s := { issuing (fun th => { th with park := .watch 0x20000, wto := 8 }) with clock := 1024 }
    (s.thread 0 0).park = .watch 0x20000 ∧ (s.thread 0 0).grant = none ∧ (s.thread 0 0).acc = [] ∧
      (s.thread 0 0).since + 1024 ≤ s.clock ∧ s.timeUp 0 0 = true := by decide +kernel

/-- A ticket loop with one chunk on die 0. -/
def aLoop : Loop := { addr := 0, first := 10, count := 1, body := 0, chunk := 1, shares := [(0, 0, 1)] }

theorem witness_SchedulingEvents_ticket :
    (let s0 := inTask (fun th => { th with park := .ticket, call := [0] })
     let l := { oneLaunch with loops := [aLoop], seeded := true }
     let s := { s0 with launches := [(1, l)] }
     s.launchOf 0 0 = some l ∧ l.rmode = 0 ∧ s.detAt 0 = false ∧ (s.thread 0 0).asksTicket = true ∧ (s.thread 0 0).call = [BitVec.ofNat 64 0] ∧
       l.loops[0]? = some aLoop ∧ s.isBlocked 0 0 = false ∧ s.unitFree (s.ticketDie 0) = true ∧ s.grabsAt (s.ticketDie 0) = [] ∧
       (s.modCDie (s.ticketDie 0) (fun d => { d with grabT := 1 })).unitFree (s.ticketDie 0) = false) ∧
    (let s := (inTask (fun th => { th with park := .donation, call := [0x30000, 1, 2, 3, 4, 5, 6, 7, 8] })).wr 0x80030000 8 4
     (s.thread 0 0).donates = true ∧ (s.thread 0 0).call = 0x30000 :: [1, 2, 3, 4, 5, 6, 7, 8] ∧ (s.thread 0 0).parkT = 0 ∧
       s.releaseWaits 0 0 (s.thread 0 0).task.pubmask (s.thread 0 0).spawns = false ∧ s.dqAt 0 0x30000 = some (0x80030000, 4, 0, 0) ∧
       (0 + 2 ^ 64 - 0) % 2 ^ 64 < 4) := by decide +kernel

theorem witness_SchedulingEvents_search :
    (let s := { inTask (fun th => { th with st := .idle }) with clock := 64 }
     let v := s.joinSearch 0 0
     (s.thread 0 0).searches = true ∧ (s.cluster 0).searchq = [] ∧ v.takenUp 0 0 = true ∧ (s.core 0).mmasAny 0 = false ∧
       (s.launchOf 0 0).map (fun l => (v.search l 0).isNone && l.rmode == 0) = some true ∧ (s.thread 0 0).parkT + 64 ≤ s.clock) ∧
    (let s := (inTask (fun th => { th with st := .idle })).modCore 0 (fun c => { c with deque := [freshEntry] })
     let v := s.joinSearch 0 0
     (s.thread 0 0).searches = true ∧ v.takenUp 0 0 = true ∧ (s.core 0).mmasAny 0 = false ∧
       (s.launchOf 0 0).map (fun l => match v.search l 0 with | some (.entry _ _) => true | _ => false) = some true) ∧
    (let s := inTask (fun th => { th with st := .idle, steal := some freshEntry })
     (s.thread 0 0).steal = some freshEntry ∧ (s.thread 0 0).stopped = false ∧ freshEntry.claimed = none ∧
       s.releaseWaits 0 0 freshCont.rel freshCont.spawn = false ∧ (s.core 0).mmasAny 0 = false ∧
       s.entryCont 0 freshEntry = some freshCont ∧ freshCont.fresh = true) := by decide +kernel

/-- The port of compute die 0 to its first neighbour. -/
def aLink : Link := .port (.compute 0) 0

/-- Its watermark. -/
def linkState (w : BitVec 48) (stalled : Bool) : LinkSt := { l := aLink, w := w, last := 0, stalled := stalled, up := true, merge := false }

/-- A store to an ordered place that has been sent, and its packet. -/
def ordEntry : AccEntry := { entry .sto 0x20010 8 with slots := [] }

theorem witness_OrderedNetworkEvents_inject :
    let s := withEntry ordEntry
    (s.modCDie 0 (fun d => { d with sync := false })).takenOut (.compute (dieOfCore 0)) = true ∧
      (s.ordOps 0 0).isEmpty = false ∧ s.detAt 0 = false ∧ s.takenOut (.compute (dieOfCore 0)) = false ∧ (match s.injectable 0 0 with | some (.entry e) => decide (e = ordEntry) | _ => false) = true ∧
      (match s.logCheck 0 0 4 0 with | .free => true | _ => false) = true := by decide +kernel

theorem witness_OrderedNetworkEvents_links :
    (let x := linkState 0 false
     let s := { issuing id with links := [x], clock := 128 }
     s.link? aLink = some x ∧ isDereneLink aLink = false ∧ x.up = true ∧ (linkStamped aLink && s.takenOut (linkDie aLink)) = false ∧
       x.last + 256 ≤ s.time.toNat ∧ (issuing id).time.toNat < 256) ∧
    (let l : Link := .port (.compute 0) 4
     let s := { issuing id with links := [{ linkState 0 false with l := l }] }
     isDereneLink l = true ∧ s.links.any (fun x => decide (x.l = l)) = true) ∧
    (let x := linkState 256 true
     let s := { issuing id with links := [x], clock := 128 }
     x.stalled = true ∧ s.lagOf x < s.wmlag.toNat / 2) ∧
    (let x := linkState 0 false
     let p : OrdPkt := { key := 0, t := 0, det := false, ctx := 1, core := 0, thr := 0, what := 0, ref := 0, elem := 0, data := 0, target := .bank 0 }
     let s := { issuing id with links := [x], clock := 100000, ordered := [p] }
     x.stalled = false ∧ s.wmlag.toNat < s.lagOf x ∧ { s with ordered := [] }.wmlag.toNat < { s with ordered := [] }.lagOf x) := by decide +kernel

theorem witness_OrderedNetworkEvents_apply :
    let p : OrdPkt := { key := 0, t := 0, det := false, ctx := 1, core := 0, thr := 0, what := 0, ref := 0, elem := 0, data := 0, target := .bank 0 }
    let s := { withEntry ordEntry with ordered := [p], clock := 1000, links := [{ l := .inject 0 0, w := 2000, last := 2000, stalled := false, up := true, merge := true }] }
    s.ordered.any (fun p => decide (p.target = .bank 0)) = true ∧ ((s.applicable (.bank 0)).findSome? s.applyPkt).isSome = true := by decide +kernel

theorem witness_CoherenceEvents :
    (let s := issuing id
     let c := (s.ctx? 1).getD placedCtx
     (s.ctx? 1).isSome = true ∧ s.placeOf c 0x20000 = some 0x80020000 ∧ s.hostOwns c 0x20000 0x80020000 = false ∧
       s.calibrating 0x80020000 = false ∧ s.losesPort (c.homeOf 0x20000) 0 (0x80020000 / 128) = false ∧ s.placeOf c 0x3FFFFF80 = some 0xBFFFFF80 ∧ s.hostOwns c 0x3FFFFF80 0xBFFFFF80 = false ∧ isContextVa 0x007FFFFFFFFFFFFF = true) ∧
    heldDirty ((issuing id).holdings (physHost 0)) = false ∧ heldDirty [.s, .m] = true ∧
    ({ issuing id with input := { Input.none with unit := 1, addr := 0x20000 } }.hdmPlace).map Prod.snd = some 0x80020000 ∧
    (let s := { (issuing id).modMDie 0 (fun d => { d with hostWait := [(0, 7)] }) with input := { Input.none with unit := 0 } }
     s.hostOutstanding s.input.unit = true ∧ s.input.bytes = []) := by decide +kernel

theorem witness_CoherenceEvents_ports :
    (let s := issuing id
     vaRegion 0x00A0000000000000 = 0xA ∧ s.refreshOpen = false) ∧
    (let e : DirEntry := { ctx := 1, line := lineOf 0x20000, way := 0, place := 0, st := .s, owner := none, shr := [], vec := [], host := true }
     let s := (issuing id).modMDie 0 (fun d => { d with dir := [e] })
     let a := s.aliasOf placedCtx 0x20000 0x80020000
     s.ctx? 1 = some placedCtx ∧ s.placeOf placedCtx 0x20000 = some 0x80020000 ∧ s.calibrating 0x80020000 = false ∧ s.homeOfLine a.1 a.2 = 0 ∧
       ((s.mdie 0).entry? a.1 a.2).any (fun e => e.host) = true) := by decide +kernel

/-- The order of a home's ports is the hardware's: a request loses when another one waits whose port comes first. -/
theorem witness_losesPort :
    let s := { withEntry aStore with agenda := [{ what := .homeOwnershipRequest 8 1 0x20000, input := Input.none }] }
    s.portRank 0 8 < s.portRank 0 0 → s.losesPort 0 0 (0x80020000 / 128) = true ∧ s.storeLoses 0 aStore = true := by
  intro s h
  have h1 : s.seeker (0x80020000 / 128) { what := .homeOwnershipRequest 8 1 0x20000, input := Input.none } = some 8 := by decide +kernel
  have h2 : s.losesPort 0 0 (0x80020000 / 128) = true := by
    simp only [State.losesPort, show s.agenda = [{ what := .homeOwnershipRequest 8 1 0x20000, input := Input.none }] from rfl, List.any_cons,
      List.any_nil, h1]
    simp [h]
  refine ⟨h2, ?_⟩
  have h3 : s.ctxOfCore 0 = some placedCtx := by decide +kernel
  have h4 : s.nextPieces aStore = [{ addr := 0x20010, size := 1, off := 0 }] := by decide +kernel
  have h5 : s.bytePlace 0 0x20010 = some 0x80020010 := by decide +kernel
  have h6 : s.needsOwner 0 0x20010 = true := by decide +kernel
  have h7 : placedCtx.homeOf 0x20010 = 0 := by decide +kernel
  have h8 : clusterOfCore 0 = 0 := by decide +kernel
  simp only [State.storeLoses, h3, h4, List.any_cons, List.any_nil, h5, h6, h7, h8]
  simpa using h2

/-- A queue whose entries stand in host memory at 0x1000, with one command `w` to be taken. -/
def withCommand (w : List Word) : State :=
  let s := { issuing id with queues := [(3, { Queue.reset with en := true, ctx := 1, base := 0x1000, pidx := 1 })], clock := 1000000 }
  s.wrWords (physHost 0x1000) w

/-- The words of a command. -/
def command (x : Word) : List Word := (List.replicate 32 0).set 0 x

theorem witness_LaunchEvents_kick :
    (let s := { withCommand (command 0) with input := { Input.none with unit := 3, word := 16 }, bring := 10 }
     let q := s.queue 3
     let v : Word := 16
     s.input.unit = 3 ∧ s.input.word = v ∧ q.en = true ∧ 10 ≤ s.bring ∧ bits v 32 32 = 0 ∧ 0 < (v.setWidth 32 - q.pidx).toNat ∧
       (v.setWidth 32 - q.pidx).toNat < 2 ^ 31 ∧ (v.setWidth 32 - q.cidx).toNat ≤ 2 ^ q.log2cap) ∧
    bits (0x100000000 : Word) 32 32 ≠ 0 := by decide +kernel

theorem witness_LaunchEvents_commands :
    (let s := withCommand (command 0x100)
     (s.turnOf 3).isSome = true ∧ (s.queue 3).skip = [] ∧ s.headGone 3 (.refusedCommand 3) = false) ∧
    (let s := withCommand (command 0x102)
     (s.turnOf 3).map (fun w => s.judge 3 w) = some .take ∧ s.headGone 3 (.teardownCommand 3) = false ∧ s.input.code = 0) ∧
    (let s := withCommand (command 3)
     (s.turnOf 3).map (fun w => s.judge 3 w) = some .take ∧ s.headGone 3 (.barrierCommand 3) = false) := by decide +kernel

theorem witness_LaunchEvents_hold :
    let s := (withCommand (command 3)).modQueue 3 (fun q => { q with open_ := [0] })
    s.judge 3 (command 3) = .hold ∧ s.turnOf 3 = none ∧ s.headGone 3 (.barrierCommand 3) = false := by decide +kernel

/-- A LAUNCH of context 1 on core 0 with a quota of two threads and 16 frames. -/
def aLaunch : List Word := (command 0x200101).set 25 0x0C000010

/-- Its state: the one page of the context is cached at its home. -/
def launchState : State :=
  (withCommand aLaunch).modMDie 0 (fun d => { d with tlb := [Tlb.mk 0 1 0 30 0x8000011F] })

/-- A byte outside the listed cells reads as an unlisted one. -/
theorem get_outside (m : Memory) (lo hi a : Nat) (h : m.all (fun c => decide (c.1 < lo) || decide (hi ≤ c.1)) = true) (h1 : lo ≤ a)
    (h2 : a < hi) : Memory.get m a = 0 := by
  induction m with
  | nil => rfl
  | cons x r ih =>
    simp only [List.all_cons, Bool.and_eq_true, Bool.or_eq_true, decide_eq_true_eq] at h
    have hx : x.1 ≠ a := by omega
    simp only [Memory.get, AMap.getD, AMap.get?, hx, if_false] at ih ⊢
    exact ih h.2

theorem rdw_outside (s : State) (lo hi a : Nat) (h : s.mem.all (fun c => decide (c.1 < lo) || decide (hi ≤ c.1)) = true) (h1 : lo ≤ a)
    (h2 : a + 8 ≤ hi) : s.rdw a = 0 := by
  have g : ∀ j, j < 8 → Memory.get s.mem (a + j) = 0 := fun j hj => get_outside _ lo hi _ h (by omega) (by omega)
  have e : readBytes s.mem a 8 = 0 := by
    have e0 := g 0 (by omega); have e1 := g 1 (by omega); have e2 := g 2 (by omega); have e3 := g 3 (by omega)
    have e4 := g 4 (by omega); have e5 := g 5 (by omega); have e6 := g 6 (by omega); have e7 := g 7 (by omega)
    simp only [Nat.add_zero] at e0
    simp [readBytes, Nat.add_assoc, e0, e1, e2, e3, e4, e5, e6, e7]
  simp [State.rdw, e]

theorem userWord_low (a : Word) (h : a.toNat < 2 ^ 13 - 7) : launchState.userWord placedCtx a = some 0 := by
  have h1 : isContextVa a = true := by simp [isContextVa, bits]; omega
  have h2 : tlbHits (Tlb.mk 0 1 0 30 0x8000011F) 1 a = true := by simp [tlbHits, bits]; omega
  have h3 : launchState.leafOf placedCtx a = .leaf 0x8000011F 30 := by
    have : placedCtx.homeOf a = 0 := by simp [Ctx.homeOf, placedCtx, Nat.mod_one]
    have t : (launchState.mdie 0).tlb = [Tlb.mk 0 1 0 30 0x8000011F] := by decide +kernel
    simp only [State.leafOf, State.leafAt, this, t, List.find?_cons]
    rw [show placedCtx.id = 1 from rfl, h2]
  have h4 : launchState.leafPhys placedCtx a 0x8000011F 30 = some (physLpddr (0x80000000 + a.toNat)) := by
    have e : bits a 0 30 = a.toNat := by simp [bits]; omega
    have e1 : bits (0x8000011F : Word) 8 2 = 1 := by decide
    have e2 : bits (0x8000011F : Word) 12 44 * 4096 = 0x80000000 := by decide
    unfold State.leafPhys
    simp only [e, e1, e2]
    rw [if_pos (by omega)]
  have h5 : leafCause 0x8000011F .user .load = none := by decide
  have h6 : launchState.mem.all (fun c => decide (c.1 < physLpddr 0x80000000) || decide (physLpddr 0x80002000 ≤ c.1)) = true := by decide +kernel
  have h7 : launchState.rdw (physLpddr (0x80000000 + a.toNat)) = 0 :=
    rdw_outside _ _ _ _ h6 (by simp only [physLpddr]; omega) (by simp only [physLpddr]; omega)
  have h8 : launchState.poison = [] := by decide +kernel
  unfold State.userWord State.translate
  simp only [h1, h3, h5, h4, h7, State.isPoisoned, h8]
  rfl

theorem readGroups_launchState : (launchState.readGroups placedCtx 0).isSome = true := by
  have g : ∀ l : List Nat, (∀ n ∈ l, n < 256) → ∃ r, (l.mapM (fun g => match launchState.userWords placedCtx (0 + BitVec.ofNat 64 (32 * g)) 4 with
      | none => none
      | some w => (launchState.readGroup placedCtx w).map (fun m => ({ n := g, members := m, arrived := [], phase := 0 } : Group)))) = some r := by
    intro l
    induction l with
    | nil => exact fun _ => ⟨[], rfl⟩
    | cons n l ih =>
      intro h
      obtain ⟨r, hr⟩ := ih (fun m hm => h m (List.mem_cons_of_mem _ hm))
      have hn : n < 256 := h n List.mem_cons_self
      have u : ∀ j, j < 4 → launchState.userWord placedCtx (0 + BitVec.ofNat 64 (32 * n) + BitVec.ofNat 64 (8 * j)) = some 0 :=
        fun j hj => userWord_low _ (by simp; omega)
      have w : launchState.userWords placedCtx (0 + BitVec.ofNat 64 (32 * n)) 4 = some [0, 0, 0, 0] := by
        have u0 := u 0 (by omega); have u1 := u 1 (by omega); have u2 := u 2 (by omega); have u3 := u 3 (by omega)
        simp only [State.userWords, show List.range 4 = [0, 1, 2, 3] from rfl, List.mapM_cons, List.mapM_nil, u0, u1, u2, u3]
        rfl
      have z : launchState.readGroup placedCtx [0, 0, 0, 0] = some [] := by
        simp [State.readGroup, cw, bit]
      refine ⟨{ n := n, members := [], arrived := [], phase := 0 } :: r, ?_⟩
      simp only [List.mapM_cons, w, z, hr]; rfl
  obtain ⟨r, hr⟩ := g (List.range 256) (fun n hn => List.mem_range.mp hn)
  exact (congrArg Option.isSome hr).trans rfl

theorem launchStatus_passes (s : State) (q : Queue) (w : List Word) (c : Ctx) (hc : s.ctx? (bits (cw w 0) 8 12) = some c)
    (b1 : (launchWordsBad w || !(bits (cw w 0) 8 12 == q.ctx) || decide (q.pmax < bits (cw w 0) 4 2) ||
      decide (c.pmax < bits (cw w 0) 4 2)) = false) (b2 : c.holdsCores ((cw w 1).setWidth 32) = true)
    (b3 : (!(bits (cw w 0) 6 2 == 0) && bit c.qnt 63) = false)
    (hl : ((List.range 8).mapM (fun j => s.readLoop c ((cw w 1).setWidth 32) (cw w (12 + j)))).isSome = true)
    (hg : (s.readGroups c (cw w 11)).isSome = true) : s.launchStatus q w = none := by
  unfold State.launchStatus
  simp only [hc]
  rw [if_neg (by rw [b1]; decide), if_neg (by rw [b2]; decide), if_neg (by rw [b3]; decide),
    if_neg (by simp only [Option.isNone_iff_eq_none, Bool.or_eq_true, not_or]
               exact ⟨fun e => by rw [e] at hl; exact absurd hl (by decide), fun e => by rw [e] at hg; exact absurd hg (by decide)⟩)]

theorem judge_takes (s : State) (n : Nat) (w : List Word) (o : bits (cw w 0) 0 4 = 1) (h : s.launchStatus (s.queue n) w = none)
    (k : s.launchHeld n w = false) : s.judge n w = .take := by
  unfold State.judge
  simp only [o, h, k]; rfl

theorem turnOf_only (s : State) (n : Nat) (q : Queue) (w : List Word) (h : s.queues = [(n, q)]) (hq : s.queue n = q)
    (he : (!q.en || q.rerr || q.cidx == q.pidx) = false) (ha : s.commandAt n q.ctx q.headAddr = some w) (hj : s.judge n w = .take) :
    s.turnOf n = some w := by
  have hr : s.ready = [(n, bits (cw w 0) 4 2)] := by
    unfold State.ready
    rw [h]
    simp only [List.filterMap_cons, List.filterMap_nil, he, ha, hj, reduceCtorEq, Bool.false_eq_true, if_false]
  unfold State.turnOf State.nextQueue
  simp only [hr, List.foldl_cons, List.foldl_nil, if_true, hq, ha]

theorem judge_launchState : launchState.judge 3 aLaunch = .take := by
  refine judge_takes _ _ _ (by decide +kernel) (launchStatus_passes _ _ _ placedCtx (by decide +kernel) (by decide +kernel)
    (by decide +kernel) (by decide +kernel) (by decide +kernel) ?_) (by decide +kernel)
  rw [show cw aLaunch 11 = 0 by decide +kernel]
  exact readGroups_launchState

theorem witness_LaunchEvents_launch :
    launchState.turnOf 3 = some aLaunch ∧ launchState.judge 3 aLaunch = .take ∧ launchState.headGone 3 (.launchCommand 3) = false ∧
      launchState.ctx? (bits (cw aLaunch 0) 8 12) = some placedCtx ∧
      ((List.range 8).mapM (fun j => launchState.readLoop placedCtx ((cw aLaunch 1).setWidth 32) (cw aLaunch (12 + j)))).isSome = true ∧
      (launchState.readGroups placedCtx 0).isSome = true ∧ cw aLaunch 11 = 0 :=
  ⟨turnOf_only _ 3 (launchState.queue 3) _ (by decide +kernel) rfl (by decide +kernel) (by decide +kernel) judge_launchState,
    judge_launchState, by decide +kernel, by decide +kernel, by decide +kernel, readGroups_launchState, by decide +kernel⟩

theorem witness_LaunchEvents_teardown :
    let s := { issuing id with input := { Input.none with code := 1, unit := 1 } }
    s.input.code ≠ 0 ∧ (s.tearReady 1).map (fun v => v.spillsLeft (v.coresOf 1)) = some false ∧
      (s.modCore 0 (fun c => { c with stops := [{ scope := 0, byCore := none, sup := false, began := 0, complete := false }] })).tearReady 1 = none := by decide +kernel

theorem witness_LaunchEvents_seeding :
    let s := { issuing id with launches := [(1, oneLaunch)] }
    let l := oneLaunch
    let other := (s.modCore 0 (fun c => { c with owner := 2 }))
    let l2 := { l with preempted := [2] }
    s.launch? 1 = some l ∧ l.id = 1 ∧ (s.ctx? l.ctx).map (fun c => c.id) = some 1 ∧ l.seeded = false ∧ s.waitsPreempt l = false ∧
      (s.seedCores l).all (fun k => (s.core k).owner == 1) = true ∧ s.supsReady 1 (s.seedCores l) = true ∧ l.groups = [] ∧
      (s.seedCores l).all (fun k => (List.range l.nf).all (fun f => (s.frameAt k (l.frame k f)).isSome)) = true ∧ s.seedCores l ≠ [] ∧
      other.waitsPreempt l2 = true := by decide +kernel

/-- A state whose one launch is recorded and seeded, with no thread running it. -/
def endedLaunch : State :=
  { issuing (fun th => { th with st := .retired, task := { th.task with launch := 1 } }) with launches := [(1, { oneLaunch with seeded := true, rootsLeft := 0, tasks := 0, loops := [], dqs := [] })] }

theorem witness_LaunchEvents_ending :
    let s := endedLaunch
    let l := { oneLaunch with seeded := true, rootsLeft := 0, tasks := 0, loops := [], dqs := [] }
    s.launch? 1 = some l ∧ l.id = 1 ∧ l.seeded = true ∧ s.partSaved l = false ∧ l.ended = false ∧ s.workEnded l = true ∧ s.logLeft l = none ∧
      (s.threadsOf l).any (fun m => (s.thread m.1 m.2).stopped) = false ∧ (s.threadsOf l).all (fun m => s.settled m.1 m.2) = true ∧
      l.left.any s.underWay = false ∧ s.unexamined l = false ∧
      ((withCopy copyEntry).underWay (0, 0, copyEntry.id) = true) := by decide +kernel

/-- A deterministic context, with a request collected. -/
def detState (f : Ctx → Ctx) (g : Thread → Thread) : State :=
  { (issuing g).modCtx 1 (fun c => f { c with det := true }) with launches := [(1, { oneLaunch with seeded := true })] }

theorem witness_QuantumEnd :
    (let s := detState (fun c => { c with reqs := [{ core := 0, thr := 0, cont := freshCont }] }) (fun th => { th with st := .retired })
     (s.ctx? 1).map (fun c => c.id == 1 && c.det && c.kept.isEmpty && !c.stopping && s.inQuanta c && !c.reqs.isEmpty) = some true ∧
       (s.ctxThreads 1).any (fun m => s.opens m.1 m.2) = false) ∧
    (let s := detState id (fun th => { th with qlim := 10 })
     (s.ctx? 1).map (fun c => c.id == 1 && c.det && c.kept.isEmpty && !c.stopping && s.inQuanta c) = some true ∧
       (s.ctxThreads 1).any (fun m => s.opens m.1 m.2) = true) ∧
    (let s := detState (fun c => { c with stopping := true }) id
     (s.ctx? 1).map (fun c => c.id == 1 && c.det && c.kept.isEmpty && c.stopping && c.caught.isEmpty) = some true ∧
       (s.coresOf 1).Nodup ∧ (s.ctxThreads 1).any (fun m => (s.thread m.1 m.2).anyStop) = false) := by decide +kernel

theorem witness_PreemptionRestore :
    let s := (((issuing (fun _ => Thread.reset)).modCore 0 (fun c => { c with owner := 0 })).modCtx 1 (fun c =>
      { c with kept := [(0, Core.reset)], keptFor := [(0, 7)] })).putHeader 1 podScope
    (s.ctxs.filter (fun x => x.2.keptFor.any (fun y => y.2 == 7))).map Prod.fst = [1] ∧ s.launch? 7 = none ∧ s.agenda = [] ∧ s.busy 0 = false ∧
      s.launches.any (fun l => !l.2.seeded && inRect l.2.rect 0) = false ∧ (s.core 0).owner = 0 ∧ (s.restoreCores 1 [0]).isSome = true := by decide +kernel

theorem witness_StopSaveAndReadbackEvents_stops :
    (let s := (issuing (fun th => { th with isSup := true })).modCore 0 (fun c => { c with reports := [(59, 1)] })
     (s.core 0).reports = (59, 1) :: [] ∧ (s.core 0).repWait = [] ∧ (List.range 8).find? (fun i => (s.thread 0 i).isSup) = some 0 ∧
       (s.thread 0 0).intrap = false ∧ (s.thread 0 0).stopped = false ∧ (s.thread 0 0).held = none ∧ (s.thread 0 0).anyStop = false ∧
       (s.thread 0 0).st = .running ∧ (s.thread 0 0).classA = []) ∧
    (let s := issuing (fun th => { th with stopS := true })
     (s.thread 0 0).anyStop = true ∧ (s.thread 0 0).stopped = false ∧ s.mayStop 0 (s.thread 0 0) = true ∧ s.mustFinish 0 0 = false) ∧
    (let s := issuing (fun th => { th with stopS := true, grantB := true })
     (s.thread 0 0).anyStop = true ∧ (s.thread 0 0).stopped = false ∧ s.mustFinish 0 0 = true) ∧
    (let x : Stop := { scope := 0, byCore := none, sup := false, began := 0, complete := false }
     let s := (issuing (fun th => { th with stopF := true, stopped := true })).modCore 0 (fun c => { c with stops := [x] })
     (s.core 0).stops.find? (s.mayComplete 0) = some x ∧ s.coreQuiet 0 = true) ∧
    (let x : Stop := { scope := 0, byCore := none, sup := false, began := 0, complete := false }
     let s := (issuing (fun th => { th with stopF := true })).modCore 0 (fun c => { c with stops := [x] })
     (s.core 0).stops.all (fun x => x.complete) = false ∧ s.coreQuiet 0 = false) ∧
    (let s := issuing (fun th => { th with stopD := true, stopped := true, stepped := some (39, 0x10000) })
     (s.thread 0 0).stopD = true ∧ (s.thread 0 0).stopped = true ∧ s.accessesSettled 0 0 = true ∧ (s.thread 0 0).stepped = some (39, 0x10000)) := by
  decide +kernel

theorem witness_StopSaveAndReadbackEvents_saves :
    (let s := issuing (fun th => { th with stopped := true })
     (s.ctx? 1).isSome = true ∧ s.stopDone ((s.coresOf 1).filter (fun k => s.inScope s.input.word k)) = true ∧
       (s.coresOf 1).filter (fun k => s.inScope s.input.word k) = [0] ∧ (s.spillAll [0]).spillsLeft [0] = false) ∧
    (let s := (((issuing id).modCore 0 (fun c => { c with owner := 0 })).modCtx 1 (fun c =>
      { c with kept := [(0, Core.reset)], keptFor := [(0, 7)] })).putHeader 1 podScope
     (s.ctx? 1).map (fun c => c.keptFor) = some [(0, 7)] ∧ s.input.unit = 0 ∧ (s.core 0).owner = 0 ∧ (s.restoreCores 1 [0]).isSome = true) ∧
    (let s := issuing (fun th => { th with rba := 0x0200000000000000 })
     s.rbdRefused (s.thread 0 0).rba = false) ∧
    (issuing id).rbdRefused ((issuing id).thread 0 0).rba = true := by decide +kernel

theorem witness_TimeAndPowerEvents :
    (let s := { (issuing id).modCDie 127 (fun d => { d with errEst := 33 }) with input := { Input.none with die := .compute 127, code := 115 } }
     s.input.die = .compute 127 ∧ (s.cdie 127).sync = true ∧ 32 < (s.cdie 127).errEst ∧ 105 ≤ s.input.code ∧ 115 ≤ s.input.code) ∧
    ((issuing id).modCDie 127 (fun d => { d with sync := false })).cdie 127 = { CDie.reset with sync := false } ∧
    (let s := { issuing id with wref := 0x0010000000000010, clock := 64 }
     s.wref ≠ 0 ∧ s.refreshOpen = false ∧ timeBefore (s.time.toNat % 2 ^ 48) (bits s.wref 0 48) = false) ∧
    (let s := { issuing id with wref := 0x0010000000000010, clock := 64, refreshOpen := true }
     s.refreshOpen = true ∧ timeBefore (s.time.toNat % 2 ^ 48) ((bits s.wref 0 48 + bits s.wref 48 16) % 2 ^ 48) = false) ∧
    (State.reset.railsUp < 5 ∧ 0 < (issuing id).railsUp ∧ (issuing id).railsUp ≤ 5) ∧
    ((issuing id).bring = 0 ∧ 1 ≤ (issuing id).railsUp ∧ { issuing id with bring := 2 }.bring = 2) := by decide +kernel

theorem witness_ErrorAndRepairEvents :
    (let s := { issuing id with input := { Input.none with die := .compute 5, unit := 2, word := 9 } }
     s.input.die = .compute 5 ∧ s.input.unit = 2 ∧ s.input.word = 9) ∧
    ((issuing id).input.ok = true ∧ { Input.none with ok := false }.ok = false ∧ (issuing id).input.code = 0 ∧ (issuing id).input.unit = 0) ∧
    (let s := { issuing id with replacing := some (0, 9), input := { Input.none with port := 1, code := 1 } }
     s.replacing = some (0, 9) ∧ s.input.unit = 0 ∧ s.input.port = 1 ∧ s.input.code = 1 ∧ s.stopDone ((s.ctxsOn 0).flatMap s.coresOf) = true) ∧
    (let s := { issuing id with replacing := some (0, 9), input := { Input.none with port := 1, code := 2 } }
     s.replacing.isSome = true ∧ s.input.port = 1 ∧ s.input.code = 2) ∧
    (AMap.get? (issuing id).calib 63 = none ∧ 127 % 64 = 63) ∧
    (let s := { issuing id with input := { Input.none with ok := false, port := 35 } }
     s.wireOf s.input = some (.host 3) ∧ s.input.ok = false ∧ AMap.getD 0 s.retries (Wire.host 3).code < 15 ∧
       15 ≤ AMap.getD 0 (AMap.set s.retries (Wire.host 3).code 15) (Wire.host 3).code) ∧
    (let s := { issuing id with input := { Input.none with die := .compute 0, port := 1 } }
     s.wireOf s.input = some (.mesh (.compute 0) 1) ∧ s.input.ok = true) ∧
    (let s := { issuing id with input := { Input.none with die := .compute 0, port := 0 } }
     s.wireOf s.input = none) ∧
    ((issuing id).cdie 127).up = true := by decide +kernel

/-- A mailbox 0 with a request waiting; its first arguments. -/
def asking (l : List Word) : State :=
  { issuing id with boxq := [0], mailbox := State.reset.mailbox.set 0 { Mailbox.reset with args := l ++ List.replicate (8 - l.length) 0, busy := true } }

theorem witness_ServiceRequests_mailbox :
    (let s := { issuing id with bring := 10 }
     s.input.port = 0 ∧ (s.box 0).busy = false ∧ 10 ≤ s.bring ∧ bits s.input.word 12 52 = 0) ∧
    (let s := asking []
     s.input.who = .mailbox 0 ∧ s.input.code = 0 ∧ s.boxq.head? = some 0 ∧ s.readEntry ((s.box 0).args.getD 0 0) = none ∧
       s.ctx? (bits ((s.box 0).args.getD 0 0) 0 12) = none ∧ s.grantNamed = none ∧ ((s.box 0).args.getD 0 0).toNat < 64) := by decide +kernel

/-- The words of a context entry: number `id`, partition of die 0, home set of die 0, and the list of its panel. -/
def entryWords (id : Nat) : List Word := [BitVec.ofNat 64 id, 0, 0x2000, 1, 0x3000, 0x3000, 0x2040, 0, 0, 0, 0, 0, 0, 0, 0, 0]

/-- A request with such an entry at host address 0x1000, its home list at 0x2000, its panel mask at 0x2040. -/
def withEntryImage (id : Nat) : State :=
  ((asking [0x1000]).wrWords (physHost 0x1000) (entryWords id)).wr (physHost 0x2040) 1 1

theorem witness_ServiceRequests_entries :
    (let s := withEntryImage 2
     (s.readEntry 0x1000).map (fun c => (s.ctx? c.id).isNone && !(s.lacks c) && c.wins.isEmpty) = some true) ∧
    (let s := (withEntryImage 2).modMDie 0 (fun d => { d with up := false })
     (s.readEntry 0x1000).map (fun c => (s.ctx? c.id).isNone && s.lacks c) = some true) ∧
    (let s := (withEntryImage 1)
     (s.readEntry 0x1000).map (fun c => (s.ctx? c.id).isSome) = some true) ∧
    (let s := (withEntryImage 1).modCtx 1 (fun c => { c with lx0 := 0, ly0 := 0, lx1 := 0, ly1 := 0, root := 0, svimg := 0, hset := [0] })
     (s.readEntry 0x1000).bind (fun c => (s.ctx? c.id).map (fun old => old.id == c.id && old.rel7 == c.rel7 && old.pmax == c.pmax &&
       old.lx0 == c.lx0 && old.ly0 == c.ly0 && old.lx1 == c.lx1 && old.ly1 == c.ly1 && old.root == c.root && old.svimg == c.svimg &&
       old.hset == c.hset && c.wext.isEmpty && c.wins.isEmpty && old.wins.isEmpty)) = some true) := by decide +kernel

/-- A grant of context 2 over core 0, for context 1. -/
def aWindow : Window := { rect := 0, panel := 0, rd := true, wr := true, tctx := 2 }

/-- A request about that grant. -/
def withGrant (l : List Window) : State :=
  let s := (asking [0x1000, 1]).wr (physHost 0x1000) 8 (2 ^ 40 + 2 ^ 41 + 2 * 2 ^ 42)
  ({ s with ctxs := AMap.set s.ctxs 2 { placedCtx with id := 2 } }).modCtx 1 (fun c => { c with wins := l })

theorem witness_ServiceRequests_grants :
    (let s := withGrant []
     s.grantNamed = some (1, aWindow) ∧ (s.ctx? 1).map (fun c => decide (c.wins.length < 8)) = some true) ∧
    (let s := withGrant [aWindow]
     s.grantNamed = some (1, aWindow) ∧ (s.ctx? 1).map (fun c => decide (aWindow ∈ c.wins)) = some true) := by decide +kernel

theorem witness_ServiceRequests_weights :
    let s := (asking [135, 0, 32, 0x1000]).modCtx 1 (fun c => { c with wext := [{ die := 135, off := 0, len := 1 }] })
    let a := (s.box 0).args
    (a.getD 0 0).toNat < 136 ∧ (a.getD 1 0).toNat + (a.getD 2 0).toNat ≤ 2 ^ 31 ∧ (s.mdie (a.getD 0 0).toNat).up = true ∧
      s.ctxs.any (fun c => c.2.wext.any (fun e => e.holds (a.getD 0 0).toNat (a.getD 1 0).toNat (a.getD 2 0).toNat)) = true ∧
      (s.svcBytes (a.getD 3 0) (a.getD 2 0).toNat).isSome = true ∧ s.launches = [] := by decide +kernel

theorem witness_ServiceRequests_queues :
    (let s := (asking [127, 0x1000]).wrWords (physHost 0x1000) [0x100, 4, 0, 0, 0, 0, 0, 0]
     s.svcWords 0x1000 8 = some [0x100, 4, 0, 0, 0, 0, 0, 0] ∧ ((s.box 0).args.getD 0 0).toNat < 128 ∧ bits (0x100 : Word) 0 8 = 0 ∧
       bits (4 : Word) 0 5 = 4 ∧ bits (4 : Word) 22 42 = 0) ∧
    (let s := { asking [64, 1] with queues := [(64, { Queue.reset with ctx := 1, en := true })], bring := 10 }
     10 ≤ s.bring ∧ (s.queue 64).en = true ∧ ((s.box 0).args.getD 1 0).toNat = (1 : BitVec 32).toNat ∧ 0 < (1 - (s.queue 64).pidx).toNat ∧
       64 ≤ ((s.box 0).args.getD 0 0).toNat ∧ (s.ctx? (s.queue 64).ctx).isSome = true) ∧
    128 ≤ (((asking [128, 0x1000]).box 0).args.getD 0 0).toNat := by decide +kernel

theorem witness_ServiceRequests_later :
    (let s := { asking [] with input := { Input.none with code := 1, unit := 1, word := 2 ^ 40 + 2 * 2 ^ 42 } }
     s.input.who = .mailbox 0 ∧ s.input.code = 1 ∧ (s.tearReady 1).map (fun u => u.spillsLeft (u.coresOf 1)) = some false ∧
       (windowOf s.input.word 0).map (fun w => s.usesGrant s.input.unit w) = some false) := by decide +kernel

/-- A TRAP of thread 0 that asks for the good sectors of the page at VA 2^30, to VA 0x20000. -/
def sectorState : State :=
  let r : FwReq := { n := 8, args := [0x40000000, 0x20000, 0, 0, 0, 0, 0, 0], ans0 := 0 }
  let s := (issuing (fun th => { th with mode := .supervisor, st := .parked, park := .firmware, fwreq := some r })).modCDie 0
    (fun d => { d with fwq := [(0, 0)] })
  { s.modMDie 0 (fun d => { d with tlb := [Tlb.mk 0 1 0 30 0x8000011F, Tlb.mk 1 1 1 30 0xC000019F] }) with
    input := { Input.none with who := .thread 0 0 } }

theorem svcPlace_low (a : Word) (h : a.toNat < 2 ^ 30) : (sectorState.svcPlace .store a).isSome = true := by
  have h1 : isContextVa a = true := by simp [isContextVa, bits]; omega
  have h2 : tlbHits (Tlb.mk 0 1 0 30 0x8000011F) 1 a = true := by simp [tlbHits, bits]; omega
  have h3 : sectorState.leafOf placedCtx a = .leaf 0x8000011F 30 := by
    have : placedCtx.homeOf a = 0 := by simp [Ctx.homeOf, placedCtx, Nat.mod_one]
    have t : (sectorState.mdie 0).tlb = [Tlb.mk 0 1 0 30 0x8000011F, Tlb.mk 1 1 1 30 0xC000019F] := by decide +kernel
    simp only [State.leafOf, State.leafAt, this, t, List.find?_cons]
    rw [show placedCtx.id = 1 from rfl, h2]
  have h4 : sectorState.leafPhys placedCtx a 0x8000011F 30 = some (physLpddr (0x80000000 + a.toNat)) := by
    have e : bits a 0 30 = a.toNat := by simp [bits]; omega
    have e1 : bits (0x8000011F : Word) 8 2 = 1 := by decide
    have e2 : bits (0x8000011F : Word) 12 44 * 4096 = 0x80000000 := by decide
    unfold State.leafPhys
    simp only [e, e1, e2]
    rw [if_pos (by omega)]
  have h5 : leafCause 0x8000011F .supervisor .store = none := by decide
  have h6 : sectorState.ctxOfCore 0 = some placedCtx := by decide +kernel
  have h7 : sectorState.input.who = .thread 0 0 := by decide +kernel
  unfold State.svcPlace State.translate
  simp only [h7, h1, h6, h3, h5, h4]
  rfl

theorem witness_ServiceRequests_sectors :
    (sectorState.input.who = .thread 0 0 ∧ sectorState.input.code = 0 ∧
      (sectorState.thread 0 0).fwreq = some { n := 8, args := [0x40000000, 0x20000, 0, 0, 0, 0, 0, 0], ans0 := 0 } ∧
      (sectorState.cdie (dieOfCore 0)).fwq.find? (fun x => (sectorState.thread x.1 x.2).fwreq.isSome) = some (0, 0) ∧
      sectorState.ctx? (sectorState.core 0).owner = some placedCtx ∧ isContextVa 0x40000000 = true ∧ bits (0x40000000 : Word) 0 5 = 0 ∧
      sectorState.leafOf placedCtx 0x40000000 = .leaf 0xC000019F 30 ∧ bit (0xC000019F : Word) 7 = true) ∧
    ∀ i, i < 2048 → (sectorState.svcPlace .store (0x20000 + BitVec.ofNat 64 i)).isSome = true :=
  ⟨by decide +kernel, fun i h => svcPlace_low _ (by rw [BitVec.toNat_add]; simp; omega)⟩

theorem witness_AttestationRequests :
    (let s := { issuing id with input := { Input.none with unit := 141, ok := false, code := 0x11, pairs := [extAsym], pairs2 := [extHash] } }
     s.input.pairs.contains extAsym = true ∧ s.input.pairs2.contains extHash = true ∧ s.input.unit ≠ 0 ∧ 1 ≤ s.input.unit ∧ s.input.unit ≤ 141 ∧
       s.input.ok = false ∧ s.input.code = 0x11) ∧
    ((issuing id).input.pairs.contains extAsym = false ∧ (issuing id).input.unit = 0 ∧ { Input.none with code := 0x20 }.code = 0x20) := by
  decide +kernel

theorem witness_DecodeAndEncodeAgree :
    ((Bundle.pair (.addi 63 63 0x1FFF) (.vadd 31 31 31 7 .i64 3)).parts.all wellFormed = true ∧
      (encodeBundle (.pair (.addi 63 63 0x1FFF) (.vadd 31 31 31 7 .i64 3))).isSome = true) ∧
    (0x8027FFFFFFFFFFFE < 2 ^ 64 ∧ decodeBundle 0x8027FFFFFFFFFFFE = .ok (.long (.movl 9 0x3FFFFFFFFFFFE))) := by
  refine ⟨by decide +kernel, by decide, rfl⟩

/-- The panel about to run a bundle on core 0. -/
def fetching (w : Nat) : State := State.reset.withFetchWord 64 w

theorem witness_StepRunsTheDecodedInstruction :
    (let s := fetching 0x000000001028A345
     s.budget = 0 ∧ turnCore? s = some 0 ∧ s.clock % 8 = 0 ∧ s.pairTraps 0 0 = false ∧ s.offers 0 0 = true ∧ (s.thread 0 0).classA = [] ∧ s.buffering = false ∧
       (s.fetch 0 0).toOption = some 0x000000001028A345 ∧ s.fetchWaits 0 0 = false ∧
       (issueReq 0 0 s s).isNone = true ∧ (issueReq 0 0 s (withEntry { entry (.load 8 false) 0x0080000000008000 8 with seq := 5 })).isSome = true) ∧
    (let e : Event := { what := .scrub, input := Input.none }
     let s := { State.reset with budget := 1, agenda := [e] }
     0 < s.budget ∧ s.picks = [] ∧ s.agenda = e :: []) := by decide +kernel

theorem witness_RegistersReadWhatWasWritten :
    (63 : BitVec 6) ≠ 0 ∧ (1 : BitVec 6) ≠ 63 ∧ (7 : BitVec 3) ≠ 0 ∧ (0 : BitVec 3) ≠ 7 ∧ 60 ≤ (60 : BitVec 6).toNat ∧ Mode.user ≠ .firmware := by
  decide

theorem memInv_fetching : (fetching 0x000000001028A345).memInv := by unfold State.memInv; decide +kernel

theorem witness_StepKeepsMemoryCanonical :
    (fetching 0x000000001028A345).memInv ∧ (match step (fetching 0x000000001028A345) with | .next _ => true | _ => false) = true :=
  ⟨memInv_fetching, by decide +kernel⟩

/-! ### Words and refused terms -/

/-- A bundle's word decodes to it. -/
def decodesTo (x : Nat × Bundle) : Bool := (decodeBundle x.1).toOption == some x.2

/-- Slot A words by 02 R39 and 03 R74 to R78: the scalar groups. -/
theorem test_words_slotA_1 : [
    (0x0000000003F83000, .pair (.add 63 1 32) .nop),
    (0x0000000003F83001, .pair (.sub 63 1 32) .nop),
    (0x0000000003F83002, .pair (.and 63 1 32) .nop),
    (0x0000000003F83003, .pair (.or 63 1 32) .nop),
    (0x0000000003F83004, .pair (.xor 63 1 32) .nop),
    (0x0000000003F83005, .pair (.andn 63 1 32) .nop),
    (0x0000000003F83006, .pair (.orn 63 1 32) .nop),
    (0x0000000003F83007, .pair (.sll 63 1 32) .nop),
    (0x0000000003F83008, .pair (.srl 63 1 32) .nop),
    (0x0000000003F83009, .pair (.sra 63 1 32) .nop),
    (0x0000000003F8300A, .pair (.ror 63 1 32) .nop),
    (0x0000000003F8300B, .pair (.slt 63 1 32) .nop),
    (0x0000000003F8300C, .pair (.sltu 63 1 32) .nop),
    (0x0000000003F8300D, .pair (.seq 63 1 32) .nop),
    (0x0000000003F8300E, .pair (.sne 63 1 32) .nop),
    (0x0000000003F8300F, .pair (.min 63 1 32) .nop),
    (0x0000000003F83010, .pair (.max 63 1 32) .nop),
    (0x0000000003F83011, .pair (.minu 63 1 32) .nop),
    (0x0000000003F83012, .pair (.maxu 63 1 32) .nop),
    (0x0000000003F83013, .pair (.addw 63 1 32) .nop),
    (0x0000000003F83014, .pair (.subw 63 1 32) .nop),
    (0x0000000003F83015, .pair (.sllw 63 1 32) .nop),
    (0x0000000003F83016, .pair (.srlw 63 1 32) .nop),
    (0x0000000003F83017, .pair (.sraw 63 1 32) .nop),
    (0x000000000507E080, .pair (.mul 32 63 1) .nop),
    (0x000000000507E081, .pair (.mulh 32 63 1) .nop),
    (0x000000000507E082, .pair (.mulhu 32 63 1) .nop),
    (0x000000000507E083, .pair (.mulhsu 32 63 1) .nop),
    (0x000000000507E084, .pair (.mulw 32 63 1) .nop),
    (0x000000000507E085, .pair (.div 32 63 1) .nop),
    (0x000000000507E086, .pair (.divu 32 63 1) .nop),
    (0x000000000507E087, .pair (.rem 32 63 1) .nop),
    (0x000000000507E088, .pair (.remu 32 63 1) .nop),
    (0x000000000507E089, .pair (.divw 32 63 1) .nop),
    (0x000000000507E08A, .pair (.divuw 32 63 1) .nop),
    (0x000000000507E08B, .pair (.remw 32 63 1) .nop),
    (0x000000000507E08C, .pair (.remuw 32 63 1) .nop),
    (0x00000000060FE000, .pair (.clz 1 63) .nop),
    (0x00000000060FE001, .pair (.ctz 1 63) .nop),
    (0x00000000060FE002, .pair (.popc 1 63) .nop),
    (0x00000000060FE003, .pair (.brev 1 63) .nop),
    (0x00000000060FE004, .pair (.bswap 1 63) .nop),
    (0x00000000060FE005, .pair (.sxb 1 63) .nop),
    (0x00000000060FE006, .pair (.sxh 1 63) .nop),
    (0x00000000060FE007, .pair (.sxw 1 63) .nop),
    (0x00000000060FE008, .pair (.zxh 1 63) .nop),
    (0x00000000060FE009, .pair (.zxw 1 63) .nop),
    (0x00000000060FF00A, .pair (.lea1 1 63 32) .nop),
    (0x00000000060FF00B, .pair (.lea2 1 63 32) .nop),
    (0x00000000060FF00C, .pair (.lea3 1 63 32) .nop),
    (0x00000000060FF00D, .pair (.lea4 1 63 32) .nop),
    (0x000000001028DFFE, .pair (.addi 5 6 0x1FFE) .nop),
    (0x000000001228DFFE, .pair (.andi 5 6 0x1FFE) .nop),
    (0x000000001428DFFE, .pair (.ori 5 6 0x1FFE) .nop)].all decodesTo = true := by decide +kernel

/-- Slot A words by 02 R39 and 03 R74 to R78: control, memory and atomics. -/
theorem test_words_slotA_2 : [
    (0x000000001628DFFE, .pair (.xori 5 6 0x1FFE) .nop),
    (0x000000001828DFFE, .pair (.slti 5 6 0x1FFE) .nop),
    (0x000000001A28DFFE, .pair (.sltiu 5 6 0x1FFE) .nop),
    (0x000000001C28C03F, .pair (.slli 5 6 63) .nop),
    (0x000000001E28C03F, .pair (.srli 5 6 63) .nop),
    (0x000000002028C03F, .pair (.srai 5 6 63) .nop),
    (0x000000002228CFFF, .pair (.addiw 5 6 4095) .nop),
    (0x00000000242FFFFF, .pair (.lui 5 0x7FFFF) .nop),
    (0x00000000262C0000, .pair (.addpc 5 0x40000) .nop),
    (0x0000000030391FFD, .pair (.beq 7 8 0x1FFD) .nop),
    (0x0000000032391FFD, .pair (.bne 7 8 0x1FFD) .nop),
    (0x0000000034391FFD, .pair (.blt 7 8 0x1FFD) .nop),
    (0x0000000036391FFD, .pair (.bge 7 8 0x1FFD) .nop),
    (0x0000000038391FFD, .pair (.bltu 7 8 0x1FFD) .nop),
    (0x000000003A391FFD, .pair (.bgeu 7 8 0x1FFD) .nop),
    (0x000000003DF80003, .pair (.jal 63 3) .nop),
    (0x000000003FF93FFF, .pair (.jalr 63 9 0x1FFF) .nop),
    (0x000000004000A000, .pair (.throw 5) .nop),
    (0x0000000042000000, .pair (.endThread) .nop),
    (0x0000000044000FFF, .pair (.svc 4095) .nop),
    (0x0000000050189FFB, .pair (.ldb 3 4 0x1FFB) .nop),
    (0x0000000052189FFB, .pair (.ldbu 3 4 0x1FFB) .nop),
    (0x0000000054189FFB, .pair (.ldh 3 4 0x1FFB) .nop),
    (0x0000000056189FFB, .pair (.ldhu 3 4 0x1FFB) .nop),
    (0x0000000058189FFB, .pair (.ldw 3 4 0x1FFB) .nop),
    (0x000000005A189FFB, .pair (.ldwu 3 4 0x1FFB) .nop),
    (0x000000005C189FFB, .pair (.ldd 3 4 0x1FFB) .nop),
    (0x000000005FF09FFB, .pair (.ldq 62 4 0x1FFB) .nop),
    (0x0000000060189FFB, .pair (.stb 3 4 0x1FFB) .nop),
    (0x0000000062189FFB, .pair (.sth 3 4 0x1FFB) .nop),
    (0x0000000064189FFB, .pair (.stw 3 4 0x1FFB) .nop),
    (0x0000000066189FFB, .pair (.std 3 4 0x1FFB) .nop),
    (0x0000000069F09FFB, .pair (.stq 62 4 0x1FFB) .nop),
    (0x000000006AF88001, .pair (.vld 31 4 1) .nop),
    (0x000000006CF88001, .pair (.vst 31 4 1) .nop),
    (0x000000006EF89086, .pair (.vldx 31 4 33 3) .nop),
    (0x000000006EF88F03, .pair (.vldxIx 31 4 30 1) .nop),
    (0x0000000070F89084, .pair (.vstx 31 4 33 2) .nop),
    (0x0000000070F88F01, .pair (.vstxIx 31 4 30 0) .nop),
    (0x0000000072188006, .pair (.sto 3 4 6) .nop),
    (0x0000000074188006, .pair (.ldf 3 4 6) .nop),
    (0x0000000076188006, .pair (.ldfe 3 4 6) .nop),
    (0x0000000078188006, .pair (.stff 3 4 6) .nop),
    (0x000000007A188006, .pair (.stef 3 4 6) .nop),
    (0x000000007C188000, .pair (.feqry 3 4) .nop),
    (0x000000007C008001, .pair (.feset 4) .nop),
    (0x000000007C008002, .pair (.feclr 4) .nop),
    (0x0000000080114280, .pair (.amo 2 10 5 false false .add) .nop),
    (0x00000000801142C1, .pair (.amo 2 10 5 true false .and) .nop),
    (0x0000000080114282, .pair (.amo 2 10 5 false false .or) .nop),
    (0x00000000801142C3, .pair (.amo 2 10 5 true false .xor) .nop),
    (0x0000000080114284, .pair (.amo 2 10 5 false false .min) .nop),
    (0x00000000801142C5, .pair (.amo 2 10 5 true false .max) .nop),
    (0x0000000080114286, .pair (.amo 2 10 5 false false .minu) .nop)].all decodesTo = true := by decide +kernel

/-- Slot A words by 02 R39 and 03 R74 to R78: order, tasks and system forms. -/
theorem test_words_slotA_3 : [
    (0x00000000801142C7, .pair (.amo 2 10 5 true false .maxu) .nop),
    (0x0000000080114288, .pair (.amo 2 10 5 false false .swap) .nop),
    (0x00000000801142C9, .pair (.amo 2 10 5 true false .fadd) .nop),
    (0x000000008011428A, .pair (.amo 2 10 5 false false .fmin) .nop),
    (0x00000000801142CB, .pair (.amo 2 10 5 true false .fmax) .nop),
    (0x000000008011428C, .pair (.amo 2 10 5 false false .bfadd) .nop),
    (0x00000000801142A8, .pair (.amo 2 10 5 false true .swap) .nop),
    (0x0000000082114340, .pair (.cas 2 10 6 true .w) .nop),
    (0x0000000082114301, .pair (.cas 2 10 6 false .d) .nop),
    (0x0000000082114302, .pair (.cas 2 10 6 false .q) .nop),
    (0x00000000840142E9, .pair (.rupd 10 5 true true .fadd) .nop),
    (0x0000000087C12047, .pair (.msgapp 56 9 true 7) .nop),
    (0x0000000089E00003, .pair (.msgtake 60 3) .nop),
    (0x0000000090028A84, .pair (.fence 20 21 false true .acq) .nop),
    (0x0000000090028A89, .pair (.fence 20 21 true false .rel) .nop),
    (0x0000000090028A86, .pair (.fence 20 21 false true .acqrel) .nop),
    (0x0000000090028A8B, .pair (.fence 20 21 true false .seq) .nop),
    (0x000000009201458F, .pair (.rtset 10 11 15) .nop),
    (0x0000000094014001, .pair (.rtdesc 10 1) .nop),
    (0x0000000096000000, .pair (.fencei) .nop),
    (0x0000000098014581, .pair (.clean 10 11 true) .nop),
    (0x0000000098014580, .pair (.clean 10 11 false) .nop),
    (0x000000009A095FFF, .pair (.pref true 10 0x1FFF) .nop),
    (0x00000000A027FFF6, .pair (.spawn 4 0x7FFF6) .nop),
    (0x00000000A220A000, .pair (.spawnr 4 5) .nop),
    (0x00000000A4480000, .pair (.sync 9) .nop),
    (0x00000000A6024980, .pair (.publ 18 19) .nop),
    (0x00000000A8000000, .pair (.tret) .nop),
    (0x00000000AA294000, .pair (.ticket 5 10) .nop),
    (0x00000000AC014580, .pair (.donate 10 11) .nop),
    (0x00000000AE008000, .pair (.bar 4) .nop),
    (0x00000000B0188000, .pair (.bart 3 4) .nop),
    (0x00000000B2014280, .pair (.chsend 10 5) .nop),
    (0x00000000B4314000, .pair (.chrecv 6 10) .nop),
    (0x00000000B6194281, .pair (.waitw 3 10 5 true) .nop),
    (0x00000000B6194280, .pair (.waitw 3 10 5 false) .nop),
    (0x00000000B8000000, .pair (.yield) .nop),
    (0x00000000BA00C0FF, .pair (.semw 6 255) .nop),
    (0x00000000BC00E080, .pair (.sems 7 128) .nop),
    (0x00000000BE500000, .pair (.drnwait 10) .nop),
    (0x00000000C0014000, .pair (.drnput 10) .nop),
    (0x00000000D0280100, .pair (.getc 5 0x100) .nop),
    (0x00000000D200DFFF, .pair (.putc 6 0x1FFF) .nop),
    (0x00000000D4000005, .pair (.trap 5) .nop),
    (0x00000000D6000000, .pair (.kret) .nop),
    (0x00000000D8014583, .pair (.xinv 10 11 3) .nop),
    (0x00000000D8018005, .pair (.xinvCtx 12 1) .nop),
    (0x00000000DA012000, .pair (.rlatch 9) .nop),
    (0x00000000DC014000, .pair (.gstop 10) .nop),
    (0x00000000DE014000, .pair (.gresume 10) .nop),
    (0x00000000E0016000, .pair (.dbgstep 11) .nop)].all decodesTo = true := by decide +kernel

/-- Slot B words by 02 R42, R43 and 03 R79 to R82. -/
theorem test_words_slotB : [
    (0x03F0C39200000000, .pair .nop (.vadd 31 1 16 7 .i16 2)),
    (0x05F0C3F000000000, .pair .nop (.vsub 31 1 16 7 .f64 0)),
    (0x07F0C38300000000, .pair .nop (.vmul 31 1 16 7 .i8 3)),
    (0x09F0C3E000000000, .pair .nop (.vfma 31 1 16 7 .f32)),
    (0x0BF0C3B100000000, .pair .nop (.vmin 31 1 16 7 .i64 1)),
    (0x0DF0C3D000000000, .pair .nop (.vmax 31 1 16 7 .bf16 0)),
    (0x0FF083A200000000, .pair .nop (.vabs 31 1 7 .i32 2)),
    (0x11F083C000000000, .pair .nop (.vneg 31 1 7 .f16 0)),
    (0x13F0C3B000000000, .pair .nop (.vand 31 1 16 7 .i64)),
    (0x15F0C38000000000, .pair .nop (.vor 31 1 16 7 .i8)),
    (0x17F0C39000000000, .pair .nop (.vxor 31 1 16 7 .i16)),
    (0x19F0C3A000000000, .pair .nop (.vshl 31 1 16 7 .i32)),
    (0x1BF0C3B100000000, .pair .nop (.vshr 31 1 16 7 .i64 1)),
    (0x1C70C1AD00000000, .pair .nop (.vcmp 7 1 16 3 .i32 13)),
    (0x1FF0C3E000000000, .pair .nop (.vsel 31 1 16 7 .f32)),
    (0x21F0DFCD00000000, .pair .nop (.vcvt 31 1 23 7 .f16 13)),
    (0x23F0838700000000, .pair .nop (.vred 31 1 7 .i8 7)),
    (0x25F0C3A000000000, .pair .nop (.vperm 31 1 16 7 .i32)),
    (0x27F283E000000000, .pair .nop (.vbcs 31 5 7 .f32)),
    (0x29F0C39100000000, .pair .nop (.vext 31 1 16 7 .i16 1)),
    (0x2BF0038000000000, .pair .nop (.viota 31 7 .i8)),
    (0x2DF0C3F000000000, .pair .nop (.vscale 31 1 16 7 .f64)),
    (0x2FF083D000000000, .pair .nop (.vmov 31 1 7 .bf16)),
    (0x31F0C3A100000000, .pair .nop (.vdiv 31 1 16 7 .i32 1)),
    (0x33F083E000000000, .pair .nop (.vsqrt 31 1 7 .f32)),
    (0x39F083DA00000000, .pair .nop (.sfr 31 1 7 .bf16 10)),
    (0x41F303E000000000, .pair .nop (.vpop 31 6 7 .f32)),
    (0x426F838000000000, .pair .nop (.vpush 6 31 7 .i8)),
    (0x51F0C00100000000, .pair .nop (.mma 31 1 16 ⟨true, false, false⟩)),
    (0x53F0C38200000000, .pair .nop (.mmas 31 1 16 7 ⟨false, true, false⟩)),
    (0x55F0C00C00000000, .pair .nop (.mmag 31 1 16 true ⟨false, false, true⟩)),
    (0x57F0C00000000000, .pair .nop (.mmaw 31 1 16 ⟨false, false, false⟩)),
    (0x59F0000000000000, .pair .nop (.tzero 31)),
    (0x5BF0C38000000000, .pair .nop (.trowv 31 1 16 7)),
    (0x5DF0C38000000000, .pair .nop (.tvrow 31 1 16 7))].all decodesTo = true := by decide +kernel

/-- Long forms by 02 R44, R45 and 03 R83. -/
theorem test_words_long : [
    (0x8027FFFFFFFFFFFE, .long (.movl 9 0x3FFFFFFFFFFFE)),
    (0x81FC000000010000, .long (.ljal 63 0x10000)),
    (0x907FFFA070B28C03, .long (.cpy ⟨0xFF, 0xFE, 0x81, 0xC⟩ 11 10 12 true true)),
    (0x90BFFFA070B2400E, .long (.cpyr ⟨0xFF, 0xFE, 0x81, 0xC⟩ 11 9 0 .max true true false)),
    (0x90BFFFA070B24111, .long (.cpyr ⟨0xFF, 0xFE, 0x81, 0xC⟩ 11 9 1 .min false false true)),
    (0x90FFFFA070000000, .long (.cbatch ⟨0xFF, 0xFE, 0x81, 0xC⟩)),
    (0x913FFFA071400000, .long (.cwait ⟨0xFF, 0xFE, 0x81, 0xC⟩ 20)),
    (0x917FFFA070A2C00A, .long (.sbind ⟨0xFF, 0xFE, 0x81, 0xC⟩ 10 11 2 true)),
    (0x91BFFFA070000007, .long (.sunbind ⟨0xFF, 0xFE, 0x81, 0xC⟩ 7)),
    (0x91FFFFA070A30034, .long (.tld ⟨0xFF, 0xFE, 0x81, 0xC⟩ 10 12 20 true false)),
    (0x923FFFA070A3003F, .long (.tst ⟨0xFF, 0xFE, 0x81, 0xC⟩ 10 12 31 true)),
    (0x927FFFA070A30D14, .long (.tldw ⟨0xFF, 0xFE, 0x81, 0xC⟩ 10 12 13 20)),
    (0x92BFFFA070210604, .long (.mmal ⟨0xFF, 0xFE, 0x81, 0xC⟩ 2 4 6 ⟨false, false, true⟩))].all decodesTo = true := by decide +kernel

/-- The words of the spec's worked lines (00, 02 R36, 03 R87, 04, 07, 09, 10, 11, 13, 14), each at the line it stands on. -/
theorem test_worked_words : [
    (0x0000000002182100, .pair (.add 3 1 2) .nop), (0x022084606A088000, .pair (.vld 1 4 0) (.vadd 2 1 1 0 .f32 0)),
    (0x00000000D0280001, .pair (.getc 5 1) .nop), (0x00000000D200C004, .pair (.putc 6 4) .nop),
    (0x000000000228C003, .pair (.or 5 6 0) .nop), (0x000000003E07E000, .pair (.jalr 0 63 0) .nop),
    (0x0000000034206005, .pair (.blt 4 3 5) .nop), (0x000000003DFFFFF0, .pair (.jal 63 0x7FFF0) .nop),
    (0x801C0000000186A0, .long (.movl 7 100000)), (0x000000003FF92000, .pair (.jalr 63 9 0) .nop),
    (0x2071946000000000, .pair .nop (.vcvt 7 3 5 0 .f32 0)),
    (0x0230881200000000, .pair .nop (.vadd 3 1 2 0 .i16 2)), (0x084298E000000000, .pair .nop (.vfma 4 5 6 1 .f32)),
    (0x2149B86800000000, .pair .nop (.vcvt 20 19 14 0 .f32 8)), (0x4101006000000000, .pair .nop (.vpop 16 2 0 .f32)),
    (0x5022180000000000, .pair .nop (.mma 2 4 6 ⟨false, false, false⟩)), (0x9281408184210600, .long (.mmal ⟨5, 2, 6, 1⟩ 2 4 6 ⟨false, false, false⟩)),
    (0x5201118000000000, .pair .nop (.mmas 0 2 4 3 ⟨false, false, false⟩)), (0x5485300800000000, .pair .nop (.mmag 8 10 12 true ⟨false, false, false⟩)),
    (0x5A22A48000000000, .pair .nop (.trowv 2 5 9 1)), (0x0000000080114289, .pair (.amo 2 10 5 false false .fadd) .nop),
    (0x0000000082114181, .pair (.cas 2 10 3 false .d) .nop), (0x0000000086812001, .pair (.msgapp 16 9 false 1) .nop),
    (0x0000000090028A81, .pair (.fence 20 21 false false .rel) .nop), (0x90400000C4B28C01, .long (.cpy ⟨0, 0, 3, 1⟩ 11 10 12 true false)),
    (0x9080000000B2400C, .long (.cpyr ⟨0, 0, 0, 0⟩ 11 9 0 .sum true true false)), (0x9140000000A2C002, .long (.sbind ⟨0, 0, 0, 0⟩ 10 11 2 false)),
    (0x92400001C4A30D14, .long (.tldw ⟨0, 0, 7, 1⟩ 10 12 13 20)), (0x00000000A007FFF6, .pair (.spawn 0 0x7FFF6) .nop),
    (0x00000000D8018004, .pair (.xinvCtx 12 0) .nop)].all decodesTo = true := by decide +kernel

/-- Encodings that 03 R84 gives a fate: reserved class, op, fn, eop and format, and fields outside their limits (R76 to R83). -/
theorem test_reserved_words :
    [0xA000000000000000, 0xF000000000000000].all (fun w => decodeBundle w matches .error .illegalBundle) = true ∧
    [0x0000000008000000, 0x0000000002000018, 0x000000008000000D, 0x000000008000002C, 0x0000000082000003].all
      (fun w => decodeBundle w matches .error (.illegalOp 0)) = true ∧
    [0x3400000000000000, 0x0200004400000000, 0x2000600000000000].all (fun w => decodeBundle w matches .error (.illegalOp 1)) = true ∧
    [0x8200000000000000, 0x9000000000000000, 0x92C0000000000000].all (fun w => decodeBundle w matches .error (.illegalOp 2)) = true ∧
    [0x000000001C000040, 0x000000005E080000, 0x000000006B000000, 0x0000000044001000, 0x0000000087F80001, 0x0000000092000000,
      0x00000000D0000013, 0x00000000D0000105, 0x0000000006000080].all (fun w => decodeBundle w matches .error (.reservedField 0)) = true ∧
    [0x0000000100000000, 0x1C80000000000000, 0x2600040000000000, 0x4104000000000000, 0x5800008000000000, 0x0000000144000000].all
      (fun w => decodeBundle w matches .error (.reservedField 1)) = true ∧
    [0x9080000000000003, 0x90C0000000000001].all (fun w => decodeBundle w matches .error (.reservedField 2)) = true := by decide +kernel

/-- An ill-formed term for each check is refused. -/
theorem test_ill_formed :
    [Instr.svc 4096, .trap 4096, .ldq 1 0 0, .stq 63 0 0, .amo 1 2 3 false true .bfadd, .rupd 1 2 false true .bfadd, .cas 1 2 4 false .q,
      .cas 2 2 3 false .q, .msgapp 57 0 false 7, .msgtake 63 1, .rtset 1 2 0, .rtdesc 1 0, .getc 1 0x13, .putc 1 0x105,
      .vadd 0 0 0 0 .i8 4, .vsub 0 0 0 0 .f32 1, .vmul 0 0 0 0 .f64 2, .vmin 0 0 0 0 .i8 2, .vmax 0 0 0 0 .f16 1, .vdiv 0 0 0 0 .i64 2,
      .vabs 0 0 0 .i8 1, .vneg 0 0 0 .bf16 2, .vand 0 0 0 0 .f32, .vor 0 0 0 0 .f16, .vxor 0 0 0 0 .bf16, .vshl 0 0 0 0 .f64, .viota 0 0 .f32,
      .vshr 0 0 0 0 .i8 2, .vshr 0 0 0 0 .f32 0, .vcmp 0 0 0 0 .i8 6, .vcmp 0 0 0 0 .f32 8, .vcmp 0 0 0 0 .i8 14, .vext 0 0 0 0 .i8 2,
      .vscale 0 0 0 0 .i32, .vsqrt 0 0 0 .i8, .vcvt 0 0 24 0 .f32 0, .vcvt 0 0 0 0 .f32 6, .vcvt 0 0 0 0 .f32 15, .vred 0 0 0 .f32 3,
      .vred 0 0 0 .i8 8, .sfr 0 0 0 .f64 0, .sfr 0 0 0 .i32 0, .sfr 0 0 0 .f32 11].all (fun i => !(wellFormed i)) = true := by decide +kernel

theorem test_ill_formed_events :
    [Instr.loadResultArrival 16384 0 0, .accessCompletion 0 8 0, .accessHeld 0 0 0 64, .remoteTimeout 0 0 65536, .sfrRequestIntake 1024 0,
      .sfrRequestIntake 0 2, .streamRefill 0 0 8, .copyCommandStart 16384, .copyEngineFault 0 0 64 0, .feWaitTry 0 32768, .barrierPhaseComplete 0 256,
      .launchCommand 128, .quantumEnd 4096, .cairn (.port (.compute 128) 0), .cairn (.port (.memory 136) 0), .watermarkStall (.port (.compute 0) 6),
      .cairn (.inject 16384 0), .homeReadRequest 1024 0 0, .translationWalk 4096 0, .contextSave 4096].all (fun i => !(wellFormed i)) = true := by
  decide +kernel

/-- What a form leaves, where it answers a next state. -/
def after {α : Type} (i : Instr) (s : State) (f : State → α) : Option α := match exec i s with | .next t => some (f t) | _ => none

/-- A thread with two scalar registers set, at a pc. -/
def scalars (pc : Word) (a : BitVec 6) (x : Word) (b : BitVec 6) (y : Word) : State :=
  issuing (fun th => { (th.writeS a x).writeS b y with pc := pc })

/-- The scalar worked lines of 04: their registers. -/
theorem test_scalar_results :
    after (.sraw 4 5 6) (scalars 0 5 0x80000010 6 0x44) (fun t => t.th.readS 4) = some 0xFFFFFFFFF8000001 ∧
    after (.div 3 1 2) (scalars 0 1 0x8000000000000000 2 0xFFFFFFFFFFFFFFFF) (fun t => t.th.readS 3) = some 0x8000000000000000 ∧
    after (.divu 3 1 0) (scalars 0 1 0x2A 2 0) (fun t => t.th.readS 3) = some 0xFFFFFFFFFFFFFFFF ∧
    after (.lea3 7 8 9) (scalars 0 8 0x0080000000001000 9 5) (fun t => t.th.readS 7) = some 0x0080000000001028 ∧
    after (.clz 4 5) (scalars 0 5 0x10000 6 0) (fun t => t.th.readS 4) = some 0x2F ∧
    after (.sltiu 3 4 0x1FFF) (scalars 0 4 5 5 0) (fun t => t.th.readS 3) = some 1 ∧
    after (.lui 5 0x12) (scalars 0 1 0 2 0) (fun t => t.th.readS 5) = some 0x24000 ∧
    after (.addi 5 5 0x345) (scalars 0 5 0x24000 6 0) (fun t => t.th.readS 5) = some 0x24345 ∧
    after (.addpc 6 4) (scalars 0x10000 1 0 2 0) (fun t => t.th.readS 6) = some 0x10020 ∧
    after (.movl 9 0x3FFFFFFFFFFFE) (scalars 0 1 0 2 0) (fun t => t.th.readS 9) = some 0xFFFFFFFFFFFFFFFE ∧
    after (.srlw 3 1 2) (scalars 0 1 0x80000000 2 0) (fun t => t.th.readS 3) = some 0xFFFFFFFF80000000 := by decide +kernel

/-- The control worked lines of 04. -/
theorem test_control_results :
    after (.bltu 1 2 3) (scalars 0x10000 1 1 2 0xFFFFFFFFFFFFFFFF) (fun t => t.th.pc) = some 0x10018 ∧
    after (.jalr 63 9 0) (scalars 0x20000 9 0x30040 1 0) (fun t => (t.th.readS 63, t.th.pc)) = some (0x20008, 0x30040) ∧
    after (.ljal 63 0x10000) (scalars 0x40000 1 0 2 0) (fun t => (t.th.readS 63, t.th.pc)) = some (0x40008, 0xC0000) ∧
    after (.throw 5) (issuing (fun th => { th.writeS 5 7 with xh := 0x12340 })) (fun t => (t.th.xv, t.th.xh, t.th.pc)) = some (7, 0, 0x12340) ∧
    after (.svc 300) (scalars 0x50000 1 0 2 0) (fun t => (t.th.kcause, t.th.kval, t.th.kepc)) = some (0x25, 300, 0x50000) := by decide +kernel

/-- Vectors of one register, element 0 least significant. -/
def vecs (a : BitVec 5) (x : Nat) (b : BitVec 5) (y : Nat) : State :=
  issuing (fun th => (th.writeV a (BitVec.ofNat 1024 x)).writeV b (BitVec.ofNat 1024 y))

/-- The vector worked lines of 06. -/
theorem test_vector_results :
    after (.vadd 3 1 2 0 .i16 2) (vecs 1 0x000580007FF0 2 0xFFFEFFFF0020) (fun t => (t.th.readV 3).toNat) = some 0x000380007FFF ∧
    after (.vdiv 13 1 2 0 .i32 0) (vecs 1 0x800000000000000500000007 2 0xFFFFFFFF00000000FFFFFFFE) (fun t => (t.th.readV 13).toNat % 2 ^ 96) =
      some 0x80000000FFFFFFFFFFFFFFFD ∧
    after (.vsqrt 14 1 0 .f32) (vecs 1 0xC08000008000000040000000 2 0) (fun t => ((t.th.readV 14).toNat % 2 ^ 96, t.th.fpf)) =
      some (0x7FC00000800000003FB504F3, 0x11) ∧
    after (.vscale 12 1 2 0 .f32) (vecs 1 0x3F8000003F8000003FC00000 2 0x000000C8FFFFFF6A00000003) (fun t => (t.th.readV 12).toNat % 2 ^ 96) =
      some 0x7F8000000000000041400000 ∧
    after (.vext 6 3 7 0 .i16 0) (issuing (fun th => (th.writeV 3 (BitVec.ofNat 1024 0x80010000)).writeS 7 0x41)) (fun t => t.th.readS 6) =
      some 0xFFFFFFFFFFFF8001 := by decide +kernel

theorem test_vector_masks :
    after (.vcmp 2 1 2 0 .f32 2) (vecs 1 0x800000007FC000003F800000 2 0x000000003F80000040000000) (fun t => ((t.th.readQ 2).toNat, t.th.fpf)) =
      some (0xF, 0x01) ∧
    after (.viota 11 3 .i8) (issuing (fun th => { th.writeQ 3 0x8D with v := th.v.set 11 (BitVec.allOnes 1024) }))
      (fun t => (t.th.readV 11).toNat % 2 ^ 64) = some 0x03FFFFFF0201FF00 ∧
    after (.vcvt 7 3 5 0 .f32 0) (vecs 3 0x7FC0000043E800003DCCCCCD 4 0) (fun t => ((t.th.readV 7).toNat, t.th.fpf)) = some (0x7F7E1D, 0x10) := by
  decide +kernel

/-- A 64-bit AMO.ADD performed on x = 0x29 with operand 1 (09, worked line), and a byte pattern stored low byte first (08 R208). -/
theorem test_memory_results :
    after (.nearMemoryAtomic 0 0) ((issuing (fun th => { th with latch := some { latched 0x20010 with slots := [] } })).wr 0x80020010 8 0x29)
      (fun t => (t.rd 0x80020010 8, (t.thread 0 0).latch.bind (fun l => l.answer))) = some (0x2A, some 0x29) ∧
    after (.loadResultArrival 0 0 0) ((withEntry aLoad).wr 0x80020010 4 0xFFFFFFFE) (fun t => t.th.readS 4) = some 0xFFFFFFFFFFFFFFFE ∧
    after (.accessCompletion 0 0 0) (withEntry aStore) (fun t => Memory.get t.mem 0x80020010) = some 0xFF := by decide +kernel

/-- One step fetches the bundle at the pc, runs it, and stops at the next bundle (02 R30). -/
theorem test_step :
    (match step (fetching 0x000000001028A345) with
     | .next t => some ((t.thread 0 0).readS 5, (t.thread 0 0).pc)
     | _ => none) = some (0x345, 0x10008) := by decide +kernel

end Sys2Proof.Tests
end

section
/-! What fetching a line through the cluster L1 and its home can change (08 R192 to R204; 13 R363 to R365): the clusters, the
memory dies, the events that wait and what leaves the panel. Every core, context, register and byte of memory, and every setting of
the schedule, stands as it stood. -/

namespace Sys2Proof.Machine

/-- `t` is `s` but for the state that coherence works on: L1s, directories and translation caches, the events posted, and the requests
sent to hosts. -/
def CoherenceFrame (s t : State) : Prop :=
  ∃ clusters mdies agenda out, t = { s with clusters := clusters, mdies := mdies, agenda := agenda, out := out }

namespace CoherenceFrame

theorem refl (s : State) : CoherenceFrame s s := ⟨s.clusters, s.mdies, s.agenda, s.out, rfl⟩

variable {s t : State} (h : CoherenceFrame s t)
include h

/-- Whether fetched bundles are buffered is no matter of coherence. -/
theorem buffering_eq : t.buffering = s.buffering := by
  obtain ⟨_, _, _, _, rfl⟩ := h; rfl

theorem foldl {β : Type} (f : State → β → State) (hf : ∀ {u} x, CoherenceFrame s u → CoherenceFrame s (f u x)) (l : List β) :
    CoherenceFrame s (l.foldl f t) := by
  induction l generalizing t with
  | nil => exact h
  | cons a l ih => exact ih (hf a h)

/-! ### The operations that coherence is made of -/

theorem modCluster (k : Nat) (f : Cluster → Cluster) : CoherenceFrame s (t.modCluster k f) := by
  obtain ⟨_, _, _, _, rfl⟩ := h; exact ⟨_, _, _, _, rfl⟩

theorem modMDie (k : Nat) (f : MDie → MDie) : CoherenceFrame s (t.modMDie k f) := by
  obtain ⟨_, _, _, _, rfl⟩ := h; exact ⟨_, _, _, _, rfl⟩

theorem hostRequest (p code : Nat) : CoherenceFrame s (t.hostRequest p code) := by
  obtain ⟨_, _, _, _, rfl⟩ := h; exact ⟨_, _, _, _, rfl⟩

theorem freeEntry (home id line : Nat) : CoherenceFrame s (t.freeEntry home id line) := by
  obtain ⟨_, _, _, _, rfl⟩ := h; exact ⟨_, _, _, _, rfl⟩

theorem post (i : Instr) : CoherenceFrame s (t.post i) := by
  obtain ⟨_, _, _, _, rfl⟩ := h; exact ⟨_, _, _, _, rfl⟩

theorem postOnce (i : Instr) : CoherenceFrame s (t.postOnce i) := by
  unfold State.postOnce; split
  · exact h
  · exact h.post i

theorem snoopHost (home p code : Nat) : CoherenceFrame s (t.snoopHost home p code) := by
  unfold State.snoopHost; split
  · exact h
  · exact (h.hostRequest _ _).modMDie _ _

theorem writeBack (home id line : Nat) : CoherenceFrame s (t.writeBack home id line) := by
  unfold State.writeBack; split
  · exact h.modMDie _ _
  · exact h

/-! ### Lines leaving the L1s and the directory -/

theorem dropLine (cl id line : Nat) : CoherenceFrame s (t.dropLine cl id line) := by
  unfold State.dropLine; split
  · exact h
  · exact (h.modCluster _ _).foldl _ (fun _ g => g.postOnce _) _

theorem dropLines (id line : Nat) (l : List Nat) : CoherenceFrame s (t.dropLines id line l) :=
  h.foldl _ (fun _ g => g.dropLine _ _ _) l

theorem recallLine (home id line : Nat) : CoherenceFrame s (t.recall home id line) := by
  unfold State.recall; split
  · exact h
  · dsimp only; split
    · exact ((h.writeBack _ _ _).dropLines _ _ _).modMDie _ _
    · exact ((h.writeBack _ _ _).dropLines _ _ _).freeEntry _ _ _

theorem evictEntry (home : Nat) (e : DirEntry) : CoherenceFrame s (t.evictEntry home e) := by
  unfold State.evictEntry
  refine freeEntry ?_ _ _ _
  split
  · exact ((h.writeBack _ _ _).dropLines _ _ _).snoopHost _ _ _
  · exact (h.writeBack _ _ _).dropLines _ _ _

theorem trimFilter (fd : Nat) : CoherenceFrame s (t.trimFilter fd) := by
  unfold State.trimFilter; split
  · exact h
  · split
    · exact h
    · dsimp only; split
      · exact h.evictEntry _ _
      · exact h.modMDie _ _

theorem evictL1 (cl id line : Nat) : CoherenceFrame s (t.evictL1 cl id line) := by
  unfold State.evictL1; dsimp only; split
  case h_1 | h_2 => exact h.dropLine _ _ _
  case h_3 | h_4 | h_5 =>
    split
    · exact h.dropLine _ _ _
    · split
      · exact ((h.dropLine _ _ _).modMDie _ _).freeEntry _ _ _
      · exact (h.dropLine _ _ _).modMDie _ _

theorem evictRemote (home id line : Nat) : CoherenceFrame s (t.evictRemote home id line) := by
  have gone := fun f => (h.recallLine home id line).modMDie home f
  unfold State.evictRemote; dsimp only; split
  · split
    · exact gone _
    · split
      · exact (gone _).hostRequest _ _
      · split
        · exact (gone _).hostRequest _ _
        · exact gone _
  · exact gone _

/-! ### Lines taken into the L1s and the directory -/

theorem insertEntry (p : Nat) (e : DirEntry) : CoherenceFrame s (t.insertEntry p e) := by
  unfold State.insertEntry
  extract_lets home r s1 s2 fd
  have entered : CoherenceFrame s s2 := by
    unfold s2 s1; split
    · exact h.modMDie _ _
    · split
      · exact (h.modMDie _ _).evictEntry _ _
      · exact h.modMDie _ _
  split
  · exact entered
  · exact (entered.trimFilter _).modMDie _ _

theorem putLine (cl id line : Nat) (st : Moesi) : CoherenceFrame s (t.putLine cl id line st) := by
  unfold State.putLine
  refine modCluster ?_ _ _
  split
  · exact h.evictL1 _ _ _
  · exact h

theorem cacheRemote (home id line p : Nat) (st : Moesi) : CoherenceFrame s (t.cacheRemote home id line p st) := by
  unfold State.cacheRemote; split
  · exact h
  · refine modMDie ?_ _ _
    split
    · split
      · exact h
      · exact h.evictRemote _ _ _
    · exact h

theorem grantAlone (home id line p : Nat) (keepE : Bool) : CoherenceFrame s (t.grantAlone home id line p keepE).1 := by
  unfold State.grantAlone; split
  · exact h
  · split
    · exact h
    · exact h
    · exact h.hostRequest _ _

theorem homeRead (cl : Nat) (c : Ctx) (va : Word) (p : Nat) (keepE : Bool) : CoherenceFrame s (t.homeRead cl c va p keepE) := by
  unfold State.homeRead
  split
  next id line _ =>
  extract_lets home old alone
  clear_value home alone old
  split
  · exact h
  · split
    · split
      next granted st hg =>
      have g : CoherenceFrame s granted := by simpa [hg] using h.grantAlone home id line p keepE
      refine putLine (insertEntry ?_ _ _) _ _ _ _
      split
      · exact g
      · exact g.cacheRemote _ _ _ _ _
    · split
      · exact h
      · refine putLine (insertEntry ?_ _ _) _ _ _ _
        split
        · split
          · exact h.modCluster _ _
          · exact h.modCluster _ _
          · exact h
          · exact h
          · exact h
        · exact h

/-! ### A fetch -/

theorem cacheAt (die : Nat) (c : Ctx) (va : Word) : CoherenceFrame s (t.cacheAt die c va) := by
  unfold State.cacheAt; split
  · exact h.modMDie _ _
  · exact h

theorem cacheFor (k : Nat) (a : Word) : CoherenceFrame s (t.cacheFor k a) := by
  unfold State.cacheFor; split
  · split
    · exact h.cacheAt _ _ _
    · exact h
  · exact h

theorem viaL1_fetch (k : Nat) (va : Word) (p : Nat) : CoherenceFrame s (t.viaL1 k .fetch va p) := by
  unfold State.viaL1; split
  · exact h
  · dsimp only; split
    · exact h
    · split
      · exact h
      · exact h.homeRead _ _ _ _ _

theorem fetched (k c : Nat) : CoherenceFrame s (t.fetched k c) := by
  unfold State.fetched; dsimp only; split
  · exact h
  · split
    · exact (h.cacheFor _ _).viaL1_fetch _ _ _
    · exact h

end CoherenceFrame

/-- A fetch turns the buffering of bundles neither on nor off. -/
@[simp] theorem State.fetched_buffering (s : State) (k t : Nat) : (s.fetched k t).buffering = s.buffering :=
  ((CoherenceFrame.refl s).fetched k t).buffering_eq

end Sys2Proof.Machine
end

section
/-! A step of the panel (01 R22; 02 R35, R36; 12 R332, R333): which instruction an offered slot runs, what its step answers, and
which event is tried; and the state after reset. -/

namespace Sys2Proof.Machine

/-! ### The instructions of a bundle -/

@[simp] theorem runBundle_long (i : Instr) (s : State) : runBundle (.long i) s = exec i s := rfl

@[simp] theorem runBundle_pair_nop (i : Instr) (s : State) : runBundle (.pair i .nop) s = exec i s := by
  unfold runBundle; rfl

theorem runBundle_nop_pair {i : Instr} (hi : i ≠ .nop) (s : State) : runBundle (.pair .nop i) s = exec i s := by
  unfold runBundle; split <;> simp_all

theorem runBundle_pair {i j : Instr} (hi : i ≠ .nop) (hj : j ≠ .nop) (s : State) : runBundle (.pair i j) s = runBoth i j s := by
  unfold runBundle; split <;> simp_all

/-! ### The slot of a thread -/

/-- The state in which the fetched bundle `w` of a thread executes: the notes about the bundle stand, and its line is fetched. -/
def State.issueStart (s : State) (k t : Nat) (w : Word) : State :=
  ({ s with
    cur := { Cur.idle with core := k, thr := t, bundle := w, pre := some (s.thread k t), preCore := none },
    input := { Input.none with blocked := s.blockedNow } }).fetched k t

/-- A word executed as it decodes: its bundle, or the trap form for a reserved encoding (02 R35). -/
def runWord (w : Word) (u : State) : Host.Outcome State Fault Refusal :=
  match decodeBundle w.toNat with
  | .ok b => runBundle b u
  | .error _ => exec .reservedEncoding u

theorem runWord_of_decodes {w : Word} {b : Bundle} (h : decodeBundle w.toNat = .ok b) (u : State) : runWord w u = runBundle b u := by
  simp only [runWord, h]

theorem runWord_of_reserved {w : Word} {e : DecodeErr} (h : decodeBundle w.toNat = .error e) (u : State) :
    runWord w u = exec .reservedEncoding u := by
  simp only [runWord, h]

/-- A thread that issues without a pending class A cause executes the word it fetches (02 R35). -/
theorem issueThread_fetched {s : State} {k t : Nat} {w : Word} (hA : (s.thread k t).classA = []) (hb : s.buffering = false)
    (hf : s.fetch k t = .ok w) (hw : s.fetchWaits k t = false) :
    issueThread k t none s = boundary (runWord w (s.issueStart k t w)) := by
  have off : (s.issueStart k t w).buffering = false := by simp [State.issueStart, hb]
  unfold State.issueStart at off
  unfold issueThread runWord State.issueStart
  simp only [hA, hf, hw, off, Bool.false_and, Bool.false_eq_true, if_false]
  cases decodeBundle w.toNat <;> rfl

/-! ### The slot of a core -/

/-- An offered slot whose bundle needs no bank: the bundle takes place, and the bundles whose waits it has ended retire (12 R332). -/
theorem issueSlot_of_no_request {s v : State} {k : Nat} (hp : s.pairTraps k (s.clock % 8) = false)
    (ho : s.offers k (s.clock % 8) = true) (hv : issueThread k (s.clock % 8) none s = .next v)
    (hr : issueReq k (s.clock % 8) s v = none) : issueSlot k s = .next (retireGranted s v) := by
  simp [issueSlot, hp, ho, hv, hr]

/-- An offered slot whose bundle gets the banks it asks for: they are taken for the rest of the cycle (12 R332). -/
theorem issueSlot_of_banks_free {s v : State} {k : Nat} {r : BankReq} (hp : s.pairTraps k (s.clock % 8) = false)
    (ho : s.offers k (s.clock % 8) = true) (hv : issueThread k (s.clock % 8) none s = .next v)
    (hr : issueReq k (s.clock % 8) s v = some r) (hb : s.bankTaken r = false) :
    issueSlot k s = .next (retireGranted s { v with banks := v.banks ++ r.wants }) := by
  simp [issueSlot, hp, ho, hv, hr, hb]

/-- An offered slot whose bundle loses a bank is forfeited: nothing changes (12 R333). -/
theorem issueSlot_of_bank_lost {s v : State} {k : Nat} {r : BankReq} (hp : s.pairTraps k (s.clock % 8) = false)
    (ho : s.offers k (s.clock % 8) = true) (hv : issueThread k (s.clock % 8) none s = .next v)
    (hr : issueReq k (s.clock % 8) s v = some r) (hb : s.bankTaken r = true) : issueSlot k s = .next s := by
  simp [issueSlot, hp, ho, hv, hr, hb]

/-! ### The step -/

/-- With no event left to try in this cycle a step is the slot of the core whose turn it is (01 R22; log 3). -/
theorem step_of_turn {s t : State} {k : Nat} (h0 : s.budget = 0) (hk : turnCore? s = some k) (ht : issueSlot k s = .next t) :
    step s = .next (nextTurn k t) := by
  simp [step, stepOnce, h0, hk, ht]

/-- With no schedule given a step tries the oldest waiting event (log 3). -/
theorem step_of_event {s : State} {e : Event} {l : List Event} (h0 : 0 < s.budget) (hp : s.picks = []) (ha : s.agenda = e :: l) :
    step s = tryEvent e { s with budget := s.budget - 1, agenda := l } := by
  simp [step, stepOnce, pickEvent, h0, hp, ha]

/-- What the step of an offered slot answers for the state `v` its bundle makes, by the banks that the bundle asks for (12 R332,
R333). -/
theorem step_of_slot {s v : State} {k : Nat} (h0 : s.budget = 0) (hk : turnCore? s = some k) (hp : s.pairTraps k (s.clock % 8) = false)
    (ho : s.offers k (s.clock % 8) = true) (hv : issueThread k (s.clock % 8) none s = .next v) :
    (issueReq k (s.clock % 8) s v = none → step s = .next (nextTurn k (retireGranted s v))) ∧
    (∀ r, issueReq k (s.clock % 8) s v = some r →
      (s.bankTaken r = false → step s = .next (nextTurn k (retireGranted s { v with banks := v.banks ++ r.wants }))) ∧
      (s.bankTaken r = true → step s = .next (nextTurn k s))) :=
  ⟨fun hr => step_of_turn h0 hk (issueSlot_of_no_request hp ho hv hr),
   fun _ hr => ⟨fun hb => step_of_turn h0 hk (issueSlot_of_banks_free hp ho hv hr hb),
     fun hb => step_of_turn h0 hk (issueSlot_of_bank_lost hp ho hv hr hb)⟩⟩

/-! ### The obligations -/

/-- Settles O56: the slot's thread executes the word it fetches, and the forms of a bundle are the cases of `runBundle`. The order
of events and slots (budget, picks, agenda, turn) is the model's choice (log 3). -/
theorem stepRunsTheDecodedInstruction : Obligations.StepRunsTheDecodedInstruction := by
  unfold Obligations.StepRunsTheDecodedInstruction
  intro s
  refine ⟨?_, fun e l h0 hp ha => step_of_event h0 hp ha⟩
  intro k hk t th h0 hp ho hA hb w hf hw u runs
  have ran : ∀ v, boundary (runWord w u) = .next v → runs v := fun v hv =>
    step_of_slot h0 hk hp ho ((issueThread_fetched hA hb hf hw).trans hv)
  refine ⟨?single, ?slotB, ?pair, ?reserved⟩
  case single =>
    intro i v hd hv
    rcases hd with hd | hd
    · exact ran v (by rwa [runWord_of_decodes hd, runBundle_pair_nop])
    · exact ran v (by rwa [runWord_of_decodes hd, runBundle_long])
  case slotB =>
    intro i v hi hd hv
    exact ran v (by rwa [runWord_of_decodes hd, runBundle_nop_pair hi])
  case pair =>
    intro i j v hi hj hd hv
    exact ran v (by rwa [runWord_of_decodes hd, runBundle_pair hi hj])
  case reserved =>
    intro e v hd hv
    exact ran v (by rwa [runWord_of_reserved hd])

/-- Where no core is listed every thread reads as at core reset (log 1). -/
theorem State.thread_of_no_cores {s : State} (h : s.cores = []) (k t : Nat) : s.thread k t = Thread.reset := by
  simp [State.thread, State.core, h, AMap.getD, AMap.get?, Core.thread, Core.reset]

/-- Settles O59. The free threads, the empty tables and the empty memory are the model's choice (logs 1 and 2): the panel lists no
core, so each thread is one at core reset. -/
theorem resetState : Obligations.ResetState := by
  unfold Obligations.ResetState
  refine ⟨rfl, rfl, rfl, rfl, rfl, rfl, rfl, fun k t => ?_⟩
  have free := State.thread_of_no_cores (s := State.reset) rfl k t
  rw [free]
  exact ⟨rfl, rfl, rfl⟩

end Sys2Proof.Machine
end
